-- ==== Sys2Proof/Word.lean ====
section
/-! DEFINITION. Word and container types: bytes and wider fields, the two line ports, four-fold and two-fold copies. -/

namespace Sys2Proof

/-- One byte of a frame or of a table image (12_formats.md). -/
abbrev Byte := BitVec 8

/-- A 16-bit field (12_formats.md: tags, digests, lengths). -/
abbrev Half := BitVec 16

/-- A 32-bit count (R21, R181). -/
abbrev Word := BitVec 32

/-- The 16 bytes of a notice field; bit n of the field is bit n here (R185). -/
abbrev NoticeField := BitVec 128

/-- A line port (00_scope.md, "Connections"). -/
inductive Side where
  | east
  | west
deriving DecidableEq, Repr

/-- One copy of something for each line port. -/
structure Pair (α : Type) where
  east : α
  west : α
deriving DecidableEq, Repr

/-- One copy of something for each of four bands, or of four tributary ports. -/
structure Quad (α : Type) where
  b0 : α
  b1 : α
  b2 : α
  b3 : α
deriving DecidableEq, Repr

/-- A sparse table: entries in order of rising key; an unlisted key holds the table's default. -/
abbrev Table (α : Type) := List (Nat × α)

end Sys2Proof
end

