-- ==== Sys2Proof/Syntax.lean ====
section
/-! DEFINITION. Syntax: the frames that arrive and are sent, and the commands, one constructor per row of spec/opcode_table.json. -/

namespace Sys2Proof

/-- The content of a slot. The manual names the two fills (R124, R137) and gives traffic no size (log 14). -/
inductive Content where
  | fillIdle
  | fillSquelch
  | data (value : Nat)
deriving DecidableEq, Repr

/-- A slot as a frame carries it: its content and its 16-bit tag field (12_formats.md, "Shared encodings"). -/
structure RawSlot where
  content : Content
  tag : Half
deriving DecidableEq, Repr

/-- A band frame (02_line_ports_and_band_supervision.md, "Band receivers"). A frame period in which no
signal arrives is one whose `alignmentWord` is false (R25). `payloadGood` says that the payload check passes. -/
structure BandFrame where
  alignmentWord : Bool
  payloadGood : Bool
  slots : List RawSlot
  notice : NoticeField
  management : List Byte
deriving DecidableEq, Repr

/-- A tributary frame (R126, R127). -/
structure TributaryFrame where
  alignmentWord : Bool
  slots : List RawSlot
  management : List Byte
deriving DecidableEq, Repr

/-- The commands: one constructor per row of spec/opcode_table.json. -/
inductive Instr where
  /-- POWER_RESET (R143), with the node ID strap pins. -/
  | powerReset (strap : Byte)
  /-- BAND_FRAME (R25). -/
  | bandFrame (p : Side) (b : Fin 4) (f : BandFrame)
  /-- BAND_ENTRY_INTO_LOST (R34): the third consecutive missing alignment word of a band. -/
  | bandEntryIntoLost (p : Side) (b : Fin 4)
  /-- BAND_ENTRY_INTO_ALIGNED (R34): the second consecutive good alignment word of a band, in frame `f`. -/
  | bandEntryIntoAligned (p : Side) (b : Fin 4) (f : BandFrame)
  /-- DEGRADE_INTERVAL_END (R37): the frame at position 9,999 of a band's degrade interval. -/
  | degradeIntervalEnd (p : Side) (b : Fin 4) (f : BandFrame)
  /-- HOLD_OFF_EXPIRY (R35). -/
  | holdOffExpiry (p : Side) (b : Fin 4)
  /-- RETURN_TIMER_EXPIRY (R39). -/
  | returnTimerExpiry (p : Side) (b : Fin 4)
  /-- BAND_FRAME_TRANSMIT (R32): the four band transmitters of a port. -/
  | bandFrameTransmit (p : Side)
  /-- TRIBUTARY_FRAME (R126). -/
  | tributaryFrame (t : Fin 4) (f : TributaryFrame)
  /-- TRIBUTARY_ALIGNMENT_CHANGE (R126): the frame with which a tributary port's run count reaches its limit. -/
  | tributaryAlignmentChange (t : Fin 4) (f : TributaryFrame)
  /-- TRIBUTARY_FRAME_TRANSMIT (R127). -/
  | tributaryFrameTransmit (t : Fin 4)
  /-- SWITCH_FRAME_BOUNDARY (R134). -/
  | switchFrameBoundary
  /-- TAG_CHECK_STATE_CHANGE (R136) of one circuit. -/
  | tagCheckStateChange (c : Fin 1024)
  /-- NOTICE_TAKEN (R63). -/
  | noticeTaken
  /-- STALENESS_EXPIRY (R69) of the record of one origin position. -/
  | stalenessExpiry (q : Fin 32)
  /-- REFRESH_TIMER_EXPIRY (R76). -/
  | refreshTimerExpiry
  /-- GATHER_EXPIRY (R88). -/
  | gatherExpiry
  /-- PASS_COMPLETION (R93). -/
  | passCompletion
  /-- BUILD_START (R114). -/
  | buildStart
  /-- BUILD_END (R116). -/
  | buildEnd
  /-- LISTEN_EXPIRY (R148). -/
  | listenExpiry
  /-- MANAGEMENT_FRAME_FROM_LINE (R155): the whole bytes of an assembled frame. -/
  | managementFrameFromLine (p : Side) (bytes : List Byte)
  /-- MANAGEMENT_FRAME_FROM_TRIBUTARY (R156): the whole bytes of a frame assembled at tributary 0. -/
  | managementFrameFromTributary (bytes : List Byte)
  /-- EXECUTE_REQUEST (R160). `pause` says after how many steps of the chain other events come in;
  `none` runs the chain to its end (log 17). -/
  | executeRequest (pause : Option Nat)
  /-- SELECT (R164). -/
  | select (table : Byte) (index : Half)
  /-- LOAD (R165), with its bulk data. -/
  | load (bulk : List Byte)
  /-- READ (R167). -/
  | read (count : Byte)
  /-- SERVICE_IN (R15). -/
  | serviceIn (circuit : Half)
  /-- SERVICE_OUT (R19). -/
  | serviceOut (circuit : Half)
  /-- HOLD_TIMER_EXPIRY (R169). -/
  | holdTimerExpiry
  /-- HELD_SERVICE_RELEASE (R169). -/
  | heldServiceRelease
  /-- OPERATOR (R49), side and value as the directive codes them (12_formats.md, "Directives"). -/
  | operator (side : Byte) (value : Byte)
  /-- CAPTURE (R171). -/
  | capture (flag : Byte)
  /-- RESTART (R172). -/
  | restart
  /-- REPORT_EMISSION (R178). -/
  | reportEmission
deriving DecidableEq, Repr

end Sys2Proof
end

