-- ==== Sys2Proof/Decode.lean ====
section
/-! DEFINITION. Decode: no row of spec/opcode_table.json gives bits, so no word spells a command (log 21). The
management channel's own byte formats are read in Machine/Operands.lean. -/

namespace Sys2Proof

/-- The command that a word spells by the table's bits: none, since no row gives bits. -/
def decodeTableWord (_nbits _w : Nat) : Option Instr := none

end Sys2Proof
end

