-- ==== Sys2Proof/Config.lean ====
section
/-! DEFINITION. Config: the fixed figures of the part (00_scope.md, "Figures at a glance"). The spec leaves no result
undefined, so there is no free value. -/

namespace Sys2Proof.Config

/-- Positions, spans, Notice Records and plans are numbered below 32 (R1, R43, R66, R111). -/
def ringMax : Nat := 32

/-- Circuit records (R10). -/
def circuitMax : Nat := 1024

/-- Slots of a span direction (R9). -/
def spanSlots : Nat := 64

/-- Slots of a band and of a tributary port (R9). -/
def bandSlots : Nat := 16

/-- Outputs of the Slot Switch (R124). -/
def outputs : Nat := 192

/-- The first tributary output (R124). -/
def tributaryOutputs : Nat := 128

/-- Frame periods of 100 us in a millisecond (R135; log 2). -/
def periodsPerMs : Nat := 10

/-- Frame periods of a second. -/
def periodsPerSecond : Nat := 10000

/-- The last frame position of a degrade interval (R36). -/
def lastPosition : Nat := 9999

/-- Consecutive good words that align a receiver (R25). -/
def goodRun : Nat := 2

/-- Consecutive missing words that lose alignment (R25). -/
def missingRun : Nat := 3

/-- Consecutive frames that move a tag check (R136). -/
def tagRun : Nat := 3

/-- Frames an outgoing frame queue holds (R158). -/
def frameQueueMax : Nat := 8

/-- Requests the request queue holds (R159). -/
def requestQueueMax : Nat := 4

/-- The hold limit of a held SERVICE, 200 ms (R168). -/
def holdLimit : Nat := 200 * periodsPerMs

/-- The hops of a frame the part originates (R153). -/
def frameHops : Byte := 32

/-- The items of one REPORT frame (R178). -/
def reportItems : Nat := 16

/-- The number of counters (R181). -/
def counters : Nat := 37

end Sys2Proof.Config
end

