-- ==== Sys2Proof/Machine/State.lean ====
section
/-! DEFINITION. State: everything the spec gives the part, block by block, as plain data; the values of a power
reset; the reasons a step can stop. Defaults of sparse tables stand beside the types they belong to (log 22). -/

namespace Sys2Proof

/-- Four equal copies. -/
def Quad.all {α : Type} (a : α) : Quad α := { b0 := a, b1 := a, b2 := a, b3 := a }

end Sys2Proof

namespace Sys2Proof.Machine

/-! ### Line ports and Band Supervisors (02_line_ports_and_band_supervision.md) -/

/-- Alignment of a receiver (R25, R126). -/
inductive Alignment where
  | lost
  | aligned
deriving DecidableEq, Repr

/-- A slot as delivered to the Slot Switch: a tag is a circuit number or absent (R27). -/
structure Slot where
  content : Content
  tag : Option Nat
deriving DecidableEq, Repr

/-- What a LOST band or an unaligned tributary port delivers (R27, R125). -/
def Slot.idle : Slot := { content := .fillIdle, tag := none }

/-- A band's view (R38). -/
inductive View where
  | clear
  | degraded
  | returnWait
  | failed
deriving DecidableEq, Repr

/-- The supervisor state of one band (02, "Band Supervisor"). Timers hold their expiry in frame periods. -/
structure Supervisor where
  holdOff : Option Nat
  holdOffExpired : Bool
  firstAlignment : Bool
  position : Nat
  errored : Nat
  touched : Bool
  rawDegrade : Bool
  returnTimer : Option Nat
  view : View
deriving DecidableEq, Repr

/-- One band of a line port: its receiver (R25), the slots it delivers (R27) and its supervisor. -/
structure Band where
  alignment : Alignment
  run : Nat
  slots : List Slot
  supervisor : Supervisor
deriving DecidableEq, Repr

/-- The class a notice is latched with (R29, R30). -/
inductive NoticeClass where
  | clean
  | corrected
  | uncorrectable
  | unknownKind
deriving DecidableEq, Repr

/-- The notice receive latch (R30). -/
inductive Latch where
  | empty
  | held (cls : NoticeClass) (field : NoticeField)
deriving DecidableEq, Repr

/-- A line port. `streaming` says that the port had an overhead source band in its last whole frame period or has
one now: it is what a break mark is judged by (R31; log 6). `sent` is the model's own: the last frame of each band
transmitter (R32). -/
structure LinePort where
  bands : Quad Band
  latch : Latch
  streaming : Bool
  sent : Option (Quad BandFrame)
deriving DecidableEq, Repr

/-- A tributary port (R126); `sent` is the model's own: the last frame its transmitter sent (R127). -/
structure TributaryPort where
  alignment : Alignment
  run : Nat
  slots : List Slot
  sent : Option TributaryFrame
deriving DecidableEq, Repr

/-! ### The Failure Map (03_the_failure_map.md) -/

/-- A combined condition (R52). -/
inductive Condition where
  | clear
  | degraded
  | returnWait
  | failed
  | unknown
deriving DecidableEq, Repr

/-- An operator request or operator state (R43, R53). -/
inductive OperatorRequest where
  | none
  | lockout
  | force
deriving DecidableEq, Repr

/-- A port copy (R44). -/
structure PortCopy where
  views : Quad View
  request : OperatorRequest
deriving DecidableEq, Repr

/-- What the map derives for a span of the ring: conditions (R52), operator state (R53), and which of its bands are
members of W (R54) and of X (R55). -/
structure Derived where
  conditions : Quad Condition
  operator : OperatorRequest
  inW : Quad Bool
  inX : Quad Bool
deriving DecidableEq, Repr

/-- A span entry (R43). `derived` is present exactly for a span of the ring; an outside entry has none. -/
structure SpanEntry where
  lowViews : Option (Quad View)
  highViews : Option (Quad View)
  lowRequest : OperatorRequest
  highRequest : OperatorRequest
  derived : Option Derived
deriving DecidableEq, Repr

/-- An outside entry (R43), the default of the span table. -/
def SpanEntry.outside : SpanEntry :=
  { lowViews := none, highViews := none, lowRequest := .none, highRequest := .none, derived := none }

/-- No band of four (R43: an outside entry's span-bands are in no set). -/
def noBands : Quad Bool := { b0 := false, b1 := false, b2 := false, b3 := false }

/-- All four bands of a span. -/
def allBands : Quad Bool := { b0 := true, b1 := true, b2 := true, b3 := true }

/-- The Failure Map (R43, R44). -/
structure FailureMap where
  spans : Table SpanEntry
  copies : Pair PortCopy
deriving DecidableEq, Repr

/-! ### The Notice Unit (04_notices.md) -/

/-- A notice as the unit reads it (R61). -/
structure Notice where
  position : Nat
  id : Byte
  sequence : Byte
  hops : Nat
  starting : Bool
  lowViews : Quad View
  highViews : Quad View
  lowRequest : OperatorRequest
  highRequest : OperatorRequest
  digest : Half
deriving DecidableEq, Repr

/-- What a FRESH or STALE record holds (R66). -/
structure NoticeContents where
  id : Byte
  sequence : Byte
  hops : Nat
  port : Side
  starting : Bool
  lowViews : Quad View
  highViews : Quad View
  lowRequest : OperatorRequest
  highRequest : OperatorRequest
  digest : Half
deriving DecidableEq, Repr

/-- A Notice Record (R66); the staleness timer runs exactly when it is FRESH. -/
inductive NoticeRecord where
  | never
  | fresh (contents : NoticeContents) (expiry : Nat)
  | stale (contents : NoticeContents)
deriving DecidableEq, Repr

/-- An entry of an outgoing notice queue: a notice, own or forwarded (R71). -/
structure QueuedNotice where
  notice : Notice
  own : Bool
deriving DecidableEq, Repr

/-- Convergence status (R79). -/
inductive Convergence where
  | divergent
  | converged
deriving DecidableEq, Repr

/-- The Notice Unit (04, opening; R62 for the choice between the latches). -/
structure NoticeUnit where
  records : Table NoticeRecord
  queues : Pair (List QueuedNotice)
  sequence : Byte
  refresh : Option Nat
  convergence : Convergence
  lastTaken : Side
  firstChoice : Bool
deriving DecidableEq, Repr

/-! ### The Circuit Table (01_ring_spans_and_circuits.md) -/

/-- Class of a circuit (R10). -/
inductive CircuitClass where
  | premium
  | standard
  | basic
  | extra
  | unguarded
deriving DecidableEq, Repr

/-- A direction round the ring (R7). -/
inductive Direction where
  | cw
  | ccw
deriving DecidableEq, Repr

/-- The static fields of a circuit record, apart from the attachment (R10). -/
structure CircuitFields where
  cls : CircuitClass
  width : Nat
  start : Nat
  endA : Nat
  endB : Nat
  direction : Direction
deriving DecidableEq, Repr

/-- An attachment (R10). -/
structure Attachment where
  port : Nat
  start : Nat
deriving DecidableEq, Repr

/-- Why a candidate is not restored (R104). -/
inductive Reason where
  | isolated
  | routeBarred
  | noCapacity
deriving DecidableEq, Repr

/-- Restoration state with the grant start or the reason it carries (R11). -/
inductive Restoration where
  | normal
  | restored (start : Nat)
  | unrestored (reason : Reason)
  | preempted
  | down
deriving DecidableEq, Repr

/-- Tag-check state (R11, R136). -/
inductive MatchState where
  | match_
  | mismatch
deriving DecidableEq, Repr

/-- The tag check of an attached in-service circuit (R136 to R139). `begun`: the check has begun (R139);
`counted`: this frame period's frame has been counted; `squelched`: the squelch acts in this frame period (R137). -/
structure TagCheck where
  state : MatchState
  run : Nat
  begun : Bool
  counted : Bool
  squelched : Bool
deriving DecidableEq, Repr

/-- The tag check SERVICE IN sets (R18, R139). -/
def TagCheck.initial : TagCheck :=
  { state := .match_, run := 0, begun := false, counted := false, squelched := false }

/-- A circuit record (R10, R11). -/
inductive CircuitRecord where
  | absent
  | defined (fields : CircuitFields) (attachment : Option Attachment)
  | inService (fields : CircuitFields) (attachment : Option Attachment) (restoration : Restoration)
      (tagCheck : Option TagCheck)
deriving DecidableEq, Repr

/-- An occupancy entry (R20). -/
inductive Occupant where
  | none
  | working (c : Nat)
  | extra (c : Nat)
deriving DecidableEq, Repr

/-- Orientation (R4). -/
inductive Orientation where
  | normal
  | reversed
deriving DecidableEq, Repr

/-- The SETTINGS record (00_scope.md, "Settings"); times in the units of that table. -/
structure Settings where
  holdOff : Nat
  returnDelay : Nat
  refresh : Nat
  staleness : Nat
  gatherDelay : Nat
  listen : Nat
  degradeSet : Nat
  degradeClear : Nat
  actOnDegrade : Bool
  orientation : Orientation
  reportDestination : Byte
  reportNode : Bool
  reportPort : Bool
  reportSpan : Bool
  reportCircuit : Bool
  maxReply : Nat
deriving DecidableEq, Repr

/-- The defaults of the SETTINGS record (00_scope.md, "Settings"). -/
def Settings.default : Settings :=
  { holdOff := 0, returnDelay := 300, refresh := 100, staleness := 350, gatherDelay := 5, listen := 1000,
    degradeSet := 100, degradeClear := 10, actOnDegrade := false, orientation := .normal,
    reportDestination := 0, reportNode := true, reportPort := true, reportSpan := true,
    reportCircuit := true, maxReply := 256 }

/-- The Circuit Table block. `occupancy` is keyed by 64 * span + slot (R20). -/
structure CircuitTable where
  ring : Table Byte
  settings : Settings
  circuits : Table CircuitRecord
  occupancy : Table Occupant
  generation : Word
  digest : Half
deriving DecidableEq, Repr

/-! ### The Restoration Engine and the Plan Store (05_the_restoration_pass.md, 06_span_plans.md) -/

/-- A grant (R84). -/
structure Grant where
  circuit : Nat
  start : Nat
deriving DecidableEq, Repr

/-- An entry of a state list (R105). -/
structure Outcome where
  circuit : Nat
  restoration : Restoration
deriving DecidableEq, Repr

/-- The inputs of a pass (R90) or of a build (R115). W and X are keyed by span. -/
structure PassInputs where
  w : Table (Quad Bool)
  x : Table (Quad Bool)
  n : Nat
  circuits : List (Nat × CircuitFields)
  occupancy : Table Occupant
  oldGrants : List Grant
deriving DecidableEq, Repr

/-- Engine state with what each state holds (R83): the gather timer, the snapshot, the plan being built and its inputs. -/
inductive EngineState where
  | idle
  | gather (expiry : Nat)
  | pass (snapshot : PassInputs)
  | build (span : Nat) (inputs : PassInputs)
deriving DecidableEq, Repr

/-- The Restoration Engine (R83, R84, R180). -/
structure Engine where
  state : EngineState
  grants : List Grant
  resultNumber : Half
deriving DecidableEq, Repr

/-- A span plan (R111). -/
inductive Plan where
  | absent
  | stale
  | building (generation : Word)
  | valid (generation : Word) (grants : List Grant) (outcomes : List Outcome)
deriving DecidableEq, Repr

/-! ### The Slot Switch (07_slot_switch_and_tributaries.md) -/

/-- A source (R124). -/
inductive Source where
  | fillIdle
  | lineIn (port : Side) (slot : Nat)
  | tribIn (port : Nat) (slot : Nat) (tag : Nat)
deriving DecidableEq, Repr

/-- An entry of a Connection Map: a source and the circuit it belongs to, or none (R124). -/
structure Connection where
  source : Source
  circuit : Option Nat
deriving DecidableEq, Repr

/-- The entry every output starts at (R130), the default of a Connection Map. -/
def Connection.fill : Connection := { source := .fillIdle, circuit := none }

/-- The Slot Switch: Connection Map and pending target, both keyed by output 0..191 (R124). -/
structure SlotSwitch where
  connections : Table Connection
  target : Option (Table Connection)
deriving DecidableEq, Repr

/-- The transparent target (R129). -/
def transparentMap : Table Connection :=
  (List.range 64).map (fun s => (s, { source := .lineIn .west s, circuit := none })) ++
  (List.range 64).map (fun s => (64 + s, { source := .lineIn .east s, circuit := none }))

/-! ### Node state (08_node_states.md) -/

/-- Node state; the listen timer runs exactly in STARTING (R147). -/
inductive NodeState where
  | unaddressed
  | unplaced
  | starting (listenExpiry : Nat)
  | active
deriving DecidableEq, Repr

/-- The node-state logic: the strap ID (R143) and the node state (R144). -/
structure Node where
  strap : Byte
  state : NodeState
deriving DecidableEq, Repr

/-! ### The Management Unit and the Report Unit (09_management_channel.md, 10_reports_and_counters.md) -/

/-- A port of the Management Unit (09, opening). -/
inductive MgmtPort where
  | line (p : Side)
  | tributary
deriving DecidableEq, Repr

/-- One copy of something for each port of the Management Unit. -/
structure Trio (α : Type) where
  east : α
  west : α
  tributary : α
deriving DecidableEq, Repr

/-- A management frame (R153); length and check follow from the fields. -/
structure Frame where
  kind : Byte
  destination : Byte
  origin : Byte
  hops : Byte
  tag : Half
  body : List Byte
deriving DecidableEq, Repr

/-- A frame assembler (R154): the bytes collected, oldest first. -/
inductive Assembler where
  | hunt
  | header (bytes : List Byte)
  | body (bytes : List Byte) (length : Nat)
deriving DecidableEq, Repr

/-- An outgoing frame queue (R158): its frames, and how many bytes of the head have been sent. -/
structure FrameQueue where
  frames : List Frame
  sent : Nat
deriving DecidableEq, Repr

/-- A queued request: what of a REQUEST frame its execution needs (R159, R162). -/
structure Request where
  origin : Byte
  tag : Half
  body : List Byte
deriving DecidableEq, Repr

/-- Result codes (09, "Result codes"; 12_formats.md). -/
inductive ResultCode where
  | ok
  | range
  | readOnly
  | inService
  | notInService
  | notDefined
  | invalidCircuit
  | attachment
  | conflict
  | inUse
  | notPlaced
  | engineBusy
  | badChain
  | unknownDirective
  | queueFull
  | unreachable
  | endOfTable
  | truncated
deriving DecidableEq, Repr

/-- A result item (R161). -/
structure Item where
  index : Nat
  code : ResultCode
  count : Nat
deriving DecidableEq, Repr

/-- A READ in progress: records still to return, and records returned (R167). -/
structure Reading where
  remaining : Nat
  returned : Nat
deriving DecidableEq, Repr

/-- A chain of directives in execution (R160 to R162). `requester` is the origin ID and request tag the reply goes to;
it is absent for a directive taken by itself (log 16). -/
structure Chain where
  requester : Option (Byte × Half)
  rest : List Byte
  index : Nat
  items : List Item
  records : List Byte
  reading : Option Reading
  restartDue : Bool
deriving DecidableEq, Repr

/-- IN or OUT of a SERVICE directive (R14). -/
inductive ServiceAction where
  | in_
  | out
deriving DecidableEq, Repr

/-- A SERVICE directive held on the lock (R168). -/
structure Held where
  circuit : Nat
  action : ServiceAction
  more : Bool
deriving DecidableEq, Repr

/-- Execution state (R160, R168); the hold timer runs exactly while HOLDING. -/
inductive Execution where
  | idle
  | running (chain : Chain)
  | holding (chain : Chain) (held : Held) (expiry : Nat)
deriving DecidableEq, Repr

/-- The tables reached by directives (R163). -/
inductive TableId where
  | status
  | settings
  | ring
  | circuit
  | failmap
  | notices
  | plans
  | connect
  | counters
deriving DecidableEq, Repr

/-- The cursor (R163). -/
structure Cursor where
  table : TableId
  index : Nat
deriving DecidableEq, Repr

/-- The Management Unit. `lastItems` and `lastRecords` are the model's own: what the chain that ended last gave (log 16). -/
structure Management where
  assemblers : Trio Assembler
  queues : Trio FrameQueue
  requests : List Request
  execution : Execution
  cursor : Cursor
  lastItems : List Item
  lastRecords : List Byte
deriving DecidableEq, Repr

/-- A report subject (R175). -/
inductive Subject where
  | node
  | port (p : Side)
  | span (k : Nat)
  | circuit (c : Nat)
deriving DecidableEq, Repr

/-- The Report Unit (R175): pending list, report number, counter snapshot. -/
structure ReportUnit where
  subjects : List Subject
  number : Half
  snapshot : Table Word
deriving DecidableEq, Repr

/-! ### The whole part -/

/-- The state of the part. `pending` is the queue of commands that wait, first in first out; `now` is the time in frame
periods since power reset (log 2). Both are the model's own. -/
structure State where
  pending : List Instr
  now : Nat
  node : Node
  ports : Pair LinePort
  tribs : Quad TributaryPort
  map : FailureMap
  notices : NoticeUnit
  table : CircuitTable
  engine : Engine
  plans : Table Plan
  switch : SlotSwitch
  mgmt : Management
  reports : ReportUnit
  counters : Table Word
deriving DecidableEq, Repr

/-- No command of this part stops it with a fault: the manual describes none. -/
inductive Fault where
deriving DecidableEq, Repr

/-- Why a command is refused. -/
inductive Refusal where
  /-- Raised by `exec` alone, for a row that has no meaning yet; safe. No row stands so. -/
  | notModelled (mnemonic : String)
deriving DecidableEq, Repr

/-- A Band Supervisor's state after power reset (R33). -/
def Supervisor.reset : Supervisor :=
  { holdOff := none, holdOffExpired := true, firstAlignment := true, position := 0, errored := 0,
    touched := false, rawDegrade := false, returnTimer := none, view := .failed }

/-- A band after power reset (R25, R33). -/
def Band.reset : Band := { alignment := .lost, run := 0, slots := [], supervisor := .reset }

/-- A line port after power reset (R25, R30, R33). -/
def LinePort.reset : LinePort :=
  { bands := Quad.all .reset, latch := .empty, streaming := false, sent := none }

/-- A tributary port after power reset (R126). -/
def TributaryPort.reset : TributaryPort := { alignment := .lost, run := 0, slots := [], sent := none }

/-- A port copy after power reset (R44). -/
def PortCopy.reset : PortCopy := { views := Quad.all .failed, request := .none }

/-- An empty outgoing frame queue (R158). -/
def FrameQueue.empty : FrameQueue := { frames := [], sent := 0 }

/-- The node state after power reset (R144). -/
def NodeState.reset (strap : Byte) : NodeState :=
  if strap = 0 ∨ strap = 255 then .unaddressed else .unplaced

/-- The part right after a power reset that reads `strap` from the node ID strap pins: R24, R33, R44, R60, R82, R110,
R122, R142, R152, R174, R184. -/
def State.powerOn (strap : Byte) : State :=
  { pending := []
    now := 0
    node := { strap := strap, state := NodeState.reset strap }
    ports := { east := .reset, west := .reset }
    tribs := Quad.all .reset
    map := { spans := [], copies := { east := .reset, west := .reset } }
    notices :=
      { records := [], queues := { east := [], west := [] }, sequence := 0, refresh := none,
        convergence := .divergent, lastTaken := .west, firstChoice := true }
    table :=
      { ring := [], settings := .default, circuits := [], occupancy := [], generation := 0, digest := 0 }
    engine := { state := .idle, grants := [], resultNumber := 0 }
    plans := []
    switch := { connections := transparentMap, target := none }
    mgmt :=
      { assemblers := { east := .hunt, west := .hunt, tributary := .hunt }
        queues := { east := .empty, west := .empty, tributary := .empty }
        requests := [], execution := .idle, cursor := { table := .status, index := 0 }
        lastItems := [], lastRecords := [] }
    reports := { subjects := [], number := 0, snapshot := [] }
    counters := [] }

/-- The machine right after reset. The strap pins are outside the part; the model reads 1 from them, a valid own ID
(DESIGN CHOICE, unsafe, log 15). -/
def State.reset : State := State.powerOn 1

end Sys2Proof.Machine
end

