-- ==== Sys2Proof/Machine/Ops.lean ====
section
/-! DEFINITION. Ops: reading and writing of tables and copies, counters (R181), report raises (R176), the clock and its
timers, and the named accessors of the state. -/

namespace Sys2Proof

/-! ### Copies -/

/-- The copy of a line port. -/
def Pair.get {α : Type} (q : Pair α) : Side → α
  | .east => q.east
  | .west => q.west

/-- Replace the copy of a line port. -/
def Pair.set {α : Type} (q : Pair α) (p : Side) (v : α) : Pair α :=
  match p with
  | .east => { q with east := v }
  | .west => { q with west := v }

/-- The copy numbered `i`, 0..3. -/
def Quad.get {α : Type} (q : Quad α) (i : Nat) : α :=
  match i with
  | 0 => q.b0
  | 1 => q.b1
  | 2 => q.b2
  | _ => q.b3

/-- Replace the copy numbered `i`, 0..3. -/
def Quad.set {α : Type} (q : Quad α) (i : Nat) (v : α) : Quad α :=
  match i with
  | 0 => { q with b0 := v }
  | 1 => { q with b1 := v }
  | 2 => { q with b2 := v }
  | 3 => { q with b3 := v }
  | _ => q

/-- Apply a function to each copy. -/
def Quad.map {α β : Type} (f : α → β) (q : Quad α) : Quad β :=
  { b0 := f q.b0, b1 := f q.b1, b2 := f q.b2, b3 := f q.b3 }

/-- Combine two sets of copies, band by band. -/
def Quad.zip {α β γ : Type} (f : α → β → γ) (q : Quad α) (r : Quad β) : Quad γ :=
  { b0 := f q.b0 r.b0, b1 := f q.b1 r.b1, b2 := f q.b2 r.b2, b3 := f q.b3 r.b3 }

/-- The four copies in order. -/
def Quad.toList {α : Type} (q : Quad α) : List α := [q.b0, q.b1, q.b2, q.b3]

/-- The other line port. -/
def Side.other : Side → Side
  | .east => .west
  | .west => .east

end Sys2Proof

namespace Sys2Proof.Machine

/-! ### Tables -/

/-- The value a sparse table holds at key `k`; `d` is the table's default. -/
def look {α : Type} (d : α) : Table α → Nat → α
  | [], _ => d
  | (j, v) :: rest, k => if j = k then v else look d rest k

/-- A table without its entries at `k`. -/
def erase {α : Type} (k : Nat) (t : Table α) : Table α := t.filter (fun e => e.1 != k)

/-- A table with one more entry, put before the first entry of a higher key. -/
def insertKey {α : Type} (k : Nat) (v : α) : Table α → Table α
  | [] => [(k, v)]
  | e :: rest => if k < e.1 then (k, v) :: e :: rest else e :: insertKey k v rest

/-- Write `v` at key `k`, keeping the canonical form: a default value is not listed (log 22). -/
def put {α : Type} [DecidableEq α] (d : α) (t : Table α) (k : Nat) (v : α) : Table α :=
  if v = d then erase k t else insertKey k v (erase k t)

/-- The canonical form of a table: keys strictly rising, no entry equal to the default. -/
def tableWf {α : Type} [DecidableEq α] (d : α) : Table α → Bool
  | [] => true
  | (k, v) :: rest => (v != d) && rest.all (fun e => k < e.1) && tableWf d rest

/-- The copy of a management port. -/
def Trio.get {α : Type} (q : Trio α) : MgmtPort → α
  | .line .east => q.east
  | .line .west => q.west
  | .tributary => q.tributary

/-- Replace the copy of a management port. -/
def Trio.set {α : Type} (q : Trio α) (p : MgmtPort) (v : α) : Trio α :=
  match p with
  | .line .east => { q with east := v }
  | .line .west => { q with west := v }
  | .tributary => { q with tributary := v }

/-! ### Accessors -/

/-- A line port. -/
def State.port (s : State) (p : Side) : LinePort := s.ports.get p

/-- Replace a line port. -/
def State.setPort (s : State) (p : Side) (v : LinePort) : State := { s with ports := s.ports.set p v }

/-- A band of a line port. -/
def State.band (s : State) (p : Side) (b : Nat) : Band := (s.port p).bands.get b

/-- Replace a band of a line port. -/
def State.setBand (s : State) (p : Side) (b : Nat) (v : Band) : State :=
  s.setPort p { s.port p with bands := (s.port p).bands.set b v }

/-- A tributary port. -/
def State.trib (s : State) (t : Nat) : TributaryPort := s.tribs.get t

/-- Replace a tributary port. -/
def State.setTrib (s : State) (t : Nat) (v : TributaryPort) : State := { s with tribs := s.tribs.set t v }

/-- The SETTINGS record. -/
def State.settings (s : State) : Settings := s.table.settings

/-- The record of circuit `c` (R10). -/
def State.circuit (s : State) (c : Nat) : CircuitRecord := look .absent s.table.circuits c

/-- Replace the record of circuit `c`. -/
def State.setCircuit (s : State) (c : Nat) (r : CircuitRecord) : State :=
  { s with table := { s.table with circuits := put .absent s.table.circuits c r } }

/-- The span entry `k` (R43). -/
def State.span (s : State) (k : Nat) : SpanEntry := look .outside s.map.spans k

/-- The Notice Record of origin position `q` (R66). -/
def State.record (s : State) (q : Nat) : NoticeRecord := look .never s.notices.records q

/-- Replace the Notice Record of origin position `q`. -/
def State.setRecord (s : State) (q : Nat) (r : NoticeRecord) : State :=
  { s with notices := { s.notices with records := put .never s.notices.records q r } }

/-- Span plan `k` (R111). -/
def State.plan (s : State) (k : Nat) : Plan := look .absent s.plans k

/-- Replace span plan `k`. -/
def State.setPlan (s : State) (k : Nat) (v : Plan) : State := { s with plans := put .absent s.plans k v }

/-- The Connection Map's entry for output `o` (R124). -/
def State.connection (s : State) (o : Nat) : Connection := look .fill s.switch.connections o

/-- The circuit-table lock is HELD exactly while the engine is in PASS (R91). -/
def State.lockHeld (s : State) : Bool :=
  match s.engine.state with
  | .pass _ => true
  | _ => false

/-- The in-service records, in ascending circuit number, with their fields and attachments (R11). -/
def inServiceOf (t : Table CircuitRecord) : List (Nat × CircuitFields × Option Attachment) :=
  t.filterMap (fun e =>
    match e.2 with
    | .inService fields att _ _ => some (e.1, fields, att)
    | _ => none)

/-- Any circuit record is IN_SERVICE (R2, R5). -/
def State.anyInService (s : State) : Bool := !(inServiceOf s.table.circuits).isEmpty

/-! ### Counters (R181) -/

/-- One more event, holding at 2^32 - 1 (R42, R181). -/
def saturate (v : Word) : Word := if v = 0xFFFFFFFF then v else v + 1

/-- The live value of counter `n` (R181). -/
def State.counter (s : State) (n : Nat) : Word := look 0 s.counters n

/-- Count one event at counter `n` (R181). -/
def bump (n : Nat) (s : State) : State := { s with counters := put 0 s.counters n (saturate (s.counter n)) }

/-- The number of the counter "passes completed" (R181). -/
def ctrPassesCompleted : Nat := 0

/-- The number of the counter "passes abandoned" (R181). -/
def ctrPassesAbandoned : Nat := 1

/-- The number of the counter "fast-path applications" (R181). -/
def ctrFastPath : Nat := 2

/-- The number of the counter "swings" (R181). -/
def ctrSwings : Nat := 3

/-- The number of the counter "requests refused with QUEUE_FULL" (R181). -/
def ctrQueueFull : Nat := 4

/-- The first counter of a line port (R181). -/
def ctrPort : Side → Nat
  | .east => 5
  | .west => 20

/-- The counter of the notices latched with a class (R181, offsets 0..3). -/
def ctrNotice (p : Side) (cls : NoticeClass) : Nat :=
  ctrPort p + match cls with
    | .clean => 0
    | .corrected => 1
    | .uncorrectable => 2
    | .unknownKind => 3

/-- The FOREIGN counter of a line port (R181, offset 4). -/
def ctrForeign (p : Side) : Nat := ctrPort p + 4

/-- The errored-frame counter of a band (R181, offsets 7..10). -/
def ctrErrored (p : Side) (b : Nat) : Nat := ctrPort p + 7 + b

/-- The alignment-loss counter of a band (R181, offsets 11..14). -/
def ctrLosses (p : Side) (b : Nat) : Nat := ctrPort p + 11 + b

/-- The management-frames-bad counter of a management port (R174, R181). -/
def ctrBad : MgmtPort → Nat
  | .line p => ctrPort p + 5
  | .tributary => 35

/-- The management-frames-discarded counter of a management port (R174, R181). -/
def ctrDiscarded : MgmtPort → Nat
  | .line p => ctrPort p + 6
  | .tributary => 36

/-! ### Report raises (R176) -/

/-- The enable of a subject's category (R176). -/
def Settings.enabled (g : Settings) : Subject → Bool
  | .node => g.reportNode
  | .port _ => g.reportPort
  | .span _ => g.reportSpan
  | .circuit _ => g.reportCircuit

/-- Raise a report for a subject: dropped when its category is off; appended when it is not yet in the list (R176). -/
def raise (x : Subject) (s : State) : State :=
  if s.settings.enabled x && !s.reports.subjects.contains x then
    { s with reports := { s.reports with subjects := s.reports.subjects ++ [x] } }
  else s

/-- Raise reports for several subjects, in order. -/
def raiseAll (xs : List Subject) (s : State) : State := xs.foldl (fun t x => raise x t) s

/-! ### The clock (log 2) -/

/-- Frame periods of a time in milliseconds. -/
def ms (n : Nat) : Nat := n * Config.periodsPerMs

/-- The time has come to the expiry of a timer: the clock stands at that moment or later. -/
def State.reach (s : State) (expiry : Nat) : State := { s with now := max s.now expiry }

/-- The whole milliseconds left to an expiry (R81, R151). -/
def State.msLeft (s : State) (expiry : Nat) : Nat := (expiry - s.now) / Config.periodsPerMs

end Sys2Proof.Machine
end

