-- ==== Sys2Proof/Machine/Ring.lean ====
section
/-! DEFINITION. Ring: the ring map and what is derived from it (R1), the line ports by orientation (R4), routes and
relations (R7, R8), ranges and span-bands (R9). -/

namespace Sys2Proof.Machine

/-! ### The ring map (R1) -/

/-- The ring size N: the index of the first entry that holds 0, or 32 (R1). -/
def ringSizeOf (ring : Table Byte) : Nat :=
  ((List.range Config.ringMax).find? (fun k => look 0 ring k == 0)).getD Config.ringMax

/-- The IDs of entries 0..N-1 (R1). -/
def ringIdsOf (ring : Table Byte) : List Byte := (List.range (ringSizeOf ring)).map (look 0 ring)

/-- The own ID that a strap ID gives: a valid one is 1..254 (R143). -/
def ownIdOf (strap : Byte) : Option Byte := if strap = 0 ∨ strap = 255 then none else some strap

/-- The ring map is valid for an own ID (R1). -/
def ringValidOf (ring : Table Byte) (own : Byte) : Bool :=
  let n := ringSizeOf ring
  let ids := ringIdsOf ring
  decide (2 ≤ n) && (ids.count own == 1) && decide ids.Nodup &&
    (List.range Config.ringMax).all (fun k => decide (k < n) || look 0 ring k == 0)

/-- The position of an ID among entries 0..N-1 (R1, R157). -/
def positionOf (ring : Table Byte) (id : Byte) : Option Nat :=
  (List.range (ringSizeOf ring)).find? (fun k => look 0 ring k == id)

/-- The own position, for a strap ID and a ring map: defined while the map is valid (R1). -/
def ownPositionOf (ring : Table Byte) (strap : Byte) : Option Nat :=
  match ownIdOf strap with
  | none => none
  | some own => if ringValidOf ring own then positionOf ring own else none

/-- The ring size N of the part (R1). -/
def State.ringSize (s : State) : Nat := ringSizeOf s.table.ring

/-- The own ID (R143). -/
def State.ownId (s : State) : Option Byte := ownIdOf s.node.strap

/-- The own position; the node is placed when it is defined (R1). -/
def State.position (s : State) : Option Nat := ownPositionOf s.table.ring s.node.strap

/-- The node is placed (R1). -/
def State.placed (s : State) : Bool := s.position.isSome

/-- How many spans are of the ring: N while the node is placed, none otherwise (R43). -/
def spansOfRing (ring : Table Byte) (strap : Byte) : Nat :=
  match ownPositionOf ring strap with
  | none => 0
  | some _ => ringSizeOf ring

/-! ### Orientation (R4) -/

/-- The clockwise-facing line port (R4). -/
def clockwiseSide : Orientation → Side
  | .normal => .east
  | .reversed => .west

/-- The counter-clockwise-facing line port (R4). -/
def counterSide (o : Orientation) : Side := (clockwiseSide o).other

/-! ### Ring arithmetic and routes (R7) -/

/-- (x - y) mod n (00_scope.md, "Conventions"). -/
def ringSub (n x y : Nat) : Nat := (x + (n - y % n)) % n

/-- The spans of a route from position `a` to position `b`, in order (R7). -/
def route (n a b : Nat) : Direction → List Nat
  | .cw => (List.range (ringSub n b a)).map (fun i => (a + i) % n)
  | .ccw => (List.range (ringSub n a b)).map (fun i => ringSub n a (i + 1))

/-- The opposite direction. -/
def Direction.flip : Direction → Direction
  | .cw => .ccw
  | .ccw => .cw

/-- The working route of a circuit (R7). -/
def CircuitFields.workingRoute (f : CircuitFields) (n : Nat) : List Nat := route n f.endA f.endB f.direction

/-- The restoration route of a circuit (R7). -/
def CircuitFields.restorationRoute (f : CircuitFields) (n : Nat) : List Nat :=
  route n f.endA f.endB f.direction.flip

/-- The relation of a position to a route (R8). -/
inductive Relation where
  | endA
  | endB
  | intermediate
  | off
deriving DecidableEq, Repr

/-- The relation of position `q` to the route from `a` to `b` in a direction (R8). -/
def relation (n q a b : Nat) (d : Direction) : Relation :=
  if q = a then .endA
  else if q = b then .endB
  else
    let (along, whole) := match d with
      | .cw => (ringSub n q a, ringSub n b a)
      | .ccw => (ringSub n a q, ringSub n a b)
    if 1 ≤ along ∧ along + 1 ≤ whole then .intermediate else .off

/-- The port by which a route meets the node at one of its ends (R8's table). -/
def endSide (o : Orientation) (d : Direction) (atA : Bool) : Side :=
  match d, atA with
  | .cw, true => clockwiseSide o
  | .cw, false => counterSide o
  | .ccw, true => counterSide o
  | .ccw, false => clockwiseSide o

/-! ### Ranges (R9) -/

/-- The slots of a range (R9). -/
def rangeSlots (start width : Nat) : List Nat := (List.range width).map (fun i => start + i)

/-- The bands a range covers: that of its first slot and that of its last (R9). -/
def rangeBands (start width : Nat) : List Nat := [start / 16, (start + width - 1) / 16]

/-- The key of a span and slot in the occupancy and in a capacity map (R20, R97). -/
def slotKey (k t : Nat) : Nat := Config.spanSlots * k + t

/-! ### The digest (R22) -/

/-- One byte of the digest method: sum1 and sum2 after it (R22). -/
def fletcherStep (sums : Nat × Nat) (byte : Nat) : Nat × Nat :=
  let sum1 := (sums.1 + byte) % 255
  (sum1, (sums.2 + sum1) % 255)

/-- The method of the table digest over a run of bytes: sum2 * 256 + sum1 (R22). -/
def fletcher (bytes : List Nat) : Half :=
  let sums := bytes.foldl fletcherStep (0, 0)
  BitVec.ofNat 16 (sums.2 * 256 + sums.1)

/-- Codes of the classes (R10). -/
def CircuitClass.code : CircuitClass → Nat
  | .premium => 0
  | .standard => 1
  | .basic => 2
  | .extra => 3
  | .unguarded => 4

/-- Codes of the working directions (R10). -/
def Direction.code : Direction → Nat
  | .cw => 0
  | .ccw => 1

/-- The 8 canonical bytes of an in-service circuit (R22). -/
def circuitBytes (c : Nat) (f : CircuitFields) : List Nat :=
  [c / 256, c % 256, f.cls.code, f.width, f.endA, f.endB, f.direction.code, f.start]

/-- The table digest of a circuit table (R22). -/
def digestOf (t : CircuitTable) : Half :=
  fletcher ((ringIdsOf t.ring).map BitVec.toNat ++ [t.settings.actOnDegrade.toNat] ++
    (inServiceOf t.circuits).flatMap (fun e => circuitBytes e.1 e.2.1))

end Sys2Proof.Machine
end

