-- ==== Sys2Proof/Machine/Pass.lean ====
section
/-! DEFINITION. Pass: the computation of a pass or build over its inputs, in the five steps of
05_the_restoration_pass.md (R97 to R105). It reads nothing but its inputs. -/

namespace Sys2Proof.Machine

/-- An entry of the capacity map (R97). -/
inductive Capacity where
  | free
  | working (c : Nat)
  | extra (c : Nat)
  | granted (c : Nat)
deriving DecidableEq, Repr

/-- The capacity entry of an occupancy entry (R97). -/
def Occupant.capacity : Occupant → Capacity
  | .none => .free
  | .working c => .working c
  | .extra c => .extra c

/-- Step 1: the capacity map of spans 0..N-1, copied from the occupancy (R97). -/
def capacityMap (i : PassInputs) : Table Capacity :=
  (i.occupancy.filter (fun e => e.1 < slotKey i.n 0)).map (fun e => (e.1, e.2.capacity))

/-- Span-band (k, b) is a member of a set (R54, R55). -/
def memberOf (set : Table (Quad Bool)) (k b : Nat) : Bool := (look noBands set k).get b

/-- The span-bands a circuit uses (R98). -/
def uses (n : Nat) (f : CircuitFields) : List (Nat × Nat) :=
  (f.workingRoute n).flatMap (fun k => (rangeBands f.start f.width).map (fun b => (k, b)))

/-- The circuit is affected: it uses a span-band of W (R98). -/
def affected (i : PassInputs) (f : CircuitFields) : Bool :=
  (uses i.n f).any (fun e => memberOf i.w e.1 e.2)

/-- The guarded classes (00_scope.md, "Class"). -/
def CircuitClass.guarded : CircuitClass → Bool
  | .premium => true
  | .standard => true
  | .basic => true
  | _ => false

/-- The fields of a circuit of the inputs. -/
def PassInputs.fields (i : PassInputs) (c : Nat) : Option CircuitFields := i.circuits.lookup c

/-- Every entry EXTRA(e) on the spans of e's working route becomes FREE (R99, R103). -/
def releaseExtra (i : PassInputs) (cap : Table Capacity) (e : Nat) : Table Capacity :=
  match i.fields e with
  | none => cap
  | some f => cap.filter (fun x => !(x.2 == .extra e && (f.workingRoute i.n).contains (x.1 / Config.spanSlots)))

/-- The circuits of class EXTRA that are affected (R99). -/
def downExtras (i : PassInputs) : List Nat :=
  (i.circuits.filter (fun e => e.2.cls == .extra && affected i e.2)).map Prod.fst

/-- Step 2: the capacity map once the affected EXTRA circuits have given up their entries (R99). -/
def classifiedMap (i : PassInputs) : Table Capacity := (downExtras i).foldl (releaseExtra i) (capacityMap i)

/-- The candidates of one class, by ascending circuit number (R99, R100). -/
def candidatesOf (i : PassInputs) (cls : CircuitClass) : List (Nat × CircuitFields) :=
  i.circuits.filter (fun e => e.2.cls == cls && affected i e.2)

/-- Step 3: the candidates in the order they are placed (R100). -/
def candidates (i : PassInputs) : List (Nat × CircuitFields) :=
  candidatesOf i .premium ++ candidatesOf i .standard ++ candidatesOf i .basic

/-- Every band a range covers is outside X on every span of a route (R101). -/
def bandsOpen (i : PassInputs) (spans : List Nat) (start width : Nat) : Bool :=
  spans.all (fun k => (rangeBands start width).all (fun b => !memberOf i.x k b))

/-- The keys of the slots of a range on the spans of a route. -/
def rangeKeys (spans : List Nat) (start width : Nat) : List Nat :=
  spans.flatMap (fun k => (rangeSlots start width).map (slotKey k))

/-- An entry a candidate may be given: FREE, and in the displacing sweep EXTRA too (R97, R101). -/
def Capacity.givable (displacing : Bool) : Capacity → Bool
  | .free => true
  | .extra _ => displacing
  | _ => false

/-- Start `s` is usable for a range of width `w` on a route, in the free or in the displacing sweep (R101). -/
def usable (i : PassInputs) (cap : Table Capacity) (displacing : Bool) (spans : List Nat) (w s : Nat) : Bool :=
  decide (s + w ≤ Config.spanSlots) && bandsOpen i spans s w &&
    (rangeKeys spans s w).all (fun k => (look .free cap k).givable displacing)

/-- The starts 0..64-w (R101). -/
def starts (w : Nat) : List Nat := List.range (Config.spanSlots + 1 - w)

/-- The old grant of a circuit (R102). -/
def oldGrant (i : PassInputs) (c : Nat) : Option Nat :=
  (i.oldGrants.find? (fun g => g.circuit == c)).map Grant.start

/-- The start a candidate is given: sticky choice, free sweep, displacing sweep (R102). -/
def chosenStart (i : PassInputs) (cap : Table Capacity) (c : Nat) (f : CircuitFields) : Option Nat :=
  let spans := f.restorationRoute i.n
  let sticky := (oldGrant i c).filter (usable i cap true spans f.width)
  sticky.or (((starts f.width).find? (usable i cap false spans f.width)).or
    ((starts f.width).find? (usable i cap true spans f.width)))

/-- The reason of a candidate that is not placed (R104). -/
def reasonOf (i : PassInputs) (f : CircuitFields) : Reason :=
  let spans := f.restorationRoute i.n
  if spans.any (fun k => look noBands i.x k == allBands) &&
      (f.workingRoute i.n).any (fun k => look noBands i.w k == allBands) then .isolated
  else if (starts f.width).all (fun s => !bandsOpen i spans s f.width) then .routeBarred
  else .noCapacity

/-- What step 4 has reached: the capacity map, the grants given, the EXTRA circuits preempted, the candidates not placed. -/
structure Placing where
  cap : Table Capacity
  grants : List (Nat × Nat)
  preempted : List Nat
  unplaced : List (Nat × Reason)
deriving DecidableEq, Repr

/-- The EXTRA circuits met in the slots of a grant (R103). -/
def displacedBy (cap : Table Capacity) (keys : List Nat) : List Nat :=
  (keys.filterMap (fun k => match look .free cap k with
    | .extra e => some e
    | _ => none)).dedup

/-- Step 4 for one candidate: place it, with the changes of R103, or find it UNRESTORED (R104). -/
def placeOne (i : PassInputs) (p : Placing) (e : Nat × CircuitFields) : Placing :=
  match chosenStart i p.cap e.1 e.2 with
  | some s =>
    let keys := rangeKeys (e.2.restorationRoute i.n) s e.2.width
    let met := displacedBy p.cap keys
    { p with
      cap := met.foldl (releaseExtra i) (keys.foldl (fun cap k => put .free cap k (.granted e.1)) p.cap)
      grants := p.grants ++ [(e.1, s)]
      preempted := p.preempted ++ met }
  | none => { p with unplaced := p.unplaced ++ [(e.1, reasonOf i e.2)] }

/-- Step 4: the candidates placed one by one (R100 to R104). -/
def placeAll (i : PassInputs) : Placing :=
  (candidates i).foldl (placeOne i) { cap := classifiedMap i, grants := [], preempted := [], unplaced := [] }

/-- The restoration state a circuit takes (R99, R105). -/
def restorationOf (i : PassInputs) (p : Placing) (c : Nat) (f : CircuitFields) : Restoration :=
  if affected i f then
    if f.cls.guarded then
      match p.grants.lookup c with
      | some s => .restored s
      | none => .unrestored ((p.unplaced.lookup c).getD .noCapacity)
    else .down
  else if p.preempted.contains c then .preempted
  else .normal

/-- A result: the grant list and the state list (R105). -/
structure PassResult where
  grants : List Grant
  outcomes : List Outcome
deriving DecidableEq, Repr

/-- Step 5: the result of a pass or build (R105). -/
def computePass (i : PassInputs) : PassResult :=
  let p := placeAll i
  { grants := i.circuits.filterMap (fun e => (p.grants.lookup e.1).map (fun s => { circuit := e.1, start := s }))
    outcomes := i.circuits.map (fun e => { circuit := e.1, restoration := restorationOf i p e.1 e.2 }) }

end Sys2Proof.Machine
end

