-- ==== Sys2Proof/Machine/Flags.lean ====
section
/-! DEFINITION. Flags: everything the part derives and holds as a status: band views (R38, R39), combined conditions,
operator states and the sets W and X (R52 to R55), convergence (R79), plans ready (R118). -/

namespace Sys2Proof.Machine

/-! ### Band views -/

/-- The view of a band derived afresh from its supervisor state, with the return timer started or cancelled as R39 says;
`lost` says that the band is LOST, `now` and `delay` are in frame periods (R38, R39). -/
def deriveView (lost : Bool) (now delay : Nat) (v : Supervisor) : Supervisor :=
  if lost && v.holdOffExpired then { v with view := .failed, returnTimer := none }
  else if v.rawDegrade then { v with view := .degraded, returnTimer := none }
  else
    let leaving := v.view == .failed || v.view == .degraded
    let timer := if leaving && !v.firstAlignment && delay != 0 then some (now + delay) else v.returnTimer
    { v with view := if timer.isSome then .returnWait else .clear, returnTimer := timer }

/-- Raw degrade at the end of an interval, by the first condition of R37's table that holds. -/
def rawDegradeAfter (setThreshold clearThreshold : Nat) (v : Supervisor) : Bool :=
  if setThreshold = 0 then false
  else if v.touched then v.rawDegrade
  else if setThreshold ≤ v.errored then true
  else if v.errored < clearThreshold then false
  else v.rawDegrade

/-! ### Conditions and sets -/

/-- A view as a condition (R52). -/
def View.condition : View → Condition
  | .clear => .clear
  | .degraded => .degraded
  | .returnWait => .returnWait
  | .failed => .failed

/-- The worse of two views: FAILED, then RETURN_WAIT, then DEGRADED, then CLEAR (R52). -/
def worse : View → View → View
  | .failed, _ => .failed
  | _, .failed => .failed
  | .returnWait, _ => .returnWait
  | _, .returnWait => .returnWait
  | .degraded, _ => .degraded
  | _, .degraded => .degraded
  | .clear, .clear => .clear

/-- The combined conditions of a span, from its two view records (R52). -/
def combined : Option (Quad View) → Option (Quad View) → Quad Condition
  | none, none => Quad.all .unknown
  | some l, none => l.map View.condition
  | none, some h => h.map View.condition
  | some l, some h => l.zip (fun a b => (worse a b).condition) h

/-- The operator state of a span, from its two requests (R53). -/
def operatorState (low high : OperatorRequest) : OperatorRequest :=
  if low = .lockout ∨ high = .lockout then .lockout
  else if low = .force ∨ high = .force then .force
  else .none

/-- Membership of W (R54). -/
def inWorkingBlocked (actOnDegrade : Bool) (op : OperatorRequest) (c : Condition) : Bool :=
  c == .failed || c == .returnWait || (c == .degraded && actOnDegrade) || op == .force

/-- Membership of X (R55). -/
def inRestorationBarred (actOnDegrade : Bool) (op : OperatorRequest) (c : Condition) : Bool :=
  c == .failed || c == .unknown || (c == .degraded && actOnDegrade) || op == .lockout || op == .force

/-- What is derived for a span of the ring from its four end records (R52 to R55). -/
def deriveSpan (actOnDegrade : Bool) (e : SpanEntry) : Derived :=
  let conditions := combined e.lowViews e.highViews
  let op := operatorState e.lowRequest e.highRequest
  { conditions := conditions
    operator := op
    inW := conditions.map (inWorkingBlocked actOnDegrade op)
    inX := conditions.map (inRestorationBarred actOnDegrade op) }

/-- All span entries derived afresh, with spans 0..n-1 of the ring and every other entry outside (R43, R56). -/
def deriveSpans (n : Nat) (actOnDegrade : Bool) (spans : Table SpanEntry) : Table SpanEntry :=
  (List.range n).map (fun k =>
    let e := look .outside spans k
    (k, { e with derived := some (deriveSpan actOnDegrade e) }))

/-- The bands of a span entry in W (R54). -/
def SpanEntry.bandsInW (e : SpanEntry) : Quad Bool :=
  match e.derived with
  | none => noBands
  | some d => d.inW

/-- The bands of a span entry in X (R55). -/
def SpanEntry.bandsInX (e : SpanEntry) : Quad Bool :=
  match e.derived with
  | none => noBands
  | some d => d.inX

/-- The bands of span `k` in W, as the latest derivation left them (R59). -/
def FailureMap.bandsInW (m : FailureMap) (k : Nat) : Quad Bool := (look .outside m.spans k).bandsInW

/-- The bands of span `k` in X, as the latest derivation left them (R59). -/
def FailureMap.bandsInX (m : FailureMap) (k : Nat) : Quad Bool := (look .outside m.spans k).bandsInX

/-- The sets W and X, span by span (R56). -/
def FailureMap.sets (m : FailureMap) : List (Quad Bool × Quad Bool) :=
  (List.range Config.ringMax).map (fun k => (m.bandsInW k, m.bandsInX k))

/-- W and X are both empty (R87, R95). -/
def FailureMap.setsEmpty (m : FailureMap) : Bool := m.sets.all (fun e => e == (noBands, noBands))

/-- The span all of whose bands, and no other span-bands, make up W and X alike, if there is one (R119, condition 4). -/
def FailureMap.cutSpan (m : FailureMap) : Option Nat :=
  (List.range Config.ringMax).find? (fun k =>
    (List.range Config.ringMax).all (fun j =>
      (m.bandsInW j, m.bandsInX j) == if j = k then (allBands, allBands) else (noBands, noBands)))

/-- The spans whose four combined conditions or operator state differ between two maps, or that pass between
outside and the ring (R58). -/
def changedSpans (before after : Table SpanEntry) : List Nat :=
  let seen (t : Table SpanEntry) (k : Nat) : Option (Quad Condition × OperatorRequest) :=
    (look .outside t k).derived.map (fun d => (d.conditions, d.operator))
  (List.range Config.ringMax).filter (fun k => seen before k != seen after k)

/-! ### Convergence and readiness -/

/-- The node is STARTING or ACTIVE. -/
def NodeState.runs : NodeState → Bool
  | .starting _ => true
  | .active => true
  | _ => false

/-- A record that is FRESH with a given digest (R79). -/
def NoticeRecord.agrees (d : Half) : NoticeRecord → Bool
  | .fresh c _ => c.digest == d
  | _ => false

/-- The convergence status as R79 evaluates it. -/
def convergenceOf (s : State) : Convergence :=
  match s.node.state.runs, s.position with
  | true, some p =>
    if (List.range s.ringSize).all (fun q => q == p || (s.record q).agrees s.table.digest) then .converged
    else .divergent
  | _, _ => .divergent

/-- A plan is VALID (R111). -/
def Plan.isValid : Plan → Bool
  | .valid _ _ _ => true
  | _ => false

/-- The plans are ready (R118). -/
def State.plansReady (s : State) : Bool :=
  s.placed && (List.range s.ringSize).all (fun k => (s.plan k).isValid)

/-- The overhead source band of a port: its lowest-numbered ALIGNED band (R28). -/
def LinePort.sourceBand (l : LinePort) : Option Nat :=
  (List.range 4).find? (fun b => (l.bands.get b).alignment == .aligned)

end Sys2Proof.Machine
end

