-- ==== Sys2Proof/Machine/Operands.lean ====
section
/-! DEFINITION. Operands: every byte and bit format the part reads or writes (12_formats.md): slot tags, the notice field
and its check code, management frames, directives and load images. -/

namespace Sys2Proof.Machine

/-! ### Bytes -/

/-- A number as one byte. -/
def byte (n : Nat) : Byte := BitVec.ofNat 8 n

/-- A number as two bytes, most significant first (12_formats.md). -/
def bytes2 (n : Nat) : List Byte := [byte (n / 256), byte n]

/-- A number as four bytes, most significant first (12_formats.md). -/
def bytes4 (n : Nat) : List Byte := [byte (n / 16777216), byte (n / 65536), byte (n / 256), byte n]

/-- The byte at an offset, 0 past the end. -/
def byteAt (l : List Byte) (i : Nat) : Nat := (l.getD i 0).toNat

/-- The two-byte field at an offset, most significant byte first. -/
def halfAt (l : List Byte) (i : Nat) : Nat := byteAt l i * 256 + byteAt l (i + 1)

/-! ### Codes (12_formats.md, "Shared encodings") -/

/-- The code of a view. -/
def View.code : View → Nat
  | .clear => 0
  | .degraded => 1
  | .returnWait => 2
  | .failed => 3

/-- The view of a two-bit code. -/
def viewOf (n : Nat) : View :=
  match n with
  | 0 => .clear
  | 1 => .degraded
  | 2 => .returnWait
  | _ => .failed

/-- Four band views in one byte, band b in bits 2b and 2b+1. -/
def viewsCode (v : Quad View) : Nat := v.b0.code + 4 * v.b1.code + 16 * v.b2.code + 64 * v.b3.code

/-- Four band views from one byte. -/
def viewsOf (n : Nat) : Quad View :=
  { b0 := viewOf (n % 4), b1 := viewOf (n / 4 % 4), b2 := viewOf (n / 16 % 4), b3 := viewOf (n / 64 % 4) }

/-- Four band flags in one byte, band b in bit b. -/
def flagsCode (v : Quad Bool) : Nat := v.b0.toNat + 2 * v.b1.toNat + 4 * v.b2.toNat + 8 * v.b3.toNat

/-- The code of an operator request. -/
def OperatorRequest.code : OperatorRequest → Nat
  | .none => 0
  | .lockout => 1
  | .force => 2

/-- An operator request from two bits of a notice; the unused value 3 is read as NONE (R61). -/
def requestOf (n : Nat) : OperatorRequest :=
  match n with
  | 1 => .lockout
  | 2 => .force
  | _ => .none

/-- A slot tag as received: 0..1023 name a circuit, every other value is read as absent (R27). -/
def tagOf (t : Half) : Option Nat := if t.toNat < Config.circuitMax then some t.toNat else none

/-- A slot tag as sent: 65535 is absent (12_formats.md). -/
def tagField : Option Nat → Half
  | some c => BitVec.ofNat 16 c
  | none => 0xFFFF

/-- A received slot as delivered (R27). -/
def RawSlot.delivered (r : RawSlot) : Slot := { content := r.content, tag := tagOf r.tag }

/-- A slot as it is put into a frame that is sent. -/
def Slot.raw (v : Slot) : RawSlot := { content := v.content, tag := tagField v.tag }

/-! ### The check code of a notice field (R185) -/

/-- The code values v(0)..v(119): the numbers of 3..127 that are not powers of two, in order (R185). -/
def codeValues : List Nat :=
  (List.range 128).filter (fun v => decide (3 ≤ v) && !([4, 8, 16, 32, 64].contains v))

/-- The parity of the data bits whose code value has bit `j` set (R185). -/
def dataParity (f : NoticeField) (j : Nat) : Bool :=
  (codeValues.zipIdx).foldl (fun acc e => if e.1.testBit j then acc ^^ f.getLsbD e.2 else acc) false

/-- The parity of bits 0..n-1 of a field. -/
def parityBelow (f : NoticeField) (n : Nat) : Bool :=
  (List.range n).foldl (fun acc i => acc ^^ f.getLsbD i) false

/-- The 7-bit syndrome s: bit j is cj as received, exclusive-or its parity recomputed (R185). -/
def syndrome (f : NoticeField) : Nat :=
  (List.range 7).foldl (fun acc j => acc + if f.getLsbD (120 + j) ^^ dataParity f j then 2 ^ j else 0) 0

/-- A field with one bit inverted. -/
def flipBit (f : NoticeField) (i : Nat) : NoticeField := f ^^^ (1#128 <<< i)

/-- The three outcomes of the check (R29). -/
inductive CheckOutcome where
  | clean
  | corrected
  | uncorrectable
deriving DecidableEq, Repr

/-- Check a received field and correct it: the outcome and the corrected field (R185's table). -/
def checkField (f : NoticeField) : CheckOutcome × NoticeField :=
  let s := syndrome f
  if parityBelow f 128 then
    if s = 0 then (.corrected, flipBit f 127)
    else
      match (List.range 7).find? (fun j => 2 ^ j == s) with
      | some j => (.corrected, flipBit f (120 + j))
      | none =>
        match codeValues.idxOf? s with
        | some d => (.corrected, flipBit f d)
        | none => (.uncorrectable, f)
  else if s = 0 then (.clean, f)
  else (.uncorrectable, f)

/-- Set the check bits c0..c7 of a field whose byte 15 is zero (R185). -/
def withCheck (f : NoticeField) : NoticeField :=
  let g := (List.range 7).foldl (fun acc j => if dataParity f j then acc ||| (1#128 <<< (120 + j)) else acc) f
  if parityBelow g 127 then g ||| (1#128 <<< 127) else g

/-! ### The notice field -/

/-- Byte `i` of a notice field (12_formats.md, "The notice field"). -/
def fieldByte (f : NoticeField) (i : Nat) : Byte := f.extractLsb' (8 * i) 8

/-- Hops as R61 reads them: 0 as 1, a value above 31 as 31. -/
def readHops (n : Nat) : Nat := if n = 0 then 1 else if 31 < n then 31 else n

/-- The notice a field carries, read as R61 and R185 say. -/
def noticeOf (f : NoticeField) : Notice :=
  let flags := (fieldByte f 5).toNat
  { position := (fieldByte f 1).toNat
    id := fieldByte f 2
    sequence := fieldByte f 3
    hops := readHops (fieldByte f 4).toNat
    starting := flags.testBit 0
    lowRequest := requestOf (flags / 2 % 4)
    highRequest := requestOf (flags / 8 % 4)
    lowViews := viewsOf (fieldByte f 6).toNat
    highViews := viewsOf (fieldByte f 7).toNat
    digest := BitVec.ofNat 16 ((fieldByte f 8).toNat * 256 + (fieldByte f 9).toNat) }

/-- A field from its first ten bytes, byte i in bits 8i..8i+7. -/
def fieldOfBytes (l : List Nat) : NoticeField :=
  BitVec.ofNat 128 (l.foldr (fun b acc => b % 256 + 256 * acc) 0)

/-- The field a notice is sent in, reserved bits 0 and check code computed afresh (R72, R185). -/
def fieldOf (v : Notice) : NoticeField :=
  withCheck (fieldOfBytes
    [1, v.position, v.id.toNat, v.sequence.toNat, v.hops,
      v.starting.toNat + 2 * v.lowRequest.code + 8 * v.highRequest.code,
      viewsCode v.lowViews, viewsCode v.highViews, v.digest.toNat / 256, v.digest.toNat % 256])

/-- What the port latches of a field it reads, if anything (R29). -/
def readField (f : NoticeField) : Option (NoticeClass × NoticeField) :=
  let kindClass (cls : NoticeClass) (g : NoticeField) : Option (NoticeClass × NoticeField) :=
    if fieldByte g 0 = 0 then none
    else if fieldByte g 0 = 1 then some (cls, g)
    else some (.unknownKind, g)
  match checkField f with
  | (.uncorrectable, g) => some (.uncorrectable, g)
  | (.clean, g) => kindClass .clean g
  | (.corrected, g) => kindClass .corrected g

/-! ### Management frames (R153) -/

/-- The kind of a REQUEST (R153). -/
def kindRequest : Byte := 1

/-- The kind of a REPLY (R153). -/
def kindReply : Byte := 2

/-- The kind of a REPORT (R153). -/
def kindReport : Byte := 3

/-- A frame's total size in bytes: the body and 10 bytes more (R153). -/
def Frame.length (f : Frame) : Nat := f.body.length + 10

/-- The bytes of a frame before its check (12_formats.md, "Management frames"). -/
def Frame.unchecked (f : Frame) : List Byte :=
  [f.kind, f.destination, f.origin, f.hops] ++ bytes2 f.tag.toNat ++ bytes2 f.length ++ f.body

/-- The bytes of a frame as sent, with its check computed over them (R153). -/
def Frame.bytes (f : Frame) : List Byte :=
  f.unchecked ++ bytes2 (fletcher (f.unchecked.map BitVec.toNat)).toNat

/-- The good frame that a run of bytes is, if it is one: its length field is its size and lies in 12..1024, and its check
holds (R153). -/
def frameOf (l : List Byte) : Option Frame :=
  let n := l.length
  let check := (fletcher ((l.take (n - 2)).map BitVec.toNat)).toNat
  if 12 ≤ n ∧ n ≤ 1024 ∧ halfAt l 6 = n ∧ halfAt l (n - 2) = check then
    some
      { kind := l.getD 0 0, destination := l.getD 1 0, origin := l.getD 2 0, hops := l.getD 3 0
        tag := BitVec.ofNat 16 (halfAt l 4), body := (l.take (n - 2)).drop 8 }
  else none

/-! ### Directives (R160; 12_formats.md, "Directives") -/

/-- A directive with its operands as carried. -/
inductive Directive where
  | select (table : Nat) (index : Nat)
  | load (bulk : List Byte)
  | read (count : Nat)
  | service (circuit : Nat) (action : Nat)
  | operator (side : Nat) (value : Nat)
  | capture (flag : Nat)
  | restart
deriving DecidableEq, Repr

/-- A directive read from a body: its more flag, the directive, and the bytes after it. -/
structure ReadDirective where
  more : Bool
  directive : Directive
  rest : List Byte
deriving DecidableEq, Repr

/-- The first directive of a body, or the code its reading is refused with (R160's table; R186). -/
def nextDirective (body : List Byte) : Except ResultCode ReadDirective :=
  match body with
  | [] => .error .badChain
  | header :: ops =>
    let more := header.toNat / 128 == 1
    let take (size : Nat) (d : Directive) : Except ResultCode ReadDirective :=
      if ops.length < size then .error .badChain
      else .ok { more := more, directive := d, rest := ops.drop size }
    match header.toNat % 128 with
    | 1 => take 3 (.select (byteAt ops 0) (halfAt ops 1))
    | 2 => if more then .error .badChain else .ok { more := false, directive := .load ops, rest := [] }
    | 3 => if more then .error .badChain else take 1 (.read (byteAt ops 0))
    | 4 => take 3 (.service (halfAt ops 0) (byteAt ops 2))
    | 5 => take 2 (.operator (byteAt ops 0) (byteAt ops 1))
    | 6 => take 1 (.capture (byteAt ops 0))
    | 7 => take 0 .restart
    | _ => .error .unknownDirective

/-- The table of a table number (R163). -/
def tableOf (n : Nat) : Option TableId :=
  match n with
  | 0 => some .status
  | 1 => some .settings
  | 2 => some .ring
  | 3 => some .circuit
  | 4 => some .failmap
  | 5 => some .notices
  | 6 => some .plans
  | 7 => some .connect
  | 8 => some .counters
  | _ => none

/-- The record count of a table (R163). -/
def TableId.records : TableId → Nat
  | .status => 1
  | .settings => 1
  | .ring => 32
  | .circuit => 1024
  | .failmap => 32
  | .notices => 32
  | .plans => 32
  | .connect => 192
  | .counters => 37

/-- The byte of a result code (12_formats.md, "Result items and codes"). -/
def ResultCode.code : ResultCode → Nat
  | .ok => 0
  | .range => 1
  | .readOnly => 2
  | .inService => 3
  | .notInService => 4
  | .notDefined => 5
  | .invalidCircuit => 6
  | .attachment => 7
  | .conflict => 8
  | .inUse => 9
  | .notPlaced => 10
  | .engineBusy => 11
  | .badChain => 12
  | .unknownDirective => 13
  | .queueFull => 14
  | .unreachable => 15
  | .endOfTable => 16
  | .truncated => 17

/-- The four bytes of a result item (12_formats.md). -/
def Item.bytes (i : Item) : List Byte := [byte i.index, byte i.code.code] ++ bytes2 i.count

/-! ### Load images (12_formats.md, "Table images") -/

/-- The whole images of a given size in a run of bytes; fewer bytes left over are ignored (R165). -/
def images (size : Nat) : Nat → List Byte → List (List Byte)
  | 0, _ => []
  | fuel + 1, l => if size = 0 ∨ l.length < size then [] else l.take size :: images size fuel (l.drop size)

/-- All whole images of bulk data. -/
def imagesOf (size : Nat) (bulk : List Byte) : List (List Byte) := images size bulk.length bulk

/-- The class of a code (R10). -/
def classOf (n : Nat) : Option CircuitClass :=
  match n with
  | 0 => some .premium
  | 1 => some .standard
  | 2 => some .basic
  | 3 => some .extra
  | 4 => some .unguarded
  | _ => none

/-- The direction of a code (R10). -/
def directionOf (n : Nat) : Option Direction :=
  match n with
  | 0 => some .cw
  | 1 => some .ccw
  | _ => none

/-- The record that a CIRCUIT load image gives when it passes checks 2 to 4 of R12 (R12, R13); none is a refusal with RANGE. -/
def circuitImage (l : List Byte) : Option CircuitRecord :=
  match byteAt l 0 with
  | 0 => some .absent
  | 1 =>
    match classOf (byteAt l 1), directionOf (byteAt l 6) with
    | some cls, some dir =>
      if 1 ≤ byteAt l 2 ∧ byteAt l 2 ≤ 16 ∧ byteAt l 3 ≤ 63 ∧ byteAt l 4 ≤ 31 ∧ byteAt l 5 ≤ 31 then
        let fields : CircuitFields :=
          { cls := cls, width := byteAt l 2, start := byteAt l 3, endA := byteAt l 4, endB := byteAt l 5
            direction := dir }
        match byteAt l 7 with
        | 0 => some (.defined fields none)
        | 1 =>
          if byteAt l 8 ≤ 3 ∧ byteAt l 9 ≤ 15 then
            some (.defined fields (some { port := byteAt l 8, start := byteAt l 9 }))
          else none
        | _ => none
      else none
    | _, _ => none
  | _ => none

/-- A value clamped to a range. -/
def clamp (lo hi v : Nat) : Nat := max lo (min hi v)

/-- A value rounded down to a multiple of a step. -/
def roundTo (step v : Nat) : Nat := v / step * step

/-- The SETTINGS record a load image stores, every field by its own rule (R5, R6, R41, R77, R89, R147, R166). -/
def settingsImage (l : List Byte) : Settings :=
  let refresh := roundTo 10 (clamp 10 1000 (halfAt l 4))
  let staleness := roundTo 10 (clamp 20 5000 (halfAt l 6))
  let degradeSet := clamp 0 10000 (halfAt l 11)
  { holdOff := roundTo 10 (clamp 0 1000 (halfAt l 0))
    returnDelay := clamp 0 3600 (halfAt l 2)
    refresh := refresh
    staleness := max staleness (2 * refresh)
    gatherDelay := clamp 0 50 (byteAt l 8)
    listen := roundTo 100 (clamp 100 10000 (halfAt l 9))
    degradeSet := degradeSet
    degradeClear := min degradeSet (clamp 0 10000 (halfAt l 13))
    actOnDegrade := byteAt l 15 != 0
    orientation := if byteAt l 16 = 0 then .normal else .reversed
    reportDestination := byte (clamp 0 254 (byteAt l 17))
    reportNode := byteAt l 18 != 0
    reportPort := byteAt l 19 != 0
    reportSpan := byteAt l 20 != 0
    reportCircuit := byteAt l 21 != 0
    maxReply := clamp 64 1024 (halfAt l 22) }

end Sys2Proof.Machine
end

