-- ==== Sys2Proof/Machine/Switch.lean ====
section
/-! DEFINITION. Switch: the Slot Switch of 07_slot_switch_and_tributaries.md: what a source supplies (R125), target
derivation (R128 to R132), the pending target and the swing (R134, R138), the drop tag check (R136 to R139). -/

namespace Sys2Proof.Machine

/-! ### Outputs and sources -/

/-- The output number of a line-out slot (R124). -/
def lineOutput : Side → Nat → Nat
  | .east, t => t
  | .west, t => 64 + t

/-- The output number of a tributary-out slot (R124). -/
def tribOutput (t u : Nat) : Nat := Config.tributaryOutputs + 16 * t + u

/-- The content and tag a source supplies (R125). -/
def supplied (s : State) : Source → Slot
  | .fillIdle => .idle
  | .lineIn p t =>
    let band := s.band p (t / 16)
    if band.alignment = .aligned then band.slots.getD (t % 16) .idle else .idle
  | .tribIn t u tag =>
    let port := s.trib t
    if port.alignment = .aligned then { content := (port.slots.getD u .idle).content, tag := some tag } else .idle

/-! ### Deriving a target -/

/-- The transparent target (R129). -/
def transparentTarget : Table Connection := transparentMap

/-- The direction and the start of the range a circuit uses at this node, or none (R130's table). -/
def routeUsed (active : Bool) (f : CircuitFields) (r : Restoration) : Option (Direction × Nat) :=
  if active then
    match r with
    | .normal => some (f.direction, f.start)
    | .unrestored _ => some (f.direction, f.start)
    | .down => if f.cls = .unguarded then some (f.direction, f.start) else none
    | .restored g => some (f.direction.flip, g)
    | .preempted => none
  else some (f.direction, f.start)

/-- The add and the drop of an endpoint, for slots i of the range (R131). -/
def connectEnd (c : Nat) (p : Side) (r : Nat) (att : Attachment) (m : Table Connection) (i : Nat) : Table Connection :=
  put .fill
    (put .fill m (lineOutput p (r + i)) { source := .tribIn att.port (att.start + i) c, circuit := some c })
    (tribOutput att.port (att.start + i)) { source := .lineIn p (r + i), circuit := some c }

/-- The pass-through of an intermediate position, for one slot (R132). -/
def connectThrough (c : Nat) (o : Orientation) (m : Table Connection) (t : Nat) : Table Connection :=
  put .fill
    (put .fill m (lineOutput (clockwiseSide o) t) { source := .lineIn (counterSide o) t, circuit := some c })
    (lineOutput (counterSide o) t) { source := .lineIn (clockwiseSide o) t, circuit := some c }

/-- Write one circuit's connections at position `p` of `n` (R130). -/
def connectCircuit (n p : Nat) (o : Orientation) (active : Bool) (m : Table Connection)
    (e : Nat × CircuitRecord) : Table Connection :=
  match e.2 with
  | .inService f att r _ =>
    match routeUsed active f r with
    | none => m
    | some (dir, start) =>
      match relation n p f.endA f.endB dir, att with
      | .endA, some a => (List.range f.width).foldl (connectEnd e.1 (endSide o dir true) start a) m
      | .endB, some a => (List.range f.width).foldl (connectEnd e.1 (endSide o dir false) start a) m
      | .intermediate, _ => (rangeSlots start f.width).foldl (connectThrough e.1 o) m
      | _, _ => m
  | _ => m

/-- The target map derived from the state as it stands (R129, R130). -/
def targetOf (s : State) : Table Connection :=
  match s.node.state.runs, s.position with
  | true, some p =>
    s.table.circuits.foldl
      (connectCircuit s.ringSize p s.settings.orientation (s.node.state == .active)) []
  | _, _ => transparentTarget

/-- Derive a target; it becomes the pending target, replacing one that waits (R128, R134). -/
def deriveTarget (s : State) : State := { s with switch := { s.switch with target := some (targetOf s) } }

/-! ### The drop tag check -/

/-- Apply a function to the tag check of every attached in-service circuit. -/
def mapChecks (g : Nat → Attachment → TagCheck → TagCheck) (t : Table CircuitRecord) : Table CircuitRecord :=
  t.map (fun e => match e.2 with
    | .inService f (some a) r (some k) => (e.1, .inService f (some a) r (some (g e.1 a k)))
    | _ => e)

/-- One frame of a tag check that matches or mismatches (R136's table). -/
def TagCheck.frame (k : TagCheck) (isMatch : Bool) : TagCheck :=
  match k.state, isMatch with
  | .match_, true => { k with run := 0 }
  | .match_, false =>
    if Config.tagRun ≤ k.run + 1 then { k with state := .mismatch, run := 0 } else { k with run := k.run + 1 }
  | .mismatch, false => { k with run := 0 }
  | .mismatch, true =>
    if Config.tagRun ≤ k.run + 1 then { k with state := .match_, run := 0 } else { k with run := k.run + 1 }

/-- The tag that the source of a circuit's drop slot supplies in this frame period (R136). -/
def dropTag (s : State) (a : Attachment) : Option Nat :=
  (supplied s (s.connection (tribOutput a.port a.start)).source).tag

/-- Count this frame period's frame of circuit `c`'s check, once, when the check has begun (R136, R139). -/
def countFrame (s : State) (c : Nat) (a : Attachment) (k : TagCheck) : TagCheck :=
  if k.begun && !k.counted then { k.frame (dropTag s a == some c) with counted := true } else k

/-- The circuits whose tag-check state differs between two circuit tables. -/
def changedChecks (before after : Table CircuitRecord) : List Nat :=
  let state (t : Table CircuitRecord) (c : Nat) : Option MatchState :=
    match look .absent t c with
    | .inService _ _ _ (some k) => some k.state
    | _ => none
  (after.map Prod.fst).filter (fun c => state before c != state after c)

/-- Count the frame of every check for the frame period that ends, with a CIRCUIT report for each change of state (R136). -/
def countFrames (s : State) : State :=
  let after := mapChecks (countFrame s) s.table.circuits
  raiseAll ((changedChecks s.table.circuits after).map .circuit) { s with table := { s.table with circuits := after } }

/-- Two sources are the same: the same kind, port and slot (R138). -/
def sameSource : Source → Source → Bool
  | .fillIdle, .fillIdle => true
  | .lineIn p t, .lineIn q u => p == q && t == u
  | .tribIn t u _, .tribIn v w _ => t == v && u == w
  | _, _ => false

/-- What a swing from one map to another does to a check: it has begun, and its run count returns to 0 when the source
of the drop slot differs (R138, R139). -/
def swingCheck (old new : Table Connection) (_c : Nat) (a : Attachment) (k : TagCheck) : TagCheck :=
  let o := tribOutput a.port a.start
  { k with
    begun := true
    run := if sameSource (look .fill old o).source (look .fill new o).source then k.run else 0 }

/-- The swing: a pending target becomes the Connection Map, whole (R134, R138). -/
def swing (s : State) : State :=
  match s.switch.target with
  | none => s
  | some m =>
    bump ctrSwings
      { s with
        switch := { connections := m, target := none }
        table := { s.table with circuits := mapChecks (swingCheck s.switch.connections m) s.table.circuits } }

/-- A check at the start of a frame period: nothing counted yet, and squelched exactly when its state is MISMATCH (R137). -/
def openFrame (_c : Nat) (_a : Attachment) (k : TagCheck) : TagCheck :=
  { k with counted := false, squelched := k.state == .mismatch }

/-- SWITCH_FRAME_BOUNDARY: the frame period that ends is counted by the tag checks, a pending target swings, and the
next frame period begins (R134 to R138; log 2, log 7). -/
def frameBoundary (s : State) : State :=
  let t := swing (countFrames s)
  { t with now := t.now + 1, table := { t.table with circuits := mapChecks openFrame t.table.circuits } }

/-- The meaning of SWITCH_FRAME_BOUNDARY. -/
def execSwitchFrameBoundary (s : State) : Host.Outcome State Fault Refusal := .next (frameBoundary s)

/-- TAG_CHECK_STATE_CHANGE: the third consecutive frame of circuit `c`'s check, taken by itself. It comes about when this
frame period's frame changes the state (R136; log 7). -/
def tagStateChange (c : Nat) (s : State) : State :=
  match s.circuit c with
  | .inService f (some a) r (some k) =>
    let k' := countFrame s c a k
    if k'.state = k.state then s
    else raise (.circuit c) (s.setCircuit c (.inService f (some a) r (some k')))
  | _ => s

/-- The meaning of TAG_CHECK_STATE_CHANGE. -/
def execTagCheckStateChange (c : Fin 1024) (s : State) : Host.Outcome State Fault Refusal := .next (tagStateChange c s)

/-! ### What the outputs carry -/

/-- A tributary-out slot is squelched in this frame period (R137). -/
def squelchedAt (s : State) (t u : Nat) : Bool :=
  s.table.circuits.any (fun e => match e.2 with
    | .inService f (some a) _ (some k) =>
      k.squelched && a.port == t && decide (a.start ≤ u) && decide (u < a.start + f.width)
    | _ => false)

/-- The slot an output carries, before squelch (R125). -/
def outputSlot (s : State) (o : Nat) : Slot := supplied s (s.connection o).source

/-- The slot a tributary-out output carries, subject to squelch (R127, R137). -/
def tribOutputSlot (s : State) (t u : Nat) : Slot :=
  if squelchedAt s t u then { content := .fillSquelch, tag := none } else outputSlot s (tribOutput t u)

end Sys2Proof.Machine
end

