-- ==== Sys2Proof/Machine/Engine.lean ====
section
/-! DEFINITION. Engine: the Restoration Engine and the Plan Store (05_the_restoration_pass.md, 06_span_plans.md): taking a
snapshot, installing a result, map changes, generation changes, passes and builds. -/

namespace Sys2Proof.Machine

/-! ### Plans -/

/-- A VALID plan becomes STALE; any other stays (R113, R122). -/
def Plan.staled : Plan → Plan
  | .valid _ _ _ => .stale
  | p => p

/-- Every VALID plan below N becomes STALE (R113, R122). -/
def stalePlans (s : State) : State :=
  { s with plans := s.plans.map (fun e => if e.1 < s.ringSize then (e.1, e.2.staled) else e) }

/-- The plans after a ring map change: below N STALE and the rest ABSENT when the node is placed, else all ABSENT (R112). -/
def plansOfRing (s : State) : State :=
  { s with plans := (List.range (spansOfRing s.table.ring s.node.strap)).map (fun k => (k, Plan.stale)) }

/-! ### Snapshots and installs -/

/-- The static fields of every in-service record, apart from the attachment (R90). -/
def inServiceFields (t : Table CircuitRecord) : List (Nat × CircuitFields) :=
  (inServiceOf t).map (fun e => (e.1, e.2.1))

/-- The inputs of a pass that starts now (R90). -/
def takeSnapshot (s : State) : PassInputs :=
  { w := s.map.spans.map (fun e => (e.1, e.2.bandsInW))
    x := s.map.spans.map (fun e => (e.1, e.2.bandsInX))
    n := s.ringSize
    circuits := inServiceFields s.table.circuits
    occupancy := s.table.occupancy
    oldGrants := s.engine.grants }

/-- The hypothetical inputs of a build of plan `k` (R115). -/
def buildInputs (k : Nat) (s : State) : PassInputs :=
  { w := [(k, allBands)]
    x := [(k, allBands)]
    n := s.ringSize
    circuits := inServiceFields s.table.circuits
    occupancy := s.table.occupancy
    oldGrants := [] }

/-- The restoration state a state list gives a circuit, or what it holds when the list has no entry for it (R11, R106). -/
def restorationIn (outcomes : List Outcome) (c : Nat) (held : Restoration) : Restoration :=
  match outcomes.find? (fun o => o.circuit == c) with
  | some o => o.restoration
  | none => held

/-- The circuit records with their restoration states replaced from a state list; tag checks are not touched (R106). -/
def installRecords (outcomes : List Outcome) (t : Table CircuitRecord) : Table CircuitRecord :=
  t.map (fun e => match e.2 with
    | .inService f a r k => (e.1, .inService f a (restorationIn outcomes e.1 r) k)
    | _ => e)

/-- The in-service circuits whose restoration state, grant start or reason a state list changes (R106). -/
def changedByInstall (outcomes : List Outcome) (t : Table CircuitRecord) : List Nat :=
  t.filterMap (fun e => match e.2 with
    | .inService _ _ r _ => if restorationIn outcomes e.1 r = r then none else some e.1
    | _ => none)

/-- Install a result: grants and states as one change, a target derived, the reports raised, the install counted in the
result number (R106, R180). The two callers count the event itself. -/
def install (r : PassResult) (s : State) : State :=
  let changed := changedByInstall r.outcomes s.table.circuits
  raise .node (raiseAll (changed.map .circuit) (deriveTarget
    { s with
      engine := { s.engine with grants := r.grants, resultNumber := s.engine.resultNumber + 1 }
      table := { s.table with circuits := installRecords r.outcomes s.table.circuits } }))

/-! ### Engine events -/

/-- Set the engine state. -/
def setEngine (e : EngineState) (s : State) : State := { s with engine := { s.engine with state := e } }

/-- Abandon a build in progress: its plan becomes STALE and the engine IDLE (R117). -/
def abandonBuild (s : State) : State :=
  match s.engine.state with
  | .build k _ => setEngine .idle (s.setPlan k .stale)
  | _ => s

/-- Start the gather timer and enter GATHER (R85, R87). -/
def startGather (s : State) : State := setEngine (.gather (s.now + ms s.settings.gatherDelay)) s

/-- Abandon the pass and start a new one at once on a fresh snapshot (R92). -/
def restartPass (s : State) : State :=
  setEngine (.pass (takeSnapshot s)) (bump ctrPassesAbandoned s)

/-- The result that the fast-path test finds to apply, when every condition of R119 holds in an ACTIVE node. -/
def fastPathResult (s : State) : Option PassResult :=
  if s.engine.grants = [] ∧ s.notices.convergence = .converged then
    match s.map.cutSpan with
    | none => none
    | some k =>
      match s.plan k with
      | .valid _ grants outcomes => some { grants := grants, outcomes := outcomes }
      | _ => none
  else none

/-- Apply a plan's result (R120). -/
def applyPlan (r : PassResult) (s : State) : State := bump ctrFastPath (install r s)

/-- An ACTIVE engine in IDLE answers a map change: the fast path, or a gather (R85, steps 2 to 4). -/
def answerMapChange (s : State) : State :=
  match fastPathResult s with
  | some r => applyPlan r s
  | none => startGather s

/-- The engine takes a map change (R85, R86, R88, R92). -/
def mapChange (s : State) : State :=
  match s.node.state with
  | .active =>
    match s.engine.state with
    | .idle => answerMapChange s
    | .build _ _ => answerMapChange (abandonBuild s)
    | .gather _ => s
    | .pass _ => restartPass s
  | .starting _ => abandonBuild s
  | _ => s

/-- The engine takes a generation change (R87, R92). -/
def generationChange (s : State) : State :=
  match s.node.state with
  | .active =>
    match s.engine.state with
    | .idle => if s.map.setsEmpty then s else startGather s
    | .build _ _ => if s.map.setsEmpty then s else startGather (abandonBuild s)
    | .gather _ => s
    | .pass _ => restartPass s
  | _ => s

/-- RESTART, or the node leaving ACTIVE, ends any work in hand (R94). -/
def endWork (s : State) : State :=
  match s.engine.state with
  | .idle => s
  | .gather _ => setEngine .idle s
  | .pass _ => setEngine .idle (bump ctrPassesAbandoned s)
  | .build _ _ => abandonBuild s

/-! ### Commands -/

/-- GATHER_EXPIRY: take the snapshot and enter PASS, with the lock HELD (R88, R90, R91). -/
def gatherExpiry (s : State) : State :=
  match s.engine.state with
  | .gather expiry => setEngine (.pass (takeSnapshot s)) (s.reach expiry)
  | _ => s

/-- The meaning of GATHER_EXPIRY. -/
def execGatherExpiry (s : State) : Host.Outcome State Fault Refusal := .next (gatherExpiry s)

/-- PASS_COMPLETION: the result of the snapshot is installed and counted, and the engine enters IDLE with the lock FREE
(R93, R106). -/
def passCompletion (s : State) : State :=
  match s.engine.state with
  | .pass snapshot => setEngine .idle (bump ctrPassesCompleted (install (computePass snapshot) s))
  | _ => s

/-- The meaning of PASS_COMPLETION. -/
def execPassCompletion (s : State) : Host.Outcome State Fault Refusal := .next (passCompletion s)

/-- The lowest-numbered STALE plan below N (R114). -/
def lowestStale (s : State) : Option Nat := (List.range s.ringSize).find? (fun k => s.plan k == .stale)

/-- BUILD_START: in an IDLE engine of a STARTING or ACTIVE node, the lowest STALE plan becomes BUILDING and the engine
enters BUILD (R114, R115). -/
def buildStart (s : State) : State :=
  match s.engine.state, s.node.state.runs, lowestStale s with
  | .idle, true, some k => setEngine (.build k (buildInputs k s)) (s.setPlan k (.building s.table.generation))
  | _, _, _ => s

/-- The meaning of BUILD_START. -/
def execBuildStart (s : State) : Host.Outcome State Fault Refusal := .next (buildStart s)

/-- What a plan becomes at its build's end: VALID with the result when its build generation is current, else STALE (R116). -/
def builtPlan (generation : Word) (r : PassResult) : Plan → Plan
  | .building g => if g = generation then .valid g r.grants r.outcomes else .stale
  | _ => .stale

/-- BUILD_END: the plan becomes VALID or STALE, the engine IDLE, and a NODE report follows when the plans are now ready
(R116, R118). -/
def buildEnd (s : State) : State :=
  match s.engine.state with
  | .build k inputs =>
    let t := setEngine .idle (s.setPlan k (builtPlan s.table.generation (computePass inputs) (s.plan k)))
    if t.plansReady && !s.plansReady then raise .node t else t
  | _ => s

/-- The meaning of BUILD_END. -/
def execBuildEnd (s : State) : Host.Outcome State Fault Refusal := .next (buildEnd s)

end Sys2Proof.Machine
end

