-- ==== Sys2Proof/Machine/Images.lean ====
section
/-! DEFINITION. Images: the records a READ returns and the items of a REPORT, byte by byte (12_formats.md, "Table images" and
"Report items"; R187). -/

namespace Sys2Proof.Machine

/-! ### Codes -/

/-- The code of a condition. -/
def Condition.code : Condition → Nat
  | .clear => 0
  | .degraded => 1
  | .returnWait => 2
  | .failed => 3
  | .unknown => 4

/-- The code of a restoration state. -/
def Restoration.code : Restoration → Nat
  | .normal => 0
  | .restored _ => 1
  | .unrestored _ => 2
  | .preempted => 3
  | .down => 4

/-- The grant start, or 255 when it is not held. -/
def Restoration.startCode : Restoration → Nat
  | .restored g => g
  | _ => 255

/-- The unrestored reason, or 0 for none. -/
def Restoration.reasonCode : Restoration → Nat
  | .unrestored .isolated => 1
  | .unrestored .routeBarred => 2
  | .unrestored .noCapacity => 3
  | _ => 0

/-- The tag-check state, or 255 when it is not held. -/
def tagCode : Option TagCheck → Nat
  | none => 255
  | some k => match k.state with
    | .match_ => 0
    | .mismatch => 1

/-- The code of a node state. -/
def NodeState.code : NodeState → Nat
  | .unaddressed => 0
  | .unplaced => 1
  | .starting _ => 2
  | .active => 3

/-- The code of an engine state. -/
def EngineState.code : EngineState → Nat
  | .idle => 0
  | .gather _ => 1
  | .pass _ => 2
  | .build _ _ => 3

/-- The code of a convergence status. -/
def Convergence.code : Convergence → Nat
  | .divergent => 0
  | .converged => 1

/-- The code of a line port. -/
def sideCode : Side → Nat
  | .east => 0
  | .west => 1

/-- The ALIGNED flag of an alignment. -/
def Alignment.flag : Alignment → Bool
  | .lost => false
  | .aligned => true

/-- Static fields and attachment in the order of the CIRCUIT images (12_formats.md). -/
def fieldsImage (f : CircuitFields) (a : Option Attachment) : List Nat :=
  [f.cls.code, f.width, f.start, f.endA, f.endB, f.direction.code] ++
    match a with
    | none => [0, 0, 0]
    | some x => [1, x.port, x.start]

/-! ### Table records -/

/-- The milliseconds left to the listen expiry, 0 outside STARTING (R151). -/
def listenLeft (s : State) : Nat :=
  match s.node.state with
  | .starting expiry => s.msLeft expiry
  | _ => 0

/-- The STATUS record. -/
def statusImage (s : State) : List Byte :=
  [s.node.strap, byte s.node.state.code, byte (s.position.getD 255), byte s.ringSize] ++ bytes2 (listenLeft s) ++
    [byte s.notices.convergence.code, byte s.engine.state.code, byte s.plansReady.toNat,
      byte (flagsCode (s.tribs.map (fun t => t.alignment.flag))), s.notices.sequence, 0] ++
    bytes4 s.table.generation.toNat ++ bytes2 s.table.digest.toNat ++ bytes2 s.engine.resultNumber.toNat

/-- The SETTINGS record. -/
def settingsRecord (g : Settings) : List Byte :=
  bytes2 g.holdOff ++ bytes2 g.returnDelay ++ bytes2 g.refresh ++ bytes2 g.staleness ++ [byte g.gatherDelay] ++
    bytes2 g.listen ++ bytes2 g.degradeSet ++ bytes2 g.degradeClear ++
    [byte g.actOnDegrade.toNat, byte (if g.orientation = .normal then 0 else 1), g.reportDestination,
      byte g.reportNode.toNat, byte g.reportPort.toNat, byte g.reportSpan.toNat, byte g.reportCircuit.toNat] ++
    bytes2 g.maxReply

/-- The CIRCUIT record of circuit `c` as read. -/
def circuitRecordImage (c : Nat) (r : CircuitRecord) : List Byte :=
  bytes2 c ++
    (match r with
      | .absent => [0, 0, 0, 0, 0, 0, 0, 0, 0, 0, 255, 255, 0, 255]
      | .defined f a => [1] ++ fieldsImage f a ++ [255, 255, 0, 255]
      | .inService f a x k => [2] ++ fieldsImage f a ++ [x.code, x.startCode, x.reasonCode, tagCode k]).map byte

/-- The presence flag and the views of an end record (FAILMAP bytes 2 to 5). -/
def endImage : Option (Quad View) → List Nat
  | none => [0, 0]
  | some v => [1, viewsCode v]

/-- Conditions, operator state, W flags and X flags of a span, zeros for an outside span (R187). -/
def derivedImage : Option Derived → List Nat
  | none => [0, 0, 0, 0, 0, 0, 0]
  | some d => d.conditions.toList.map Condition.code ++ [d.operator.code, flagsCode d.inW, flagsCode d.inX]

/-- The FAILMAP record of span `k`. -/
def failmapImage (k : Nat) (e : SpanEntry) : List Byte :=
  ([k, e.derived.isSome.toNat] ++ endImage e.lowViews ++ endImage e.highViews ++
    [e.lowRequest.code, e.highRequest.code] ++ derivedImage e.derived ++ [0]).map byte

/-- The contents of a FRESH or STALE record with the staleness time left (NOTICES bytes 2 to 14). -/
def contentsImage (c : NoticeContents) (left : Nat) : List Byte :=
  [c.id, c.sequence, byte c.hops, byte (sideCode c.port), byte c.starting.toNat, byte (viewsCode c.lowViews),
    byte (viewsCode c.highViews), byte c.lowRequest.code, byte c.highRequest.code] ++
    bytes2 c.digest.toNat ++ bytes2 left

/-- The NOTICES record of origin position `q`; the time left is rounded down (log 13). -/
def noticeImage (s : State) (q : Nat) : List Byte :=
  [byte q] ++
    (match s.record q with
      | .never => List.replicate 14 0
      | .fresh c expiry => [1] ++ contentsImage c (s.msLeft expiry)
      | .stale c => [2] ++ contentsImage c 0) ++ [0]

/-- How many entries of a state list have a restoration state of a code. -/
def countOutcomes (l : List Outcome) (code : Nat) : Nat := (l.filter (fun o => o.restoration.code == code)).length

/-- The PLANS record of plan `k`. -/
def planImage (k : Nat) (p : Plan) : List Byte :=
  [byte k] ++
    match p with
    | .absent => List.replicate 19 0
    | .stale => [1] ++ List.replicate 18 0
    | .building g => [2] ++ bytes4 g.toNat ++ List.replicate 14 0
    | .valid g grants outcomes =>
      [3] ++ bytes4 g.toNat ++ bytes2 grants.length ++
        (List.range 5).flatMap (fun code => bytes2 (countOutcomes outcomes code)) ++ [0, 0]

/-- Output `o` is a tributary-out output that is squelched now (R140). -/
def outputSquelched (s : State) (o : Nat) : Bool :=
  decide (Config.tributaryOutputs ≤ o) &&
    squelchedAt s ((o - Config.tributaryOutputs) / 16) ((o - Config.tributaryOutputs) % 16)

/-- Source kind, port, slot and inserted tag of a source (CONNECT bytes 1 to 5). -/
def sourceImage : Source → List Byte
  | .fillIdle => [0, 0, 0, 0, 0]
  | .lineIn p t => [1, byte (sideCode p), byte t, 0, 0]
  | .tribIn t u c => [2, byte t, byte u] ++ bytes2 c

/-- The CONNECT record of output `o`. -/
def connectImage (s : State) (o : Nat) : List Byte :=
  [byte o] ++ sourceImage (s.connection o).source ++ bytes2 ((s.connection o).circuit.getD 65535) ++
    [byte (outputSquelched s o).toNat, 0]

/-- The record of a table at an index, as it stands now (R163, R167). -/
def recordImage (s : State) (t : TableId) (i : Nat) : List Byte :=
  match t with
  | .status => statusImage s
  | .settings => settingsRecord s.settings
  | .ring => [look 0 s.table.ring i]
  | .circuit => circuitRecordImage i (s.circuit i)
  | .failmap => failmapImage i (s.span i)
  | .notices => noticeImage s i
  | .plans => planImage i (s.plan i)
  | .connect => connectImage s i
  | .counters => bytes4 (look 0 s.reports.snapshot i).toNat

/-! ### Report items -/

/-- The NODE item (R180). -/
def nodeItem (s : State) : List Byte :=
  [0, 0, 0, byte s.node.state.code, byte s.notices.convergence.code, byte s.engine.state.code,
    byte s.plansReady.toNat] ++ bytes4 s.table.generation.toNat ++ bytes2 s.table.digest.toNat ++
    bytes2 s.engine.resultNumber.toNat ++ [0]

/-- The PORT item of a line port (R180). -/
def portItem (s : State) (p : Side) : List Byte :=
  [1, 0, byte (sideCode p), byte (flagsCode ((s.port p).bands.map (fun b => b.alignment.flag))),
    byte (viewsCode ((s.port p).bands.map (fun b => b.supervisor.view)))] ++
    bytes4 (s.counter (ctrForeign p)).toNat ++ List.replicate 7 0

/-- The SPAN item of a span (R180). -/
def spanItem (k : Nat) (e : SpanEntry) : List Byte :=
  [2] ++ bytes2 k ++ [byte e.derived.isSome.toNat] ++ (derivedImage e.derived).map byte ++ List.replicate 5 0

/-- The CIRCUIT item of a circuit (R180). -/
def circuitItem (c : Nat) (r : CircuitRecord) : List Byte :=
  [3] ++ bytes2 c ++
    (match r with
      | .absent => [0, 0, 255, 255, 0, 255]
      | .defined f _ => [1, f.cls.code, 255, 255, 0, 255]
      | .inService f _ x k => [2, f.cls.code, x.code, x.startCode, x.reasonCode, tagCode k]).map byte ++
    List.replicate 7 0

/-- The item of a subject as it stands now (R180). -/
def itemOf (s : State) : Subject → List Byte
  | .node => nodeItem s
  | .port p => portItem s p
  | .span k => spanItem k (s.span k)
  | .circuit c => circuitItem c (s.circuit c)

end Sys2Proof.Machine
end

