-- ==== Sys2Proof/Machine/Notices.lean ====
section
/-! DEFINITION. Notices: the outgoing notice queues (R71, R72), origination (R74 to R76), the convergence status (R79) and
what follows a change of the table digest (R23). -/

namespace Sys2Proof.Machine

/-- Replace the entry of a notice's origin position by it, in place (R71). -/
def replaceNotice (v : QueuedNotice) (q : List QueuedNotice) : List QueuedNotice :=
  q.map (fun e => if e.notice.position = v.notice.position then v else e)

/-- A difference of sequences that lies in 1..127 (R67, R71). -/
def ahead (newer older : Byte) : Bool := decide (1 ≤ (newer - older).toNat) && decide ((newer - older).toNat ≤ 127)

/-- Place an offered notice in an outgoing notice queue, by R71's table. -/
def offerNotice (v : QueuedNotice) (q : List QueuedNotice) : List QueuedNotice :=
  match q.find? (fun e => e.notice.position == v.notice.position) with
  | none => q ++ [v]
  | some e =>
    if v.own then replaceNotice v q
    else if e.own then q
    else if v.notice.id = e.notice.id then
      if ahead v.notice.sequence e.notice.sequence then replaceNotice v q else q
    else replaceNotice v q

/-- Offer a notice to the outgoing queue of a line port. -/
def queueNotice (p : Side) (v : QueuedNotice) (s : State) : State :=
  { s with notices := { s.notices with queues := s.notices.queues.set p (offerNotice v (s.notices.queues.get p)) } }

/-- The notice a node at position `p` originates now (R46, R74). -/
def ownNotice (p : Nat) (s : State) : Notice :=
  let o := s.settings.orientation
  let low := s.map.copies.get (counterSide o)
  let high := s.map.copies.get (clockwiseSide o)
  { position := p
    id := s.node.strap
    sequence := s.notices.sequence
    hops := s.ringSize - 1
    starting := s.node.state != .active
    lowViews := low.views
    highViews := high.views
    lowRequest := low.request
    highRequest := high.request
    digest := s.table.digest }

/-- Originate a notice in a STARTING or ACTIVE node: a copy to each line port's queue, the sequence counter moved on, the
refresh timer restarted (R74, R76). In any other node state nothing is originated (R73). -/
def originate (s : State) : State :=
  match s.node.state.runs, s.position with
  | true, some p =>
    let v : QueuedNotice := { notice := ownNotice p s, own := true }
    let t := queueNotice .west v (queueNotice .east v s)
    { t with notices :=
      { t.notices with sequence := t.notices.sequence + 1, refresh := some (t.now + ms t.settings.refresh) } }
  | _, _ => s

/-- Evaluate the convergence status afresh; a change of it raises a NODE report (R79). -/
def evaluateConvergence (s : State) : State :=
  let c := convergenceOf s
  if c = s.notices.convergence then s
  else raise .node { s with notices := { s.notices with convergence := c } }

/-- Recompute the table digest; a change of its value originates a notice and evaluates convergence (R23, R75, R79). -/
def refreshDigest (s : State) : State :=
  let d := digestOf s.table
  if d = s.table.digest then s
  else evaluateConvergence (originate { s with table := { s.table with digest := d } })

/-- REFRESH_TIMER_EXPIRY: the Notice Unit originates a notice, which restarts the timer (R76). -/
def refreshExpiry (s : State) : State :=
  match s.notices.refresh with
  | some expiry =>
    originate { s.reach expiry with notices := { s.notices with refresh := none } }
  | none => s

/-- The meaning of REFRESH_TIMER_EXPIRY. -/
def execRefreshTimerExpiry (s : State) : Host.Outcome State Fault Refusal := .next (refreshExpiry s)

end Sys2Proof.Machine
end

