-- ==== Sys2Proof/Machine/FailureMap.lean ====
section
/-! DEFINITION. FailureMap: the writes of the Failure Map and what each delivers (03_the_failure_map.md): the node's own ends
(R45, R46), other ends (R47, R48), operator requests (R49), rebuilds (R50, R51), derivation (R56). -/

namespace Sys2Proof.Machine

/-- Write the low end of span `k` (R43). -/
def setLowEnd (k : Nat) (views : Option (Quad View)) (r : OperatorRequest) (t : Table SpanEntry) : Table SpanEntry :=
  put .outside t k { look .outside t k with lowViews := views, lowRequest := r }

/-- Write the high end of span `k` (R43). -/
def setHighEnd (k : Nat) (views : Option (Quad View)) (r : OperatorRequest) (t : Table SpanEntry) : Table SpanEntry :=
  put .outside t k { look .outside t k with highViews := views, highRequest := r }

/-- Store a port copy in its own end, for a node at position `p` of `n` (R45). -/
def storeCopy (n p : Nat) (o : Orientation) (m : FailureMap) (side : Side) : FailureMap :=
  let c := m.copies.get side
  if side = clockwiseSide o then { m with spans := setLowEnd p (some c.views) c.request m.spans }
  else { m with spans := setHighEnd (ringSub n p 1) (some c.views) c.request m.spans }

/-- Store both port copies in their own ends while the node is placed (R45). -/
def storeOwnEnds (s : State) (m : FailureMap) : FailureMap :=
  match s.position with
  | none => m
  | some p =>
    let o := s.settings.orientation
    storeCopy s.ringSize p o (storeCopy s.ringSize p o m (clockwiseSide o)) (counterSide o)

/-- Write the two ends that belong to position `q` of `n` (R47, R48). -/
def setEndsOf (n q : Nat) (low high : Option (Quad View)) (lowRequest highRequest : OperatorRequest)
    (m : FailureMap) : FailureMap :=
  { m with spans := setLowEnd q high highRequest (setHighEnd (ringSub n q 1) low lowRequest m.spans) }

/-- Put a map whose ends have been written in place: everything is derived afresh, and each span whose conditions or
operator state changed raises a SPAN report (R56, R58). -/
def writeMap (m : FailureMap) (s : State) : State :=
  let spans := deriveSpans (spansOfRing s.table.ring s.node.strap) s.settings.actOnDegrade m.spans
  raiseAll ((changedSpans s.map.spans spans).map .span) { s with map := { m with spans := spans } }

/-- Deliver one map change to the engine when W or X differs from what it was before the write (R56). -/
def deliverMapChange (before : FailureMap) (s : State) : State :=
  if before.sets = s.map.sets then s else mapChange s

/-- A Band Supervisor delivers a port's four views (R44, R46). -/
def viewsDelivered (side : Side) (views : Quad View) (s : State) : State :=
  let m := { s.map with copies := s.map.copies.set side { s.map.copies.get side with views := views } }
  match s.position with
  | none => { s with map := m }
  | some p =>
    deliverMapChange s.map (originate (writeMap (storeCopy s.ringSize p s.settings.orientation m side) s))

/-- The requests of both port copies become NONE (R50, R51, R60). -/
def clearRequests (m : FailureMap) : FailureMap :=
  { m with copies :=
    { east := { m.copies.east with request := .none }, west := { m.copies.west with request := .none } } }

/-- Set the operator request of the span a line port faces, in a placed node (R49). -/
def setRequest (p : Nat) (side : Side) (r : OperatorRequest) (s : State) : State :=
  let m := { s.map with copies := s.map.copies.set side { s.map.copies.get side with request := r } }
  let t := writeMap (storeCopy s.ringSize p s.settings.orientation m side) s
  deliverMapChange s.map (if (s.map.copies.get side).request = r then t else originate t)

/-- Rebuild the map after a ring map change (R50). -/
def rebuildMap (s : State) : State :=
  writeMap (storeOwnEnds s { clearRequests s.map with spans := [] }) s

/-- The two own ends of a node at position `p` of `n`, the low one of span p and the high one of the span before it (R45):
the views and the request that stand in each. -/
def FailureMap.ownEnds (n p : Nat) (m : FailureMap) :
    (Option (Quad View) × OperatorRequest) × (Option (Quad View) × OperatorRequest) :=
  let ahead := look .outside m.spans p
  let behind := look .outside m.spans (ringSub n p 1)
  ((ahead.lowViews, ahead.lowRequest), (behind.highViews, behind.highRequest))

/-- The map takes a change of orientation (R51); a placed node originates a notice when the change leaves its own ends other
than they were (R75). -/
def orientationChanged (s : State) : State :=
  let t := writeMap (storeOwnEnds s (clearRequests s.map)) s
  match s.position with
  | none => deliverMapChange s.map t
  | some p =>
    deliverMapChange s.map
      (if s.map.ownEnds s.ringSize p = t.map.ownEnds s.ringSize p then t else originate t)

/-- The map takes a change of act on degrade (R57). -/
def actOnDegradeChanged (s : State) : State := deliverMapChange s.map (writeMap s.map s)

/-- The map takes RESTART: own requests NONE, other ends ABSENT, derived afresh (R60). The map change is delivered by the caller. -/
def restartMap (s : State) : State :=
  writeMap (storeOwnEnds s { clearRequests s.map with spans := [] }) s

end Sys2Proof.Machine
end

