-- ==== Sys2Proof/Machine/NoticeReceipt.lean ====
section
/-! DEFINITION. NoticeReceipt: taking notices from the latches (R62), sorting, applying and forwarding them (R63 to R73),
and staleness (R69). -/

namespace Sys2Proof.Machine

/-! ### Taking from the latches -/

/-- The port the unit takes from when a latch holds a notice, and whether the choice between two held latches has been
made (R62). -/
def chooseLatch (s : State) : Option (Side × Bool) :=
  match s.ports.east.latch, s.ports.west.latch with
  | .empty, .empty => none
  | .held _ _, .empty => some (.east, false)
  | .empty, .held _ _ => some (.west, false)
  | .held _ _, .held _ _ =>
    if s.notices.firstChoice then some (.east, true) else some (s.notices.lastTaken.other, true)

/-- Empty a latch and note the taking (R30, R62). -/
def takeLatch (p : Side) (chosen : Bool) (s : State) : State :=
  let t := s.setPort p { s.port p with latch := .empty }
  { t with notices := { t.notices with lastTaken := p, firstChoice := t.notices.firstChoice && !chosen } }

/-! ### Sorting -/

/-- The notice is of own origin (R64). -/
def ownOrigin (s : State) (v : Notice) : Bool := s.ownId == some v.id

/-- The notice is foreign, in a STARTING or ACTIVE node (R65). -/
def foreign (s : State) (v : Notice) : Bool :=
  decide (s.ringSize ≤ v.position) || look 0 s.table.ring v.position != v.id

/-- Forward a notice out of the other port when its hops exceed 1 (R70). -/
def forward (p : Side) (v : Notice) (s : State) : State :=
  if 1 < v.hops then queueNotice p.other { notice := { v with hops := v.hops - 1 }, own := false } s else s

/-- A record applies a notice: it is NEVER or STALE, or the sequence lies 1..127 ahead (R67). -/
def NoticeRecord.accepts (sequence : Byte) : NoticeRecord → Bool
  | .fresh c _ => ahead sequence c.sequence
  | _ => true

/-- What a record stores of a notice that arrived at a port (R68). -/
def Notice.contents (v : Notice) (p : Side) : NoticeContents :=
  { id := v.id, sequence := v.sequence, hops := v.hops, port := p, starting := v.starting
    lowViews := v.lowViews, highViews := v.highViews, lowRequest := v.lowRequest
    highRequest := v.highRequest, digest := v.digest }

/-- A record applies a notice: it is stored, FRESH with its timer restarted, its ends are written, convergence is evaluated
(R68, R47). The map change of the write is delivered by the caller (log 8). -/
def applyNotice (p : Side) (v : Notice) (s : State) : State :=
  let t := s.setRecord v.position (.fresh (v.contents p) (s.now + ms s.settings.staleness))
  evaluateConvergence (writeMap
    (setEndsOf t.ringSize v.position (some v.lowViews) (some v.highViews) v.lowRequest v.highRequest t.map) t)

/-- A foreign notice is counted and raises a PORT report (R65). -/
def countForeign (p : Side) (s : State) : State := raise (.port p) (bump (ctrForeign p) s)

/-- Handle a notice of kind STATUS and class CLEAN or CORRECTED taken from port `p` (R63, rows 3 to 6). -/
def handleNotice (p : Side) (v : Notice) (s : State) : State :=
  if ownOrigin s v then s
  else if !s.node.state.runs then forward p v s
  else if foreign s v then forward p v (countForeign p s)
  else if (s.record v.position).accepts v.sequence then
    deliverMapChange s.map (forward p v (applyNotice p v s))
  else forward p v s

/-- Handle what a latch held (R63). -/
def handleField (p : Side) (cls : NoticeClass) (f : NoticeField) (s : State) : State :=
  match cls with
  | .uncorrectable => s
  | .unknownKind => s
  | .clean => handleNotice p (noticeOf f) s
  | .corrected => handleNotice p (noticeOf f) s

/-- NOTICE_TAKEN: the free Notice Unit takes a notice from a latch that holds one, and handles it whole (R62, R63). -/
def takeNotice (s : State) : State :=
  match chooseLatch s with
  | none => s
  | some (p, chosen) =>
    match (s.port p).latch with
    | .empty => s
    | .held cls f => handleField p cls f (takeLatch p chosen s)

/-- The meaning of NOTICE_TAKEN. -/
def execNoticeTaken (s : State) : Host.Outcome State Fault Refusal := .next (takeNotice s)

/-! ### Staleness -/

/-- STALENESS_EXPIRY: a FRESH record becomes STALE, the ends of its position are withdrawn, convergence is evaluated
(R69, R48), and the map change reaches the engine (log 8). -/
def stalenessExpiry (q : Nat) (s : State) : State :=
  match s.record q with
  | .fresh c expiry =>
    let t := (s.reach expiry).setRecord q (.stale c)
    deliverMapChange s.map
      (evaluateConvergence (writeMap (setEndsOf t.ringSize q none none .none .none t.map) t))
  | _ => s

/-- The meaning of STALENESS_EXPIRY. -/
def execStalenessExpiry (q : Fin 32) (s : State) : Host.Outcome State Fault Refusal := .next (stalenessExpiry q s)

end Sys2Proof.Machine
end

