-- ==== Sys2Proof/Machine/NodeStates.lean ====
section
/-! DEFINITION. NodeStates: the node state of 08_node_states.md (R145 to R150), the evaluation of a ring map (R3) with what
it delivers, and the delivery of RESTART to every block (R172). -/

namespace Sys2Proof.Machine

/-! ### Entries -/

/-- Set the node state. -/
def setNodeState (n : NodeState) (s : State) : State := { s with node := { s.node with state := n } }

/-- Entry into STARTING: the listen timer starts afresh, and the entry is delivered (R146). Work in hand has been ended by
the caller (R94, R112). -/
def enterStarting (s : State) : State :=
  raise .node (deriveTarget (evaluateConvergence (originate
    (setNodeState (.starting (s.now + ms s.settings.listen)) s))))

/-- Entry into UNPLACED from STARTING or ACTIVE (R150). Work in hand has been ended by the caller (R94, R112). -/
def enterUnplaced (s : State) : State :=
  let t := setNodeState .unplaced s
  raise .node (deriveTarget (evaluateConvergence { t with notices := { t.notices with refresh := none } }))

/-- The engine's part of the entry into ACTIVE: a map change when W or X is non-empty (R95). -/
def engineEntersActive (s : State) : State := if s.map.setsEmpty then s else mapChange s

/-- LISTEN_EXPIRY: a STARTING node enters ACTIVE (R148). -/
def listenExpiry (s : State) : State :=
  match s.node.state with
  | .starting expiry =>
    raise .node (deriveTarget (engineEntersActive (evaluateConvergence (originate
      (setNodeState .active (s.reach expiry))))))
  | _ => s

/-- The meaning of LISTEN_EXPIRY. -/
def execListenExpiry (s : State) : Host.Outcome State Fault Refusal := .next (listenExpiry s)

/-! ### Ring map evaluation -/

/-- Two ring maps hold the same 32 entries (R3). -/
def sameRing (r t : Table Byte) : Bool := (List.range Config.ringMax).all (fun k => look 0 r k == look 0 t k)

/-- The Notice Unit starts afresh: every record NEVER, both outgoing queues empty (R80, R82). -/
def clearNotices (s : State) : State :=
  { s with notices := { s.notices with records := [], queues := { east := [], west := [] } } }

/-- The Circuit Table's part of a changed ring map: the generation moves on and the digest is recomputed (R3). -/
def countRingChange (s : State) : State :=
  { s with table := { s.table with generation := s.table.generation + 1, digest := digestOf s.table } }

/-- The node state after a changed ring map (R145's table). -/
def nodeAfterRing (s : State) : State :=
  if s.placed then enterStarting s
  else if s.node.state.runs then enterUnplaced s
  else s

/-- The ring map is evaluated at the end of a RING load, and found changed or not against the entries before it (R3). A
changed map is delivered to the engine (R94), the Plan Store (R112), the Notice Unit (R80), the Failure Map (R50) and the
node state (R145). The engine is then IDLE out of ACTIVE, where the map change and the generation change of the same
evaluation leave it (R86, R87, R94). A changed digest originates a notice of its own in a STARTING or ACTIVE node (log 12). -/
def evaluateRing (before : Table Byte) (s : State) : State :=
  if sameRing before s.table.ring then s
  else
    let t := rebuildMap (clearNotices (plansOfRing (countRingChange (endWork s))))
    nodeAfterRing (if t.table.digest = s.table.digest then t else originate t)

/-! ### RESTART -/

/-- A tag check that RESTART sets to MATCH with run count 0; any squelch ends at once (R139). -/
def TagCheck.restarted (k : TagCheck) : TagCheck := { k with state := .match_, run := 0, squelched := false }

/-- An in-service record after RESTART (R24). -/
def CircuitRecord.restarted : CircuitRecord → CircuitRecord
  | .inService f a _ k => .inService f a .normal (k.map TagCheck.restarted)
  | r => r

/-- RESTART changes the restoration state, grant start, reason or tag-check state of a record (R24). -/
def CircuitRecord.changedByRestart : CircuitRecord → Bool
  | .inService _ _ r k => r != .normal || k.any (fun x => x.state != .match_)
  | _ => false

/-- The Circuit Table and the tag checks take RESTART, with the CIRCUIT reports of the records it changes (R24, R142). -/
def restartCircuits (s : State) : State :=
  let changed := (s.table.circuits.filter (fun e => e.2.changedByRestart)).map Prod.fst
  raiseAll (changed.map .circuit)
    { s with table := { s.table with circuits := s.table.circuits.map (fun e => (e.1, e.2.restarted)) } }

/-- The engine takes RESTART: work in hand ends and the Grant Table is emptied (R94, R110). -/
def restartEngine (s : State) : State :=
  let t := endWork s
  { t with engine := { t.engine with grants := [] } }

/-- Both notice receive latches are emptied (R30). -/
def clearLatches (s : State) : State :=
  (s.setPort .east { s.port .east with latch := .empty }).setPort .west { s.port .west with latch := .empty }

/-- The Notice Unit takes RESTART: records NEVER, queues and latches empty, the next first choice East (R62, R82). -/
def restartNotices (s : State) : State :=
  let t := clearLatches (clearNotices s)
  { t with notices := { t.notices with firstChoice := true } }

/-- The node state takes RESTART: a placed node enters STARTING afresh, any other stays with a target newly derived
(R142, R149). -/
def restartNode (s : State) : State :=
  if s.node.state.runs then enterStarting s else deriveTarget (evaluateConvergence s)

/-- An own operator request is set. -/
def FailureMap.hasRequest (m : FailureMap) : Bool := m.copies.east.request != .none || m.copies.west.request != .none

/-- A RESTART that is due is delivered to every block, as one change (R172; log 20). The map change it may cause finds the
engine IDLE out of ACTIVE and is taken without effect (R86, R110). A RESTART that clears a request originates a notice of
its own beside the entry's (R75). -/
def restart (s : State) : State :=
  let t := restartNode (restartMap (restartNotices (stalePlans (restartCircuits (restartEngine s)))))
  raise .node (if s.map.hasRequest then originate t else t)

end Sys2Proof.Machine
end

