-- ==== Sys2Proof/Machine/Circuits.lean ====
section
/-! DEFINITION. Circuits: SERVICE IN with its checks (R15 to R18) and SERVICE OUT (R19). -/

namespace Sys2Proof.Machine

/-! ### Checks of SERVICE IN -/

/-- Check 3 of R15. -/
def fieldsValid (n : Nat) (f : CircuitFields) : Bool :=
  decide (f.endA < n) && decide (f.endB < n) && f.endA != f.endB && decide (f.start + f.width ≤ Config.spanSlots)

/-- Check 4 of R15, for a node at position `p` (R16). -/
def attachmentValid (p : Nat) (f : CircuitFields) (a : Option Attachment) : Bool :=
  match a with
  | some x => (f.endA == p || f.endB == p) && decide (x.start + f.width ≤ Config.bandSlots)
  | none => f.endA != p && f.endB != p

/-- Two ranges share a slot. -/
def rangesMeet (a wa b wb : Nat) : Bool := decide (a < b + wb) && decide (b < a + wa)

/-- The tributary range of an attachment overlaps that of an in-service circuit's attachment (R16, check 5). -/
def attachmentTaken (t : Table CircuitRecord) (width : Nat) (a : Option Attachment) : Bool :=
  match a with
  | none => false
  | some x =>
    (inServiceOf t).any (fun e => match e.2.2 with
      | some y => x.port == y.port && rangesMeet x.start width y.start e.2.1.width
      | none => false)

/-- The slot `t` of span `k` lies in a grant range (R17). -/
def slotGranted (s : State) (k t : Nat) : Bool :=
  s.engine.grants.any (fun g => match s.circuit g.circuit with
    | .inService f _ _ _ =>
      (f.restorationRoute s.ringSize).contains k && decide (g.start ≤ t) && decide (t < g.start + f.width)
    | _ => false)

/-- Check 6 of R15 fails: a slot of the working range is occupied or granted on a span of the working route (R17). -/
def workingConflict (s : State) (f : CircuitFields) : Bool :=
  (f.workingRoute s.ringSize).any (fun k =>
    (rangeSlots f.start f.width).any (fun t =>
      look .none s.table.occupancy (slotKey k t) != .none || slotGranted s k t))

/-- The code that the checks of R15 give, in their order. -/
def serviceInCode (s : State) (c : Nat) : ResultCode :=
  match s.position, s.circuit c with
  | none, _ => .notPlaced
  | some p, .defined f a =>
    if !fieldsValid s.ringSize f then .invalidCircuit
    else if !attachmentValid p f a then .attachment
    else if attachmentTaken s.table.circuits f.width a then .attachment
    else if workingConflict s f then .conflict
    else .ok
  | some _, _ => .notDefined

/-! ### Effects -/

/-- The occupancy entries of a circuit: every slot of the working range on every span of the working route (R18, R20). -/
def occupancyKeys (n : Nat) (f : CircuitFields) : List Nat :=
  (f.workingRoute n).flatMap (fun k => (rangeSlots f.start f.width).map (slotKey k))

/-- The occupancy entry of a circuit with its role (R20). -/
def occupantOf (c : Nat) (f : CircuitFields) : Occupant := if f.cls = .extra then .extra c else .working c

/-- Write one value to several occupancy entries. -/
def fillOccupancy (v : Occupant) (keys : List Nat) (o : Table Occupant) : Table Occupant :=
  keys.foldl (fun t k => put .none t k v) o

/-- What a change of the in-service set delivers: the plans, the target, the engine, the CIRCUIT report and the digest
(R18, R19; log 20). -/
def deliverService (c : Nat) (s : State) : State :=
  refreshDigest (raise (.circuit c) (generationChange (deriveTarget (stalePlans s))))

/-- SERVICE IN taken: the record, the occupancy and the generation change as one (R18). -/
def bringIn (c : Nat) (f : CircuitFields) (a : Option Attachment) (s : State) : State :=
  deliverService c
    { s with table := { s.table with
        circuits := put .absent s.table.circuits c (.inService f a .normal (a.map (fun _ => TagCheck.initial)))
        occupancy := fillOccupancy (occupantOf c f) (occupancyKeys s.ringSize f) s.table.occupancy
        generation := s.table.generation + 1 } }

/-- SERVICE OUT taken: the grant, the record, the occupancy and the generation change as one (R19). -/
def takeOut (c : Nat) (f : CircuitFields) (a : Option Attachment) (s : State) : State :=
  deliverService c
    { s with
      engine := { s.engine with grants := s.engine.grants.filter (fun g => g.circuit != c) }
      table := { s.table with
        circuits := put .absent s.table.circuits c (.defined f a)
        occupancy := fillOccupancy .none (occupancyKeys s.ringSize f) s.table.occupancy
        generation := s.table.generation + 1 } }

/-- SERVICE IN of circuit `c` with the lock FREE (R15 to R18). -/
def serviceIn (c : Nat) (s : State) : State × ResultCode :=
  match serviceInCode s c, s.circuit c with
  | .ok, .defined f a => (bringIn c f a s, .ok)
  | code, _ => (s, code)

/-- SERVICE OUT of circuit `c` with the lock FREE (R19). -/
def serviceOut (c : Nat) (s : State) : State × ResultCode :=
  match s.circuit c with
  | .inService f a _ _ => (takeOut c f a s, .ok)
  | _ => (s, .notInService)

/-- A SERVICE directive taken with the lock FREE (R14, R168). -/
def service (action : ServiceAction) (c : Nat) (s : State) : State × ResultCode :=
  match action with
  | .in_ => serviceIn c s
  | .out => serviceOut c s

end Sys2Proof.Machine
end

