-- ==== Sys2Proof/Machine/Frames.lean ====
section
/-! DEFINITION. Frames: the management frames of 09_management_channel.md: outgoing queues (R158), path selection (R157),
replies, the request queue (R159), receipt (R155, R156), the assemblers (R154) and the outgoing streams. -/

namespace Sys2Proof.Machine

/-! ### Outgoing frame queues (R158) -/

/-- Replace an outgoing frame queue. -/
def setQueue (q : MgmtPort) (v : FrameQueue) (s : State) : State :=
  { s with mgmt := { s.mgmt with queues := s.mgmt.queues.set q v } }

/-- An outgoing frame queue has a free place (R158). -/
def FrameQueue.free (v : FrameQueue) : Bool := decide (v.frames.length < Config.frameQueueMax)

/-- Offer a frame to an outgoing queue: appended, or discarded and counted when 8 frames are held (R158). -/
def offerFrame (q : MgmtPort) (f : Frame) (s : State) : State :=
  let v := s.mgmt.queues.get q
  if v.free then setQueue q { v with frames := v.frames ++ [f] } s
  else bump (ctrDiscarded q) s

/-- The queue left when `n` bytes of the frames from its head on have been sent (R158). -/
def dropSent : List Frame → Nat → FrameQueue
  | [], _ => .empty
  | f :: rest, n => if f.length ≤ n then dropSent rest (n - f.length) else { frames := f :: rest, sent := n }

/-- The next 32 bytes of an outgoing stream: frames back to back, then zero bytes (R154, R158). -/
def streamField (v : FrameQueue) : List Byte :=
  let l := ((v.frames.flatMap Frame.bytes).drop v.sent).take 32
  l ++ List.replicate (32 - l.length) 0

/-- The outgoing stream moves on by one field; a frame leaves with its last byte (R158). -/
def advanceStream (q : MgmtPort) (s : State) : State :=
  let v := s.mgmt.queues.get q
  setQueue q (dropSent v.frames (v.sent + 32)) s

/-! ### Path selection (R157) -/

/-- A path is usable unless one of its spans has all four bands in W (R157). -/
def pathUsable (s : State) (spans : List Nat) : Bool := spans.all (fun k => s.map.bandsInW k != allBands)

/-- The line port a frame to `dest` leaves by, or none when neither path is usable (R157). -/
def pathTo (s : State) (dest : Byte) : Option Side :=
  let o := s.settings.orientation
  match s.position, positionOf s.table.ring dest with
  | some p, some d =>
    let cw := route s.ringSize p d .cw
    let ccw := route s.ringSize p d .ccw
    if pathUsable s cw && (!pathUsable s ccw || decide (cw.length ≤ ccw.length)) then some (clockwiseSide o)
    else if pathUsable s ccw then some (counterSide o)
    else none
  | _, _ => some (clockwiseSide o)

/-- The queue named for a REPLY or REPORT to `dest`, if one is (R157). -/
def namedQueue (s : State) (dest : Byte) : Option MgmtPort :=
  if s.ownId = some dest then some .tributary else (pathTo s dest).map .line

/-- Send a REPLY or REPORT: with no usable path it is discarded (R157). -/
def sendFrame (f : Frame) (s : State) : State :=
  match namedQueue s f.destination with
  | some q => offerFrame q f s
  | none => s

/-! ### Replies and requests -/

/-- A REPLY the node builds (R153, R162). -/
def replyFrame (s : State) (dest : Byte) (tag : Half) (body : List Byte) : Frame :=
  { kind := kindReply, destination := dest, origin := s.node.strap, hops := Config.frameHops, tag := tag, body := body }

/-- Build and send a REPLY of one item of index 0 and count 0 (R157, R159). -/
def sendCode (dest : Byte) (tag : Half) (code : ResultCode) (s : State) : State :=
  sendFrame (replyFrame s dest tag ({ index := 0, code := code, count := 0 } : Item).bytes) s

/-- Offer a request to the request queue: appended, or answered with QUEUE_FULL when 4 are held (R159). -/
def offerRequest (f : Frame) (s : State) : State :=
  if s.mgmt.requests.length < Config.requestQueueMax then
    { s with mgmt := { s.mgmt with
        requests := s.mgmt.requests ++ [{ origin := f.origin, tag := f.tag, body := f.body }] } }
  else bump ctrQueueFull (sendCode f.origin f.tag .queueFull s)

/-! ### Receipt (R155, R156) -/

/-- Forward a frame that arrived at line port `p` out of the other one, with one hop less (R155). -/
def forwardFrame (p : Side) (f : Frame) (s : State) : State :=
  if 2 ≤ f.hops.toNat then offerFrame (.line p.other) { f with hops := f.hops - 1 } s
  else bump (ctrDiscarded (.line p.other)) s

/-- A good frame assembled from line port `p` (R155). -/
def receiveFromLine (p : Side) (f : Frame) (s : State) : State :=
  if s.node.state = .unaddressed ∨ s.ownId ≠ some f.destination then forwardFrame p f s
  else if f.kind = kindRequest then offerRequest f s
  else if f.kind = kindReply ∨ f.kind = kindReport then offerFrame .tributary f s
  else bump (ctrBad (.line p)) s

/-- A request of tributary port 0 for another node: sent by path selection, or answered with UNREACHABLE (R156, R157). -/
def injectRequest (f : Frame) (s : State) : State :=
  match pathTo s f.destination with
  | some p => offerFrame (.line p) f s
  | none => sendCode f.origin f.tag .unreachable s

/-- A good frame assembled from tributary port 0 (R156). -/
def receiveFromTributary (f : Frame) (s : State) : State :=
  if s.node.state = .unaddressed ∨ f.kind ≠ kindRequest then s
  else if f.destination = 0 ∨ s.ownId = some f.destination then offerRequest { f with origin := s.node.strap } s
  else injectRequest { f with origin := s.node.strap, hops := Config.frameHops } s

/-- A good frame assembled at a port. -/
def receiveFrame (q : MgmtPort) (f : Frame) (s : State) : State :=
  match q with
  | .line p => receiveFromLine p f s
  | .tributary => receiveFromTributary f s

/-- The last byte of a frame has been taken: its check decides between receipt and a bad frame (R154). -/
def frameTaken (q : MgmtPort) (bytes : List Byte) (s : State) : State :=
  match frameOf bytes with
  | some f => receiveFrame q f s
  | none => bump (ctrBad q) s

/-! ### Assemblers (R154) -/

/-- Replace a frame assembler. -/
def setAssembler (q : MgmtPort) (v : Assembler) (s : State) : State :=
  { s with mgmt := { s.mgmt with assemblers := s.mgmt.assemblers.set q v } }

/-- A frame assembler takes one byte (R154's table). -/
def assembleByte (q : MgmtPort) (s : State) (b : Byte) : State :=
  match s.mgmt.assemblers.get q with
  | .hunt => if b = 0 then s else setAssembler q (.header [b]) s
  | .header bytes =>
    let taken := bytes ++ [b]
    if taken.length < 8 then setAssembler q (.header taken) s
    else if 12 ≤ halfAt taken 6 ∧ halfAt taken 6 ≤ 1024 then setAssembler q (.body taken (halfAt taken 6)) s
    else bump (ctrBad q) (setAssembler q .hunt s)
  | .body bytes length =>
    let taken := bytes ++ [b]
    if taken.length < length then setAssembler q (.body taken length) s
    else frameTaken q taken (setAssembler q .hunt s)

/-- A frame assembler takes the bytes of a management field, in order. -/
def assembleField (q : MgmtPort) (bytes : List Byte) (s : State) : State := bytes.foldl (assembleByte q) s

/-- A break mark: a frame in progress is discarded as bad (R154). -/
def breakStream (q : MgmtPort) (s : State) : State :=
  match s.mgmt.assemblers.get q with
  | .hunt => s
  | _ => bump (ctrBad q) (setAssembler q .hunt s)

/-! ### Commands -/

/-- The meaning of MANAGEMENT_FRAME_FROM_LINE: the whole bytes of a frame assembled from line port `p` (R155; log 23). -/
def execManagementFrameFromLine (p : Side) (bytes : List Byte) (s : State) : Host.Outcome State Fault Refusal :=
  .next (frameTaken (.line p) bytes s)

/-- The meaning of MANAGEMENT_FRAME_FROM_TRIBUTARY (R156; log 23). -/
def execManagementFrameFromTributary (bytes : List Byte) (s : State) : Host.Outcome State Fault Refusal :=
  .next (frameTaken .tributary bytes s)

end Sys2Proof.Machine
end

