-- ==== Sys2Proof/Machine/LinePort.lean ====
section
/-! DEFINITION. LinePort: the band receivers, the overhead, the Band Supervisors and the band transmitters of
02_line_ports_and_band_supervision.md. -/

namespace Sys2Proof.Machine

/-! ### Alignment (R25) -/

/-- Alignment state and run count of a receiver after a frame with or without a good alignment word (R25's table). -/
def nextAlignment (good : Bool) (a : Alignment) (run : Nat) : Alignment × Nat :=
  match a, good with
  | .lost, true => if Config.goodRun ≤ run + 1 then (.aligned, 0) else (.lost, run + 1)
  | .lost, false => (.lost, 0)
  | .aligned, true => (.aligned, 0)
  | .aligned, false => if Config.missingRun ≤ run + 1 then (.lost, 0) else (.aligned, run + 1)

/-- The slots a receiver delivers of a frame (R27, R126). -/
def deliveredSlots (a : Alignment) (slots : List RawSlot) : List Slot :=
  match a with
  | .aligned => slots.map RawSlot.delivered
  | .lost => []

/-! ### Band Supervisors -/

/-- The return delay in frame periods (R39). -/
def State.returnPeriods (s : State) : Nat := s.settings.returnDelay * Config.periodsPerSecond

/-- Give a band's supervisor new state. A change of view raises a PORT report and is delivered to the Failure Map with the
port's other three views (R40). -/
def setSupervisor (p : Side) (b : Nat) (v : Supervisor) (s : State) : State :=
  let t := s.setBand p b { s.band p b with supervisor := v }
  if v.view = (s.band p b).supervisor.view then t
  else viewsDelivered p ((t.port p).bands.map (fun x => x.supervisor.view)) (raise (.port p) t)

/-- A band's supervisor takes new state with the view derived afresh from it (R38, R39). -/
def deriveBand (p : Side) (b : Nat) (v : Supervisor) (s : State) : State :=
  setSupervisor p b (deriveView ((s.band p b).alignment == .lost) s.now s.returnPeriods v) s

/-- The supervisor's part of a band's entry into LOST (R34). -/
def enterLost (p : Side) (b : Nat) (s : State) : State :=
  let v := (s.band p b).supervisor
  if s.settings.holdOff = 0 then deriveBand p b { v with holdOffExpired := true } s
  else setSupervisor p b { v with holdOff := some (s.now + ms s.settings.holdOff) } s

/-- The supervisor's part of a band's entry into ALIGNED: hold-off is cancelled, the view derived, and the
first-alignment flag cleared once R39 has used it (R34). -/
def enterAligned (p : Side) (b : Nat) (s : State) : State :=
  let v := (s.band p b).supervisor
  let w := deriveView false s.now s.returnPeriods { v with holdOff := none, holdOffExpired := false }
  setSupervisor p b { w with firstAlignment := false } s

/-- A band's degrade interval takes one frame (R36); at its last position raw degrade is updated, a new interval starts,
and a changed raw degrade derives the view afresh (R37). -/
def intervalFrame (p : Side) (b : Nat) (errored : Bool) (s : State) : State :=
  let band := s.band p b
  let v := { band.supervisor with
    errored := band.supervisor.errored + errored.toNat
    touched := band.supervisor.touched || band.alignment == .lost }
  if v.position < Config.lastPosition then setSupervisor p b { v with position := v.position + 1 } s
  else
    let raw := rawDegradeAfter s.settings.degradeSet s.settings.degradeClear v
    let w := { v with position := 0, errored := 0, touched := false, rawDegrade := raw }
    if raw = v.rawDegrade then setSupervisor p b w s else deriveBand p b w s

/-- The raw degrade of a band is cleared and its view derived afresh, when a set threshold of 0 is stored (R37). -/
def clearDegrade (s : State) (e : Side × Nat) : State :=
  let v := (s.band e.1 e.2).supervisor
  if v.rawDegrade then deriveBand e.1 e.2 { v with rawDegrade := false } s else s

/-- The eight bands, East before West. -/
def allBandsOfPorts : List (Side × Nat) :=
  (List.range 4).map (fun b => (Side.east, b)) ++ (List.range 4).map (fun b => (Side.west, b))

/-- The raw degrade of every band is cleared (R37). -/
def clearAllDegrade (s : State) : State := allBandsOfPorts.foldl clearDegrade s

/-! ### Overhead -/

/-- A port's notice field is read; a notice, or an uncorrectable or unknown field, goes into the latch and is counted
(R29, R30). -/
def readNotice (p : Side) (f : NoticeField) (s : State) : State :=
  match readField f with
  | none => s
  | some (cls, g) => bump (ctrNotice p cls) (s.setPort p { s.port p with latch := .held cls g })

/-- Note whether a port has an overhead source band; a change is a break in the management stream (R31; log 6). -/
def setStreaming (p : Side) (on : Bool) (s : State) : State :=
  if (s.port p).streaming = on then s
  else breakStream (.line p) (s.setPort p { s.port p with streaming := on })

/-- The overhead of a frame of the source band: the notice field is read and the management bytes delivered (R28 to R31). -/
def takeOverhead (p : Side) (f : BandFrame) (s : State) : State :=
  assembleField (.line p) f.management (setStreaming p true (readNotice p f.notice s))

/-- The overhead part of a frame on band `b`: taken when the band is the port's source band. The port has none when the
frame of band 3, the last of the frame period, leaves no band ALIGNED (R28, R31; log 6). -/
def portOverhead (p : Side) (b : Nat) (f : BandFrame) (s : State) : State :=
  match (s.port p).sourceBand with
  | some c => if c = b then takeOverhead p f s else s
  | none => if b = 3 then setStreaming p false s else s

/-! ### Receiving a frame -/

/-- A frame is errored: it is taken while ALIGNED, and its payload check fails or its alignment word is not good (R26). -/
def erroredFrame (a : Alignment) (f : BandFrame) : Bool :=
  a == .aligned && (!f.payloadGood || !f.alignmentWord)

/-- The receiver's part of a frame: alignment, counters and slot delivery (R25 to R27). -/
def receiveBand (p : Side) (b : Nat) (f : BandFrame) (s : State) : State :=
  let band := s.band p b
  let (a, run) := nextAlignment f.alignmentWord band.alignment band.run
  let t := s.setBand p b { band with alignment := a, run := run, slots := deliveredSlots a f.slots }
  let u := if band.alignment = .aligned ∧ a = .lost then bump (ctrLosses p b) t else t
  if erroredFrame a f then bump (ctrErrored p b) u else u

/-- The supervisor's answer to a change of alignment state (R25, R34). -/
def alignmentChanged (p : Side) (b : Nat) (before : Alignment) (s : State) : State :=
  match before, (s.band p b).alignment with
  | .aligned, .lost => enterLost p b s
  | .lost, .aligned => enterAligned p b s
  | _, _ => s

/-- BAND_FRAME: one frame period of a band receiver, with everything that comes about in it (R25 to R31, R34, R36,
R37; log 5). The alignment's view change comes before the frame's overhead, and the interval's end after it (DESIGN CHOICE,
log 30). -/
def bandFrame (p : Side) (b : Nat) (f : BandFrame) (s : State) : State :=
  let before := (s.band p b).alignment
  let t := portOverhead p b f (alignmentChanged p b before (receiveBand p b f s))
  intervalFrame p b (erroredFrame (t.band p b).alignment f) t

/-- The meaning of BAND_FRAME. -/
def execBandFrame (p : Side) (b : Fin 4) (f : BandFrame) (s : State) : Host.Outcome State Fault Refusal :=
  .next (bandFrame p b f s)

/-- A frame period in which no signal arrives (R25). -/
def noSignal : BandFrame :=
  { alignmentWord := false, payloadGood := false, slots := [], notice := 0, management := [] }

/-- BAND_ENTRY_INTO_LOST: the frame period of the third consecutive missing alignment word of an ALIGNED band (R25, R34;
log 5). -/
def bandEntryIntoLost (p : Side) (b : Nat) (s : State) : State :=
  if (s.band p b).alignment = .aligned ∧ (s.band p b).run + 1 = Config.missingRun then bandFrame p b noSignal s else s

/-- The meaning of BAND_ENTRY_INTO_LOST. -/
def execBandEntryIntoLost (p : Side) (b : Fin 4) (s : State) : Host.Outcome State Fault Refusal :=
  .next (bandEntryIntoLost p b s)

/-- BAND_ENTRY_INTO_ALIGNED: the frame with the second consecutive good alignment word of a LOST band (R25, R34; log 5). -/
def bandEntryIntoAligned (p : Side) (b : Nat) (f : BandFrame) (s : State) : State :=
  if (s.band p b).alignment = .lost ∧ (s.band p b).run + 1 = Config.goodRun ∧ f.alignmentWord then bandFrame p b f s else s

/-- The meaning of BAND_ENTRY_INTO_ALIGNED. -/
def execBandEntryIntoAligned (p : Side) (b : Fin 4) (f : BandFrame) (s : State) : Host.Outcome State Fault Refusal :=
  .next (bandEntryIntoAligned p b f s)

/-- DEGRADE_INTERVAL_END: the frame at the last position of a band's degrade interval (R36, R37; log 5). -/
def degradeIntervalEnd (p : Side) (b : Nat) (f : BandFrame) (s : State) : State :=
  if (s.band p b).supervisor.position = Config.lastPosition then bandFrame p b f s else s

/-- The meaning of DEGRADE_INTERVAL_END. -/
def execDegradeIntervalEnd (p : Side) (b : Fin 4) (f : BandFrame) (s : State) : Host.Outcome State Fault Refusal :=
  .next (degradeIntervalEnd p b f s)

/-! ### Timers -/

/-- HOLD_OFF_EXPIRY: the flag is set, the timer idle, the view derived afresh (R35). -/
def holdOffExpiry (p : Side) (b : Nat) (s : State) : State :=
  let v := (s.band p b).supervisor
  match v.holdOff with
  | none => s
  | some expiry => deriveBand p b { v with holdOff := none, holdOffExpired := true } (s.reach expiry)

/-- The meaning of HOLD_OFF_EXPIRY. -/
def execHoldOffExpiry (p : Side) (b : Fin 4) (s : State) : Host.Outcome State Fault Refusal := .next (holdOffExpiry p b s)

/-- RETURN_TIMER_EXPIRY: the timer becomes idle and the view is derived afresh (R39). -/
def returnTimerExpiry (p : Side) (b : Nat) (s : State) : State :=
  let v := (s.band p b).supervisor
  match v.returnTimer with
  | none => s
  | some expiry => deriveBand p b { v with returnTimer := none } (s.reach expiry)

/-- The meaning of RETURN_TIMER_EXPIRY. -/
def execReturnTimerExpiry (p : Side) (b : Fin 4) (s : State) : Host.Outcome State Fault Refusal :=
  .next (returnTimerExpiry p b s)

/-! ### Transmitters (R32) -/

/-- The notice field of the frames sent now: the head of the port's outgoing notice queue, or an empty field (R32, R72). -/
def noticeFieldSent (s : State) (p : Side) : NoticeField :=
  match s.notices.queues.get p with
  | [] => 0
  | v :: _ => fieldOf v.notice

/-- The frame the transmitter of band `b` of port `p` sends now (R32). -/
def bandFrameSent (s : State) (p : Side) (b : Nat) : BandFrame :=
  { alignmentWord := true
    payloadGood := true
    slots := (List.range 16).map (fun i => (outputSlot s (lineOutput p (16 * b + i))).raw)
    notice := noticeFieldSent s p
    management := streamField (s.mgmt.queues.get (.line p)) }

/-- BAND_FRAME_TRANSMIT: the four transmitters of a port send; the head notice leaves its queue and the management stream
moves on (R32, R72, R158; log 24). -/
def bandFrameTransmit (p : Side) (s : State) : State :=
  let frames : Quad BandFrame :=
    { b0 := bandFrameSent s p 0, b1 := bandFrameSent s p 1, b2 := bandFrameSent s p 2, b3 := bandFrameSent s p 3 }
  let t := advanceStream (.line p) (s.setPort p { s.port p with sent := some frames })
  { t with notices := { t.notices with queues := t.notices.queues.set p (t.notices.queues.get p).tail } }

/-- The meaning of BAND_FRAME_TRANSMIT. -/
def execBandFrameTransmit (p : Side) (s : State) : Host.Outcome State Fault Refusal := .next (bandFrameTransmit p s)

end Sys2Proof.Machine
end

