-- ==== Sys2Proof/Machine/SettingsStore.lean ====
section
/-! DEFINITION. SettingsStore: storing a SETTINGS image and what each changed setting delivers (R5, R6, R37, R166). -/

namespace Sys2Proof.Machine

/-- The image would change the orientation while a circuit is in service (R5). -/
def orientationInUse (g : Settings) (s : State) : Bool :=
  g.orientation != s.settings.orientation && s.anyInService

/-- The delivery of a changed orientation to the Failure Map and the Slot Switch (R5, R51). -/
def deliverOrientation (before : Settings) (s : State) : State :=
  if s.settings.orientation = before.orientation then s else deriveTarget (orientationChanged s)

/-- The delivery of a changed act on degrade: the digest and the Failure Map (R6, R57). The rules give no order between the
two; the digest comes first, with its notice and its evaluation of convergence, so a fast-path test that the map change leads
to reads the status of the new digest (DESIGN CHOICE, log 27). -/
def deliverActOnDegrade (before : Settings) (s : State) : State :=
  if s.settings.actOnDegrade = before.actOnDegrade then s else actOnDegradeChanged (refreshDigest s)

/-- The delivery of a set threshold of 0: raw degrade is cleared at once (R37, R41). -/
def deliverThreshold (s : State) : State := if s.settings.degradeSet = 0 then clearAllDegrade s else s

/-- Store a SETTINGS record, and deliver each change to the blocks its rule names (R166; log 19). -/
def storeSettings (g : Settings) (s : State) : State :=
  deliverThreshold (deliverActOnDegrade s.settings (deliverOrientation s.settings
    { s with table := { s.table with settings := g } }))

end Sys2Proof.Machine
end

