-- ==== Sys2Proof/Machine/Directives.lean ====
section
/-! DEFINITION. Directives: what each directive does at the block that owns its state, with the result code and the count it
gives: SELECT (R164), LOAD (R165, R166), OPERATOR (R49, R170), CAPTURE (R171, R182). -/

namespace Sys2Proof.Machine

/-- What a directive gives: the state after it, its result code and its count (R161). -/
structure Result where
  state : State
  code : ResultCode
  count : Nat
deriving DecidableEq, Repr

/-- Set the cursor (R163). -/
def setCursor (t : TableId) (i : Nat) (s : State) : State :=
  { s with mgmt := { s.mgmt with cursor := { table := t, index := i } } }

/-- The cursor moves on by one record (R163). -/
def advanceCursor (s : State) : State := setCursor s.mgmt.cursor.table (s.mgmt.cursor.index + 1) s

/-- SELECT (R164). -/
def doSelect (table index : Nat) (s : State) : Result :=
  match tableOf table with
  | none => { state := s, code := .range, count := 0 }
  | some t =>
    if index < t.records then { state := setCursor t index s, code := .ok, count := 0 }
    else { state := s, code := .range, count := 0 }

/-! ### LOAD -/

/-- An image offered to the CIRCUIT record at the cursor: its refusal code, or the state with it written (R12, R13). -/
def writeCircuit (image : List Byte) (s : State) : Except ResultCode State :=
  let c := s.mgmt.cursor.index
  match s.circuit c with
  | .inService _ _ _ _ => .error .inService
  | _ =>
    match circuitImage image with
    | none => .error .range
    | some r => .ok (s.setCircuit c r)

/-- An image offered to the RING entry at the cursor (R2). -/
def writeRing (image : List Byte) (s : State) : Except ResultCode State :=
  let v := image.getD 0 0
  if v = 255 then .error .range
  else .ok { s with table := { s.table with ring := put 0 s.table.ring s.mgmt.cursor.index v } }

/-- The images of a load in turn: each is refused, or written with the cursor moved on; a load that meets the table's end
gives END_OF_TABLE (R165, steps 3 and 4). `n` counts the images written. -/
def loadImages (write : List Byte → State → Except ResultCode State) (records : Nat) :
    List (List Byte) → Nat → State → Result
  | [], n, s => { state := s, code := .ok, count := n }
  | image :: rest, n, s =>
    if records ≤ s.mgmt.cursor.index then { state := s, code := .endOfTable, count := n }
    else
      match write image s with
      | .error code => { state := s, code := code, count := n }
      | .ok t => loadImages write records rest (n + 1) (advanceCursor t)

/-- LOAD on the CIRCUIT table (R12, R13, R165). -/
def loadCircuits (bulk : List Byte) (s : State) : Result :=
  loadImages writeCircuit TableId.circuit.records (imagesOf 12 bulk) 0 s

/-- LOAD on the RING table: refused whole while a circuit is in service, else evaluated at its end (R2, R3). -/
def loadRing (bulk : List Byte) (s : State) : Result :=
  if s.anyInService then { state := s, code := .inUse, count := 0 }
  else
    let r := loadImages writeRing TableId.ring.records (imagesOf 1 bulk) 0 s
    { r with state := evaluateRing s.table.ring r.state }

/-- LOAD on the SETTINGS table: the single image is stored at the directive's end, or refused whole (R166). -/
def loadSettings (bulk : List Byte) (s : State) : Result :=
  match imagesOf 24 bulk with
  | [] => { state := s, code := .ok, count := 0 }
  | image :: rest =>
    if TableId.settings.records ≤ s.mgmt.cursor.index then { state := s, code := .endOfTable, count := 0 }
    else if orientationInUse (settingsImage image) s then { state := s, code := .inUse, count := 0 }
    else
      { state := storeSettings (settingsImage image) (advanceCursor s)
        code := if rest = [] then .ok else .endOfTable
        count := 1 }

/-- LOAD into the cursor's table (R165). -/
def doLoad (bulk : List Byte) (s : State) : Result :=
  match s.mgmt.cursor.table with
  | .settings => loadSettings bulk s
  | .ring => loadRing bulk s
  | .circuit => loadCircuits bulk s
  | _ => { state := s, code := .readOnly, count := 0 }

/-! ### OPERATOR and CAPTURE -/

/-- The line port of a side code (12_formats.md, "Directives"). -/
def sideOf (n : Nat) : Side := if n = 0 then .east else .west

/-- OPERATOR (R49, R170). -/
def doOperator (side value : Nat) (s : State) : Result :=
  if 1 < side ∨ 2 < value then { state := s, code := .range, count := 0 }
  else
    match s.position with
    | none => { state := s, code := .notPlaced, count := 0 }
    | some p => { state := setRequest p (sideOf side) (requestOf value) s, code := .ok, count := 0 }

/-- CAPTURE: the live counters are copied into the snapshot, and zeroed with the flag set (R171, R182). -/
def doCapture (flag : Nat) (s : State) : Result :=
  if 1 < flag then { state := s, code := .range, count := 0 }
  else
    { state :=
        { s with
          reports := { s.reports with snapshot := s.counters }
          counters := if flag = 1 then [] else s.counters }
      code := .ok
      count := 0 }

end Sys2Proof.Machine
end

