-- ==== Sys2Proof/Machine/Chain.lean ====
section
/-! DEFINITION. Chain: executing requests, directive by directive and record by record (R160 to R162, R167 to R169, R172), and
the commands that are directives. -/

namespace Sys2Proof.Machine

/-- A code that refuses a directive, and so ends its chain: every code but OK and the two ending codes (R161). -/
def ResultCode.refuses : ResultCode → Bool
  | .ok => false
  | .endOfTable => false
  | .truncated => false
  | _ => true

/-! ### The chain -/

/-- Set the execution state. -/
def setExecution (e : Execution) (s : State) : State := { s with mgmt := { s.mgmt with execution := e } }

/-- The reply's size with `items` items and some bytes of records (R162). -/
def replySize (items records : Nat) : Nat := 10 + 4 * items + records

/-- A chain that begins (R160). -/
def Chain.start (requester : Option (Byte × Half)) (body : List Byte) : Chain :=
  { requester := requester, rest := body, index := 0, items := [], records := [], reading := none, restartDue := false }

/-- A chain with one more result item, for the directive at hand (R161). -/
def Chain.answered (c : Chain) (code : ResultCode) (count : Nat) : Chain :=
  { c with
    items := c.items ++ [{ index := c.index, code := code, count := count }]
    index := c.index + 1
    reading := none }

/-- The reply's body: the items, then the records of a final READ (R162). -/
def Chain.body (c : Chain) : List Byte := c.items.flatMap Item.bytes ++ c.records

/-- A chain's reply is built and offered, and its request leaves the queue (R162). A directive taken by itself has none
(log 16). -/
def sendReply (c : Chain) (s : State) : State :=
  match c.requester with
  | none => s
  | some (origin, tag) =>
    let t := sendFrame (replyFrame s origin tag c.body) s
    { t with mgmt := { t.mgmt with requests := t.mgmt.requests.tail } }

/-- The chain ends: its reply is offered, the unit is IDLE, and a restart that is due is delivered (R162, R172). -/
def endChain (c : Chain) (s : State) : State :=
  let t := sendReply c s
  let u := { t with mgmt := { t.mgmt with
    execution := .idle, lastItems := c.items, lastRecords := c.records } }
  if c.restartDue then restart u else u

/-- A directive has been taken or refused with a code and a count: the chain goes on, or ends at a refusal or at its last
directive (R160, R161). -/
def answer (c : Chain) (more : Bool) (code : ResultCode) (count : Nat) (s : State) : State :=
  if code.refuses || !more then endChain (c.answered code count) s
  else setExecution (.running (c.answered code count)) s

/-- A SERVICE directive with its operands checked (R14): held while the lock is HELD, else taken (R168). -/
def takeService (c : Chain) (more : Bool) (action : ServiceAction) (circuit : Nat) (s : State) : State :=
  if s.lockHeld then
    setExecution (.holding c { circuit := circuit, action := action, more := more } (s.now + Config.holdLimit)) s
  else
    let r := service action circuit s
    answer c more r.2 0 r.1

/-- IN or OUT of an action code (12_formats.md, "Directives"). -/
def actionOf (n : Nat) : Option ServiceAction :=
  match n with
  | 1 => some .in_
  | 2 => some .out
  | _ => none

/-- The next directive of a chain is taken; `c` holds the bytes after it (R160). -/
def takeDirective (c : Chain) (more : Bool) (d : Directive) (s : State) : State :=
  match d with
  | .select table index => let r := doSelect table index s; answer c more r.code r.count r.state
  | .load bulk => let r := doLoad bulk s; answer c more r.code r.count r.state
  | .read count =>
    if count = 0 then answer c more .range 0 s
    else setExecution (.running { c with reading := some { remaining := count, returned := 0 } }) s
  | .service circuit action =>
    if Config.circuitMax ≤ circuit then answer c more .range 0 s
    else
      match actionOf action with
      | none => answer c more .range 0 s
      | some a => takeService c more a circuit s
  | .operator side value => let r := doOperator side value s; answer c more r.code r.count r.state
  | .capture flag => let r := doCapture flag s; answer c more r.code r.count r.state
  | .restart => answer { c with restartDue := true } more .ok 0 s

/-- One record of a READ, or its ending code (R167). -/
def readRecord (c : Chain) (r : Reading) (s : State) : State :=
  let cursor := s.mgmt.cursor
  if r.remaining = 0 then answer c false .ok r.returned s
  else if cursor.table.records ≤ cursor.index then answer c false .endOfTable r.returned s
  else
    let image := recordImage s cursor.table cursor.index
    if replySize (c.items.length + 1) (c.records.length + image.length) ≤ s.settings.maxReply then
      setExecution
        (.running { c with
          records := c.records ++ image
          reading := some { remaining := r.remaining - 1, returned := r.returned + 1 } })
        (advanceCursor s)
    else answer c false .truncated r.returned s

/-- The reply has room for one more item (R161). -/
def Chain.hasRoom (c : Chain) (s : State) : Bool :=
  decide (replySize (c.items.length + 1) c.records.length ≤ s.settings.maxReply)

/-- One step of a chain: a record of a READ, or a directive (R160, R161, R167). The item of a directive that is not read
(UNKNOWN_DIRECTIVE, or BAD_CHAIN at a missing header byte) counts 0 (DESIGN CHOICE, log 29). -/
def chainStep (c : Chain) (s : State) : State :=
  match c.reading with
  | some r => readRecord c r s
  | none =>
    if c.hasRoom s then
      match nextDirective c.rest with
      | .error code => answer c false code 0 s
      | .ok d => takeDirective { c with rest := d.rest } d.more d.directive s
    else endChain c s

/-- At most `n` steps of the chain in execution, until it ends or is held. -/
def runChain : Nat → State → State
  | 0, s => s
  | n + 1, s =>
    match s.mgmt.execution with
    | .running c => runChain n (chainStep c s)
    | _ => s

/-- Enough steps to bring a chain to its end: at most one per byte of its body and 256 for a READ. -/
def Chain.stepsLeft (c : Chain) : Nat := c.rest.length + 260

/-- Run the chain in execution, for `pause` steps or to its end (log 17). -/
def runPaused (pause : Option Nat) (s : State) : State :=
  match s.mgmt.execution with
  | .running c => runChain (pause.getD c.stepsLeft) s
  | _ => s

/-- The Management Unit takes the request at the head of the queue (R160). -/
def startRequest (s : State) : State :=
  match s.mgmt.requests with
  | [] => s
  | r :: _ => setExecution (.running (Chain.start (some (r.origin, r.tag)) r.body)) s

/-- EXECUTE_REQUEST: the head request is taken when the unit is IDLE, and its chain executed (R160; log 17). -/
def executeRequest (pause : Option Nat) (s : State) : State :=
  if s.node.state = .unaddressed then s
  else
    match s.mgmt.execution with
    | .idle => runPaused pause (startRequest s)
    | .running _ => runPaused pause s
    | .holding _ _ _ => s

/-- The meaning of EXECUTE_REQUEST. -/
def execExecuteRequest (pause : Option Nat) (s : State) : Host.Outcome State Fault Refusal := .next (executeRequest pause s)

/-! ### Held SERVICE (R169) -/

/-- HOLD_TIMER_EXPIRY: the held directive is refused with ENGINE_BUSY, and the chain ends (R169). -/
def holdTimerExpiry (s : State) : State :=
  match s.mgmt.execution with
  | .holding c _ expiry => answer c false .engineBusy 0 (s.reach expiry)
  | _ => s

/-- The meaning of HOLD_TIMER_EXPIRY. -/
def execHoldTimerExpiry (s : State) : Host.Outcome State Fault Refusal := .next (holdTimerExpiry s)

/-- HELD_SERVICE_RELEASE: with the lock FREE the held directive is taken (R169). A chain with directives left stays in
execution, and goes on with the next EXECUTE_REQUEST or directive command (DESIGN CHOICE, log 28). -/
def heldServiceRelease (s : State) : State :=
  match s.mgmt.execution with
  | .holding c h _ => if s.lockHeld then s else takeService c h.more h.action h.circuit s
  | _ => s

/-- The meaning of HELD_SERVICE_RELEASE. -/
def execHeldServiceRelease (s : State) : Host.Outcome State Fault Refusal := .next (heldServiceRelease s)

/-! ### Directives as commands (log 16) -/

/-- A directive taken: from the chain in execution when it is the next one there, by itself when the unit is IDLE, and not
otherwise; a READ is taken to its end (log 16). -/
def directive (d : Directive) (s : State) : State :=
  if s.node.state = .unaddressed then s
  else
    match s.mgmt.execution with
    | .idle => runPaused none (takeDirective (Chain.start none []) false d s)
    | .running c =>
      match c.reading, nextDirective c.rest with
      | none, .ok r =>
        if r.directive = d ∧ c.hasRoom s then
          let t := takeDirective { c with rest := r.rest } r.more d s
          match d with
          | .read _ => runPaused none t
          | _ => t
        else s
      | _, _ => s
    | .holding _ _ _ => s

/-- The meaning of SELECT. -/
def execSelect (table : Byte) (index : Half) (s : State) : Host.Outcome State Fault Refusal :=
  .next (directive (.select table.toNat index.toNat) s)

/-- The meaning of LOAD. -/
def execLoad (bulk : List Byte) (s : State) : Host.Outcome State Fault Refusal := .next (directive (.load bulk) s)

/-- The meaning of READ. -/
def execRead (count : Byte) (s : State) : Host.Outcome State Fault Refusal := .next (directive (.read count.toNat) s)

/-- The meaning of SERVICE_IN. -/
def execServiceIn (circuit : Half) (s : State) : Host.Outcome State Fault Refusal :=
  .next (directive (.service circuit.toNat 1) s)

/-- The meaning of SERVICE_OUT. -/
def execServiceOut (circuit : Half) (s : State) : Host.Outcome State Fault Refusal :=
  .next (directive (.service circuit.toNat 2) s)

/-- The meaning of OPERATOR. -/
def execOperator (side value : Byte) (s : State) : Host.Outcome State Fault Refusal :=
  .next (directive (.operator side.toNat value.toNat) s)

/-- The meaning of CAPTURE. -/
def execCapture (flag : Byte) (s : State) : Host.Outcome State Fault Refusal := .next (directive (.capture flag.toNat) s)

/-- The meaning of RESTART. -/
def execRestart (s : State) : Host.Outcome State Fault Refusal := .next (directive .restart s)

end Sys2Proof.Machine
end

