-- ==== Sys2Proof/Machine/Reports.lean ====
section
/-! DEFINITION. Reports: the emission of REPORT frames (R178 to R180), and power reset (R143). -/

namespace Sys2Proof.Machine

/-- The queue an emission would use, when the report destination is not 0 and the queue has a free place (R178). -/
def reportQueue (s : State) : Option MgmtPort :=
  if s.settings.reportDestination = 0 then none
  else (namedQueue s s.settings.reportDestination).filter (fun q => (s.mgmt.queues.get q).free)

/-- The subjects whose category is on, in list order (R178, step 1). -/
def reportable (s : State) : List Subject := s.reports.subjects.filter s.settings.enabled

/-- The REPORT frame of the subjects taken (R179). -/
def reportFrame (s : State) (taken : List Subject) : Frame :=
  { kind := kindReport, destination := s.settings.reportDestination, origin := s.node.strap
    hops := Config.frameHops, tag := s.reports.number, body := taken.flatMap (itemOf s) }

/-- REPORT_EMISSION: when its conditions hold, subjects of categories that are off leave the list, up to 16 are taken from
its head into one frame, and the report number moves on (R178, R179). -/
def reportEmission (s : State) : State :=
  match s.reports.subjects, s.node.state, reportQueue s with
  | [], _, _ => s
  | _, .unaddressed, _ => s
  | _, _, none => s
  | _, _, some q =>
    match (reportable s).take Config.reportItems with
    | [] => { s with reports := { s.reports with subjects := [] } }
    | taken =>
      offerFrame q (reportFrame s taken)
        { s with reports := { s.reports with
            subjects := (reportable s).drop Config.reportItems, number := s.reports.number + 1 } }

/-- The meaning of REPORT_EMISSION. -/
def execReportEmission (s : State) : Host.Outcome State Fault Refusal := .next (reportEmission s)

/-- The meaning of POWER_RESET: the whole part starts afresh with the strap ID read from the pins; the commands that wait
are outside the part and stay (R143). -/
def execPowerReset (strap : Byte) (s : State) : Host.Outcome State Fault Refusal :=
  .next { State.powerOn strap with pending := s.pending }

end Sys2Proof.Machine
end

