-- ==== Sys2Proof/Machine/Tributary.lean ====
section
/-! DEFINITION. Tributary: the receivers and transmitters of the tributary ports (R126, R127). -/

namespace Sys2Proof.Machine

/-- The receiver's part of a tributary frame (R126). -/
def receiveTributary (t : Nat) (f : TributaryFrame) (s : State) : State :=
  let port := s.trib t
  let (a, run) := nextAlignment f.alignmentWord port.alignment port.run
  s.setTrib t { port with alignment := a, run := run, slots := deliveredSlots a f.slots }

/-- The management part of a frame of tributary port 0: a break at an alignment change, and the bytes while ALIGNED
(R126, R154). -/
def tributaryOverhead (before : Alignment) (f : TributaryFrame) (s : State) : State :=
  let t := if (s.trib 0).alignment = before then s else breakStream .tributary s
  if (s.trib 0).alignment = .aligned then assembleField .tributary f.management t else t

/-- TRIBUTARY_FRAME: one frame period of a tributary receiver (R126). -/
def tributaryFrame (t : Nat) (f : TributaryFrame) (s : State) : State :=
  let u := receiveTributary t f s
  if t = 0 then tributaryOverhead (s.trib 0).alignment f u else u

/-- The meaning of TRIBUTARY_FRAME. -/
def execTributaryFrame (t : Fin 4) (f : TributaryFrame) (s : State) : Host.Outcome State Fault Refusal :=
  .next (tributaryFrame t f s)

/-- TRIBUTARY_ALIGNMENT_CHANGE: the frame with which the port's run count reaches its limit (R126; log 5). -/
def tributaryAlignmentChange (t : Nat) (f : TributaryFrame) (s : State) : State :=
  let port := s.trib t
  if (nextAlignment f.alignmentWord port.alignment port.run).1 = port.alignment then s else tributaryFrame t f s

/-- The meaning of TRIBUTARY_ALIGNMENT_CHANGE. -/
def execTributaryAlignmentChange (t : Fin 4) (f : TributaryFrame) (s : State) : Host.Outcome State Fault Refusal :=
  .next (tributaryAlignmentChange t f s)

/-- The frame a tributary transmitter sends now (R127). -/
def tributaryFrameSent (s : State) (t : Nat) : TributaryFrame :=
  { alignmentWord := true
    slots := (List.range 16).map (fun u => (tribOutputSlot s t u).raw)
    management := if t = 0 then streamField (s.mgmt.queues.get .tributary) else List.replicate 32 0 }

/-- TRIBUTARY_FRAME_TRANSMIT: one frame is sent; at port 0 the management stream moves on (R127, R158). -/
def tributaryFrameTransmit (t : Nat) (s : State) : State :=
  let u := s.setTrib t { s.trib t with sent := some (tributaryFrameSent s t) }
  if t = 0 then advanceStream .tributary u else u

/-- The meaning of TRIBUTARY_FRAME_TRANSMIT. -/
def execTributaryFrameTransmit (t : Fin 4) (s : State) : Host.Outcome State Fault Refusal :=
  .next (tributaryFrameTransmit t s)

end Sys2Proof.Machine
end

