-- ==== Sys2Proof/Machine/Dispatch.lean ====
section
/-! DEFINITION. Dispatch: the meaning of every command. -/

namespace Sys2Proof.Machine

/-- The effect of a command on everything but the queue of commands that wait. -/
def exec (i : Instr) (s : State) : Host.Outcome State Fault Refusal :=
  match i with
  | .powerReset strap => Sys2Proof.Machine.execPowerReset strap s
  | .bandFrame p b f => Sys2Proof.Machine.execBandFrame p b f s
  | .bandEntryIntoLost p b => Sys2Proof.Machine.execBandEntryIntoLost p b s
  | .bandEntryIntoAligned p b f => Sys2Proof.Machine.execBandEntryIntoAligned p b f s
  | .degradeIntervalEnd p b f => Sys2Proof.Machine.execDegradeIntervalEnd p b f s
  | .holdOffExpiry p b => Sys2Proof.Machine.execHoldOffExpiry p b s
  | .returnTimerExpiry p b => Sys2Proof.Machine.execReturnTimerExpiry p b s
  | .bandFrameTransmit p => Sys2Proof.Machine.execBandFrameTransmit p s
  | .tributaryFrame t f => Sys2Proof.Machine.execTributaryFrame t f s
  | .tributaryAlignmentChange t f => Sys2Proof.Machine.execTributaryAlignmentChange t f s
  | .tributaryFrameTransmit t => Sys2Proof.Machine.execTributaryFrameTransmit t s
  | .switchFrameBoundary => Sys2Proof.Machine.execSwitchFrameBoundary s
  | .tagCheckStateChange c => Sys2Proof.Machine.execTagCheckStateChange c s
  | .noticeTaken => Sys2Proof.Machine.execNoticeTaken s
  | .stalenessExpiry q => Sys2Proof.Machine.execStalenessExpiry q s
  | .refreshTimerExpiry => Sys2Proof.Machine.execRefreshTimerExpiry s
  | .gatherExpiry => Sys2Proof.Machine.execGatherExpiry s
  | .passCompletion => Sys2Proof.Machine.execPassCompletion s
  | .buildStart => Sys2Proof.Machine.execBuildStart s
  | .buildEnd => Sys2Proof.Machine.execBuildEnd s
  | .listenExpiry => Sys2Proof.Machine.execListenExpiry s
  | .managementFrameFromLine p bytes => Sys2Proof.Machine.execManagementFrameFromLine p bytes s
  | .managementFrameFromTributary bytes => Sys2Proof.Machine.execManagementFrameFromTributary bytes s
  | .executeRequest pause => Sys2Proof.Machine.execExecuteRequest pause s
  | .select table index => Sys2Proof.Machine.execSelect table index s
  | .load bulk => Sys2Proof.Machine.execLoad bulk s
  | .read count => Sys2Proof.Machine.execRead count s
  | .serviceIn circuit => Sys2Proof.Machine.execServiceIn circuit s
  | .serviceOut circuit => Sys2Proof.Machine.execServiceOut circuit s
  | .holdTimerExpiry => Sys2Proof.Machine.execHoldTimerExpiry s
  | .heldServiceRelease => Sys2Proof.Machine.execHeldServiceRelease s
  | .operator side value => Sys2Proof.Machine.execOperator side value s
  | .capture flag => Sys2Proof.Machine.execCapture flag s
  | .restart => Sys2Proof.Machine.execRestart s
  | .reportEmission => Sys2Proof.Machine.execReportEmission s

end Sys2Proof.Machine
end

