-- ==== Sys2Proof/Safety.lean ====
section
/-! DEFINITION. Safety: what counts as a safe step and run of the part, and the conditions every step keeps. -/

namespace Sys2Proof.Machine

/-- A step is safe when it answers a next state: the part neither faults nor refuses a command. -/
def safeStep (s : State) : Prop := ∃ t, step s = .next t

/-- A run of `k` steps is safe when each step of it is. -/
def safeRun : Nat → State → Prop
  | 0, _ => True
  | k + 1, s => ∃ t, step s = .next t ∧ safeRun k t

/-- Every sparse table is in its canonical form (log 22). -/
def State.tablesWf (s : State) : Bool :=
  tableWf 0 s.table.ring && tableWf .absent s.table.circuits && tableWf .none s.table.occupancy &&
    tableWf .never s.notices.records && tableWf .absent s.plans && tableWf .fill s.switch.connections &&
    tableWf .fill (s.switch.target.getD []) && tableWf 0 s.counters && tableWf 0 s.reports.snapshot

/-- Every outgoing frame queue holds at most 8 frames and the request queue at most 4 requests (R158, R159). -/
def State.queuesBounded (s : State) : Bool :=
  decide (s.mgmt.queues.east.frames.length ≤ Config.frameQueueMax) &&
    decide (s.mgmt.queues.west.frames.length ≤ Config.frameQueueMax) &&
    decide (s.mgmt.queues.tributary.frames.length ≤ Config.frameQueueMax) &&
    decide (s.mgmt.requests.length ≤ Config.requestQueueMax)

/-- Each subject stands at most once in the pending list (R176), and each outgoing notice queue holds at most one notice per
origin position (R71). -/
def State.listsUnique (s : State) : Prop :=
  s.reports.subjects.Nodup ∧ ∀ p, ((s.notices.queues.get p).map (fun e => e.notice.position)).Nodup

/-- The conditions, operator states, W and X held are those of the latest end records, ring placement and act-on-degrade
setting (R56, R59). -/
def State.mapDerived (s : State) : Prop :=
  s.map.spans = deriveSpans (spansOfRing s.table.ring s.node.strap) s.settings.actOnDegrade s.map.spans

/-- The digest held is that of the ring map, act on degrade and the in-service circuits as they stand (R22, R23), over a
circuit table in canonical form. -/
def State.digestFresh (s : State) : Prop :=
  s.table.digest = digestOf s.table ∧ tableWf .absent s.table.circuits = true

/-- The convergence status held is the one R79's test gives. -/
def State.convergenceFresh (s : State) : Prop := s.notices.convergence = convergenceOf s

/-- A VALID plan lies below N and carries the current generation (R112, R113, R116), and a build is of a plan below N. -/
def State.plansCurrent (s : State) : Prop :=
  (∀ k g l o, s.plan k = .valid g l o → g = s.table.generation ∧ k < s.ringSize) ∧
    ∀ k i, s.engine.state = .build k i → k < s.ringSize

/-- A VALID plan holds the lists that a build of it from the tables as they stand gives (R113, R115, R116). -/
def State.plansComputed (s : State) : Prop :=
  ∀ k g l o, s.plan k = .valid g l o → l = (computePass (buildInputs k s)).grants ∧
    o = (computePass (buildInputs k s)).outcomes

/-- A build of the current generation computes on the inputs it would take from the tables as they stand (R113, R115). -/
def State.buildCurrent (s : State) : Prop :=
  ∀ k i g, s.engine.state = .build k i → s.plan k = .building g → g = s.table.generation → i = buildInputs k s

/-- The node is placed exactly in STARTING and ACTIVE (R145, R146, R150); outside them the engine is IDLE and the refresh
timer idle (R76, R86); and the engine gathers and passes in ACTIVE only (R86). -/
def State.stateAllows (s : State) : Prop :=
  s.node.state.runs = s.placed ∧
    (s.node.state.runs = false → s.engine.state = .idle ∧ s.notices.refresh = none) ∧
    (s.node.state ≠ .active → (∀ e, s.engine.state ≠ .gather e) ∧ ∀ i, s.engine.state ≠ .pass i)

/-- A pass in progress computes on W, X, N, circuits, occupancy and grants as they stand: whatever changes one of them has
started it afresh or ended it (R90 to R92, R94). -/
def State.passCurrent (s : State) : Prop := ∀ i, s.engine.state = .pass i → i = takeSnapshot s

/-! ### The ends of the spans -/

/-- The low end of span `k`: its view record and its operator request (R43). -/
def State.lowEnd (s : State) (k : Nat) : Option (Quad View) × OperatorRequest :=
  ((s.span k).lowViews, (s.span k).lowRequest)

/-- The high end of span `k` (R43). -/
def State.highEnd (s : State) (k : Nat) : Option (Quad View) × OperatorRequest :=
  ((s.span k).highViews, (s.span k).highRequest)

/-- An end that holds nothing: its view record ABSENT, its request NONE (R43). -/
def absentEnd : Option (Quad View) × OperatorRequest := (none, .none)

/-- The end that a port copy makes of itself: its four views and its request (R45). -/
def PortCopy.asEnd (c : PortCopy) : Option (Quad View) × OperatorRequest := (some c.views, c.request)

/-- The two ends that a record's position speaks for: the low end of the span ahead of it, which its high-span fields fill, and
the high end of the span behind it, which its low-span fields fill; nothing while it is NEVER or STALE (R47, R48). -/
def NoticeRecord.ends : NoticeRecord → (Option (Quad View) × OperatorRequest) × (Option (Quad View) × OperatorRequest)
  | .fresh c _ => ((some c.highViews, c.highRequest), (some c.lowViews, c.lowRequest))
  | _ => (absentEnd, absentEnd)

/-- What the end records hold. Each port copy has the four views of its port's supervisors (R44). The record of every position
but the others of the ring is NEVER (R66, R73). In a placed node the two own ends are the port copies as the orientation
places them (R45), and the two ends of another position hold what its FRESH record says, or nothing when it is NEVER or STALE
(R47, R48). -/
def State.endsHeld (s : State) : Prop :=
  (∀ p, (s.map.copies.get p).views = (s.port p).bands.map (fun x => x.supervisor.view)) ∧
  (∀ q, s.position = none ∨ s.position = some q ∨ s.ringSize ≤ q → s.record q = .never) ∧
  ∀ own, s.position = some own →
    s.lowEnd own = (s.map.copies.get (clockwiseSide s.settings.orientation)).asEnd ∧
    s.highEnd (ringSub s.ringSize own 1) = (s.map.copies.get (counterSide s.settings.orientation)).asEnd ∧
    ∀ q, q < s.ringSize → q ≠ own → (s.lowEnd q, s.highEnd (ringSub s.ringSize q 1)) = (s.record q).ends

/-- In a placed node each own end holds its port copy's views with request NONE, and every end of another position `held k`:
the low end of span `k` first, the high end second (R45, R50, R51, R60). -/
def State.ownEndsStored (s : State)
    (held : Nat → (Option (Quad View) × OperatorRequest) × (Option (Quad View) × OperatorRequest)) : Prop :=
  ∀ own, s.position = some own → ∀ k, k < s.ringSize →
    s.lowEnd k = (if k = own then (some (s.map.copies.get (clockwiseSide s.settings.orientation)).views, .none)
      else (held k).1) ∧
    s.highEnd k = (if (k + 1) % s.ringSize = own then
      (some (s.map.copies.get (counterSide s.settings.orientation)).views, .none) else (held k).2)

/-! ### Terms the statements share -/

/-- The Management Unit can take a directive by itself (log 16). -/
def State.canTake (s : State) : Prop := s.node.state ≠ .unaddressed ∧ s.mgmt.execution = .idle

/-- The state with the outcome of a directive taken by itself noted in the Management Unit (log 16). -/
def State.answeredWith (s : State) (code : ResultCode) (count : Nat) (records : List Byte) : State :=
  { s with mgmt := { s.mgmt with
    execution := .idle, lastItems := [{ index := 0, code := code, count := count }], lastRecords := records } }

/-- The bytes an outgoing frame queue has still to send (R158). -/
def FrameQueue.stream (v : FrameQueue) : List Byte := (v.frames.flatMap Frame.bytes).drop v.sent

/-- What an event of line port `p` leaves as it was: the other line port, the tributary ports, the node state, all tables but
the restoration states, the notice records, the frames last sent, the Connection Map, the chain in execution, the snapshot. -/
def keepsBesidePort (p : Side) (s t : State) : Prop :=
  t.pending = s.pending ∧ t.node = s.node ∧ t.port p.other = s.port p.other ∧ (t.port p).sent = (s.port p).sent ∧
    t.tribs = s.tribs ∧ t.table = { s.table with circuits := t.table.circuits } ∧
    inServiceOf t.table.circuits = inServiceOf s.table.circuits ∧
    t.notices.records = s.notices.records ∧ t.switch.connections = s.switch.connections ∧
    t.mgmt.execution = s.mgmt.execution ∧ t.mgmt.cursor = s.mgmt.cursor ∧ t.reports.snapshot = s.reports.snapshot

/-- What no timer, notice or directive changes: the commands that wait, the strap, the tributary ports, the Connection Map, the
report number and the snapshot. -/
def keepsStanding (s t : State) : Prop :=
  t.pending = s.pending ∧ t.node.strap = s.node.strap ∧ t.tribs = s.tribs ∧
    t.switch.connections = s.switch.connections ∧ t.reports.number = s.reports.number ∧
    t.reports.snapshot = s.reports.snapshot

/-- An own notice of a placed node that an origination queues on both line ports, with the sequence and views it holds
(R71, R74). -/
def ownNoticeQueued (v : Notice) (t : State) : Prop :=
  ∀ q, { notice := v, own := true } ∈ t.notices.queues.get q

/-- A report of a subject is pending when its category is on (R176). -/
def reported (x : Subject) (t : State) : Prop := t.settings.enabled x = true → x ∈ t.reports.subjects

/-- The notice that a placed node at position `own` makes of its own state but for the sequence (R46, R74). -/
def State.noticeAt (s : State) (own : Nat) (sequence : Byte) : Notice :=
  { position := own, id := s.node.strap, sequence := sequence, hops := s.ringSize - 1
    starting := decide (s.node.state ≠ .active)
    lowViews := (s.map.copies.get (counterSide s.settings.orientation)).views
    highViews := (s.map.copies.get (clockwiseSide s.settings.orientation)).views
    lowRequest := (s.map.copies.get (counterSide s.settings.orientation)).request
    highRequest := (s.map.copies.get (clockwiseSide s.settings.orientation)).request
    digest := s.table.digest }

/-- From `s` to `t` the node has originated one notice with the sequence it was at: an own notice on both line ports with the
views and requests `t` holds, the counter moved on, the refresh timer restarted; queued notices of other positions stay
(R71, R74, R76). -/
def originated (s t : State) : Prop :=
  ∀ own, s.position = some own → ownNoticeQueued (t.noticeAt own s.notices.sequence) t ∧
    t.notices.sequence = s.notices.sequence + 1 ∧ t.notices.refresh = some (t.now + 10 * t.settings.refresh) ∧
    ∀ p, ∀ v : QueuedNotice, v.notice.position ≠ own → (v ∈ t.notices.queues.get p ↔ v ∈ s.notices.queues.get p)

/-- From `s` to `t` band `b` of line port `p` has had its view handed on, moved at most once. A view that stays leaves the map
and the Notice Unit as they were. A view that moves is reported and stands in the port copy (R40, R44); in a placed node it
stands in the own end the copy stands in (R45, R46), and a STARTING or ACTIVE node originates one notice with it (R74, R75). -/
def viewHandedOn (p : Side) (b : Nat) (s t : State) : Prop :=
  ((t.band p b).supervisor.view = (s.band p b).supervisor.view → t.map = s.map ∧ t.notices = s.notices) ∧
  ((t.band p b).supervisor.view ≠ (s.band p b).supervisor.view →
    let views : Quad View := (t.port p).bands.map (fun x => x.supervisor.view)
    reported (.port p) t ∧ t.map.copies.get p = { s.map.copies.get p with views := views } ∧
    t.map.copies.get p.other = s.map.copies.get p.other ∧
    (s.position = none → t.map.spans = s.map.spans ∧ t.notices = s.notices) ∧
    ∀ own, s.position = some own →
      (p = clockwiseSide s.settings.orientation → t.lowEnd own = (t.map.copies.get p).asEnd) ∧
      (p = counterSide s.settings.orientation → t.highEnd (ringSub s.ringSize own 1) = (t.map.copies.get p).asEnd) ∧
      (∀ k, k < s.ringSize →
        (¬(p = clockwiseSide s.settings.orientation ∧ k = own) → t.lowEnd k = s.lowEnd k) ∧
        (¬(p = counterSide s.settings.orientation ∧ (k + 1) % s.ringSize = own) → t.highEnd k = s.highEnd k)) ∧
      (s.node.state.runs = false → t.notices = s.notices) ∧
      (s.node.state.runs = true → originated s t ∧ t.notices = { s.notices with
        queues := t.notices.queues, sequence := t.notices.sequence, refresh := t.notices.refresh }))

/-! ### Chains of directives -/

/-- Operand bytes after a header of directive code `code` spell a command, with the bytes after it left to the chain (R160;
12_formats.md, "Directives"). A LOAD takes them all. -/
inductive Spells : Nat → List Byte → Instr → List Byte → Prop where
  | select (table high low : Byte) (after : List Byte) :
    Spells 1 (table :: high :: low :: after) (.select table (high ++ low)) after
  | load (bulk : List Byte) : Spells 2 bulk (.load bulk) []
  | read (count : Byte) (after : List Byte) : Spells 3 (count :: after) (.read count) after
  | serviceIn (high low : Byte) (after : List Byte) : Spells 4 (high :: low :: 1 :: after) (.serviceIn (high ++ low)) after
  | serviceOut (high low : Byte) (after : List Byte) :
    Spells 4 (high :: low :: 2 :: after) (.serviceOut (high ++ low)) after
  | operator (side value : Byte) (after : List Byte) : Spells 5 (side :: value :: after) (.operator side value) after
  | capture (flag : Byte) (after : List Byte) : Spells 6 (flag :: after) (.capture flag) after
  | restart (after : List Byte) : Spells 7 after .restart after

/-- The state after a chain's end, from `s`: its reply offered to its requester, its request gone from the queue and the unit
IDLE; then, when a RESTART has been taken in the chain, one restart (R162, R172). A directive taken by itself has no requester,
and so no reply (log 16). -/
def State.chainEnded (s : State) (c : Chain) (items : List Item) (records : List Byte) : State :=
  let u := match c.requester with
    | none => s
    | some (origin, tag) =>
      let v := sendFrame { kind := 2, destination := origin, origin := s.node.strap, hops := 32, tag := tag,
                           body := items.flatMap Item.bytes ++ records } s
      { v with mgmt := { v.mgmt with requests := s.mgmt.requests.tail } }
  let w := { u with mgmt := { u.mgmt with execution := .idle, lastItems := items, lastRecords := records } }
  if c.restartDue = true then restart w else w

/-- The state after a directive of chain `c` has given a code and a count, and its block has made `s`: the chain has ended, at a
code that refuses and at its last directive, or goes on with one item more (R160, R161). -/
def State.chainAnswered (s : State) (c : Chain) (more : Bool) (code : ResultCode) (count : Nat) : State :=
  let items := c.items ++ [{ index := c.index, code := code, count := count }]
  if more = true ∧ code ∈ [ResultCode.ok, .endOfTable, .truncated] then
    { s with mgmt := { s.mgmt with
      execution := .running { c with index := c.index + 1, items := items, reading := none } } }
  else s.chainEnded c items c.records

/-! ### The engine's answer to a map change -/

/-- The fast-path test of an ACTIVE node names span `k` and plan `k` holds these lists (R119, conditions 2 to 5): `s` is the
state before the change, `t` the state whose map and convergence status the test reads; a build that the change abandons
leaves its plan STALE (R85). -/
def fastPathNames (s t : State) (k : Nat) (grants : List Grant) (outcomes : List Outcome) : Prop :=
  s.engine.grants = [] ∧ t.notices.convergence = .converged ∧ k < 32 ∧
    (∀ j, j < 32 → ∀ b : Fin 4,
      ((t.map.bandsInW j).get b = true ↔ j = k) ∧ ((t.map.bandsInX j).get b = true ↔ j = k)) ∧
    (∀ i, s.engine.state ≠ .build k i) ∧ ∃ g, s.plan k = .valid g grants outcomes

/-- A plan has been applied: its grants and states are installed as one change, a target is derived, the result and each
circuit it changed are reported, and the application is counted (R106, R120, R180). -/
def planApplied (s t : State) (grants : List Grant) (outcomes : List Outcome) : Prop :=
  t.engine = { state := .idle, grants := grants, resultNumber := s.engine.resultNumber + 1 } ∧
    t.switch = { s.switch with target := some (targetOf t) } ∧ t.counter 2 = saturate (s.counter 2) ∧
    (∀ n, n ≠ 2 → t.counter n = s.counter n) ∧ reported .node t ∧
    (∀ c f a r k, s.circuit c = .inService f a r k → ∃ r', t.circuit c = .inService f a r' k ∧
      (∀ o, outcomes.find? (fun x => x.circuit == c) = some o → r' = o.restoration) ∧
      (c ∉ outcomes.map Outcome.circuit → r' = r) ∧ (r' ≠ r → reported (.circuit c) t)) ∧
    ∀ c, (∀ f a r k, s.circuit c ≠ .inService f a r k) → t.circuit c = s.circuit c

/-- The circuit records, the switch `sw` and the counters stay, as they do while no result is installed. -/
def nothingInstalled (s t : State) (sw : SlotSwitch) : Prop :=
  t.table = s.table ∧ t.switch = sw ∧ t.counters = s.counters

/-- What the engine does at a map change, from the state `s` before it to `t`; `sw` is the switch when no result is installed.
ACTIVE: a gather goes on (R88); a pass is counted as abandoned and starts afresh on the map as it stands (R92); from IDLE
or BUILD the plan that the fast-path test names is applied, and without one a gather starts (R85, R119, R120). STARTING: a
build is abandoned, and nothing else happens (R86). Elsewhere nothing happens. -/
def answersMapChange (s t : State) (sw : SlotSwitch) : Prop :=
  match t.node.state, s.engine.state with
  | .active, .gather _ => t.engine = s.engine ∧ t.plans = s.plans ∧ nothingInstalled s t sw
  | .active, .pass _ =>
    t.engine = { s.engine with state := .pass (takeSnapshot t) } ∧ t.plans = s.plans ∧ t.table = s.table ∧
      t.switch = sw ∧ t.counter 1 = saturate (s.counter 1) ∧ ∀ n, n ≠ 1 → t.counter n = s.counter n
  | .active, _ =>
    (∀ j, (∀ i, s.engine.state ≠ .build j i) → t.plan j = s.plan j) ∧
      (∀ j i, s.engine.state = .build j i → t.plan j = .stale) ∧
      (∀ k l o, fastPathNames s t k l o → planApplied s t l o) ∧
      ((∀ k l o, ¬fastPathNames s t k l o) →
        t.engine = { s.engine with state := .gather (t.now + 10 * t.settings.gatherDelay) } ∧ nothingInstalled s t sw)
  | .starting _, .build k _ =>
    t.engine = { s.engine with state := .idle } ∧ t.plan k = .stale ∧ (∀ j, j ≠ k → t.plan j = s.plan j) ∧
      nothingInstalled s t sw
  | _, _ => t.engine = s.engine ∧ t.plans = s.plans ∧ nothingInstalled s t sw

/-- A write of the Failure Map and the engine's answer to it, from the state `s` before to `t`: when W and X are as before, the
engine, its plans and what an install writes stay; when they differ, the engine answers the map change (R56, R85, R86). -/
def engineAnswers (s t : State) : Prop :=
  (t.map.sets = s.map.sets → t.engine = s.engine ∧ t.plans = s.plans ∧ t.switch = s.switch ∧
    t.table = s.table ∧ t.counters = s.counters) ∧
  (t.map.sets ≠ s.map.sets → answersMapChange s t s.switch)

/-- The pending reports stay, in order, and every span whose conditions, operator state or place in the ring differ from
before is reported (R58, R176). -/
def mapReported (s t : State) : Prop :=
  s.reports.subjects <+: t.reports.subjects ∧
    ∀ k, k < 32 →
      (t.span k).derived.map (fun d => (d.conditions, d.operator)) ≠
        (s.span k).derived.map (fun d => (d.conditions, d.operator)) → reported (.span k) t

/-- What a frame of a line port does to the map and the engine when it changes a view of the port: the spans are reported, and
the engine answers, from the state `u` that differs from the one before in counters of ports and management alone. -/
def viewsAnswered (s t : State) : Prop :=
  mapReported s t ∧
    ∃ u : State, u = { s with counters := u.counters } ∧ (∀ n, n < 4 → u.counter n = s.counter n) ∧ engineAnswers u t

/-! ### The connections of a circuit -/

/-- The direction and the first slot of the range that a circuit of a STARTING or an ACTIVE node uses (R130's table). -/
def usesRoute (active : Bool) (f : CircuitFields) (r : Restoration) (dir : Direction) (start : Nat) : Prop :=
  (dir = f.direction ∧ start = f.start ∧
    (active = false ∨ r = .normal ∨ (∃ x, r = .unrestored x) ∨ (r = .down ∧ f.cls = .unguarded))) ∨
  (active = true ∧ dir = f.direction.flip ∧ r = .restored start)

/-- At position `own`, the route that the record of circuit `e.1` uses gives output `o` the connection `x`: the add and the
drop at an end (R131), both ways through at an intermediate position (R132). -/
def connects (s : State) (own : Nat) (e : Nat × CircuitRecord) (o : Nat) (x : Connection) : Prop :=
  ∃ f att r k dir start i, e.2 = .inService f att r k ∧
    usesRoute (decide (s.node.state = .active)) f r dir start ∧ i < f.width ∧
    ((∃ a, att = some a ∧ (own = f.endA ∨ own = f.endB) ∧
        let side := endSide s.settings.orientation dir (decide (own = f.endA))
        ((o = lineOutput side (start + i) ∧
            x = { source := .tribIn a.port (a.start + i) e.1, circuit := some e.1 }) ∨
          (o = 128 + 16 * a.port + (a.start + i) ∧
            x = { source := .lineIn side (start + i), circuit := some e.1 }))) ∨
      (relation s.ringSize own f.endA f.endB dir = .intermediate ∧
        ((o = start + i ∧ x = { source := .lineIn .west (start + i), circuit := some e.1 }) ∨
          (o = 64 + (start + i) ∧ x = { source := .lineIn .east (start + i), circuit := some e.1 }))))

/-! ### Plans -/

/-- No plan below N is VALID (R113). -/
def noPlanValid (t : State) : Prop := ∀ k, k < t.ringSize → (t.plan k).isValid = false

end Sys2Proof.Machine
end

