-- ==== Sys2Proof/Certificates/Slice0/Obligations.lean ====
section
/-! DEFINITION. Obligations: the statements about the part, by chapter of the manual. -/

open Sys2Proof Sys2Proof.Machine

/-! ### The queue of commands and power reset -/

/-- A step is `exec` of the command at the front of the queue, on the state with the queue's rest; with no command waiting
the part idles (both the model's choice, log 3). -/
def Obligations.StepExecutesTheFrontCommand : Prop :=
  (∀ (c : Instr) (rest : List Instr) (s : State), s.pending = c :: rest → step s = exec c { s with pending := rest }) ∧
    ∀ s : State, s.pending = [] → step s = .next s

/-- Every command answers a next state in every state (the model's choice, log 1), and leaves the queue of commands that wait
as it was (that there is such a queue is the model's choice, log 3); a power reset leaves it too. -/
def Obligations.EveryCommandKeepsTheQueue : Prop :=
  ∀ (c : Instr) (s : State), ∃ t, exec c s = .next t ∧ t.pending = s.pending

/-- POWER_RESET leaves every block at its power-reset value, with the strap ID read from the pins, and the Notice Unit's first
choice between two held latches to come, which is East's (R24, R33, R44, R60, R62, R82, R110, R122, R142, R143, R152, R174,
R184). -/
def Obligations.PowerResetValues : Prop :=
  ∀ (strap : Byte) (s : State), ∃ t, exec (.powerReset strap) s = .next t ∧ t.pending = s.pending ∧
    t.node = { strap := strap, state := if strap = 0 ∨ strap = 255 then .unaddressed else .unplaced } ∧
    (∀ k, look 0 t.table.ring k = 0) ∧ t.ringSize = 0 ∧ t.position = none ∧
    t.settings =
      { holdOff := 0, returnDelay := 300, refresh := 100, staleness := 350, gatherDelay := 5, listen := 1000
        degradeSet := 100, degradeClear := 10, actOnDegrade := false, orientation := .normal, reportDestination := 0
        reportNode := true, reportPort := true, reportSpan := true, reportCircuit := true, maxReply := 256 } ∧
    (∀ c, t.circuit c = .absent) ∧ (∀ k, look .none t.table.occupancy k = .none) ∧
    t.table.generation = 0 ∧ t.table.digest = 0 ∧
    (∀ p (b : Fin 4), (t.band p b).alignment = .lost ∧ (t.band p b).run = 0 ∧
      (t.band p b).supervisor =
        { holdOff := none, holdOffExpired := true, firstAlignment := true, position := 0, errored := 0
          touched := false, rawDegrade := false, returnTimer := none, view := .failed }) ∧
    (∀ p, (t.port p).latch = .empty) ∧ (∀ u : Fin 4, (t.trib u).alignment = .lost ∧ (t.trib u).run = 0) ∧
    (∀ k, t.span k = .outside) ∧
    (∀ p, (t.map.copies.get p) = { views := Quad.all .failed, request := .none }) ∧
    (∀ q, t.record q = .never) ∧ (∀ p, t.notices.queues.get p = []) ∧ t.notices.sequence = 0 ∧
    t.notices.refresh = none ∧ t.notices.convergence = .divergent ∧ t.notices.firstChoice = true ∧
    t.engine = { state := .idle, grants := [], resultNumber := 0 } ∧ (∀ k, t.plan k = .absent) ∧
    (∀ i, i < 64 → t.connection i = { source := .lineIn .west i, circuit := none } ∧
      t.connection (64 + i) = { source := .lineIn .east i, circuit := none } ∧ t.connection (128 + i) = .fill) ∧
    t.switch.target = none ∧
    (∀ q, t.mgmt.assemblers.get q = .hunt ∧ t.mgmt.queues.get q = { frames := [], sent := 0 }) ∧
    t.mgmt.requests = [] ∧ t.mgmt.execution = .idle ∧ t.mgmt.cursor = { table := .status, index := 0 } ∧
    t.reports.subjects = [] ∧ t.reports.number = 0 ∧ (∀ n, look 0 t.reports.snapshot n = 0) ∧
    ∀ n, t.counter n = 0

/-- Right after a power reset, with any strap, every condition that the steps keep holds; so it does at reset, which reads
strap 1 (the model's choice, log 15). -/
def Obligations.PowerResetMeetsTheInvariants : Prop :=
  State.reset = State.powerOn 1 ∧ ∀ strap, let s := State.powerOn strap
    s.tablesWf = true ∧ s.queuesBounded = true ∧ s.listsUnique ∧ s.mapDerived ∧ s.digestFresh ∧ s.convergenceFresh ∧
      s.plansCurrent ∧ s.plansComputed ∧ s.buildCurrent ∧ s.settings.maxReply ≤ 1024 ∧ s.stateAllows ∧ s.passCurrent ∧
      s.endsHeld

/-! ### Invariants: what every step keeps -/

/-- Every step keeps every sparse table in its canonical form (log 22). -/
def Obligations.StepsKeepTablesCanonical : Prop :=
  ∀ s t, s.tablesWf = true → step s = .next t → t.tablesWf = true

/-- Every step keeps the bounds of the outgoing frame queues and of the request queue (R158, R159). -/
def Obligations.StepsKeepQueueBounds : Prop :=
  ∀ s t, s.queuesBounded = true → step s = .next t → t.queuesBounded = true

/-- Every step keeps each subject at most once in the pending list, and each outgoing notice queue at one notice per origin
position (R176, R71). -/
def Obligations.StepsKeepListsUnique : Prop :=
  ∀ s t, s.listsUnique → step s = .next t → t.listsUnique

/-- After every step the conditions, operator states, W and X held are those of the end records, the ring placement and the
act-on-degrade setting as they stand (R56, R59); and the end records hold what their owners say. In a placed node the own ends
hold the port copies, with the views of the ports' supervisors (R44, R45); the records of the own position and of positions
outside the ring are NEVER (R66, R73); and the two ends of every other position below N hold the views and requests of its
FRESH record, or are ABSENT with request NONE when it is NEVER or STALE (R47, R48, R50, R60). The premises are invariants stated
here and below. -/
def Obligations.StepsKeepTheMapDerived : Prop :=
  (∀ s t, s.mapDerived → step s = .next t → t.mapDerived) ∧
  ∀ s t, s.mapDerived → s.stateAllows → s.endsHeld → step s = .next t → t.endsHeld

/-- After every step the digest held is that of its inputs as they stand (R22, R23). -/
def Obligations.StepsKeepTheDigestFresh : Prop :=
  ∀ s t, s.digestFresh → step s = .next t → t.digestFresh

/-- After every step the convergence status held is the one R79's test gives. -/
def Obligations.StepsKeepConvergenceFresh : Prop :=
  ∀ s t, s.convergenceFresh → step s = .next t → t.convergenceFresh

/-- After every step each VALID plan lies below N and carries the current generation, and it holds the lists that a build of it
from the tables as they stand gives (R112, R113, R115, R116). A build in progress of the current generation computes on the
inputs it would take now. That is kept while the 32-bit generation has not come round to the build's own (R21): a step changes
it fewer than 256 times, since a chain has room for 253 items in 1,024 bytes of reply (R161, R166). The premises but that one
are invariants stated here and above. -/
def Obligations.StepsKeepPlansCurrent : Prop :=
  (∀ s t, s.plansCurrent → step s = .next t → t.plansCurrent) ∧
  ∀ s t, s.tablesWf = true → s.plansCurrent → s.buildCurrent → step s = .next t →
    (s.plansComputed → t.plansComputed) ∧
    (s.settings.maxReply ≤ 1024 → t.settings.maxReply ≤ 1024 ∧
      ((∀ k i g, s.engine.state = .build k i → s.plan k = .building g →
        (s.table.generation - g).toNat + 256 < 4294967296) → t.buildCurrent))

/-- After every step the node is placed exactly in STARTING and ACTIVE, outside them engine and refresh timer are idle, and
gathers and passes occur in ACTIVE only (R73, R76, R86, R145). -/
def Obligations.StepsKeepEngineWithinNodeState : Prop :=
  ∀ s t, s.stateAllows → step s = .next t → t.stateAllows

/-- After every step a pass in progress computes on W, X, N, circuits, occupancy and grants as they stand: a change taken in
PASS has started it afresh or ended it (R90 to R92, R94). The premises are invariants stated above. -/
def Obligations.StepsKeepPassesOnCurrentInputs : Prop :=
  ∀ s t, s.tablesWf = true → s.mapDerived → s.stateAllows → s.passCurrent → step s = .next t → t.passCurrent

/-! ### Whole-machine rules -/

/-- Only POWER_RESET changes the strap ID (R143). UNADDRESSED has no exit but a power reset, and in it no directive reaches the
ring map, the settings or the cursor (R144). -/
def Obligations.UnaddressedHasNoExit : Prop :=
  (∀ (c : Instr) (s t : State), (∀ strap, c ≠ .powerReset strap) → exec c s = .next t →
    t.node.strap = s.node.strap) ∧
  ∀ (c : Instr) (s t : State), (∀ strap, c ≠ .powerReset strap) → s.node.state = .unaddressed →
    s.mgmt.execution = .idle → exec c s = .next t →
    t.node = s.node ∧ t.table.ring = s.table.ring ∧ t.settings = s.settings ∧ t.mgmt.execution = .idle ∧
      t.mgmt.cursor = s.mgmt.cursor

/-- A command other than POWER_RESET that changes the ring map or the orientation leaves no circuit in service: they do not
change while one is (R2, R5). -/
def Obligations.RingAndOrientationStayWhileInService : Prop :=
  ∀ (c : Instr) (s t : State), (∀ strap, c ≠ .powerReset strap) → exec c s = .next t →
    t.anyInService = true → t.table.ring = s.table.ring ∧ t.settings.orientation = s.settings.orientation


/-! ### Band receivers and supervisors -/

/-- A frame moves a band's receiver by R25's table; the slots it delivers, the alignment losses and the errored frames follow
(R25 to R27); every other band, and everything a line port does not reach, stays. Within a degrade interval a view that the
frame moves is handed on to the reports, the map, the notices and the engine (R40, R46, R56, R58, R75, R85).
The model's choice in it: log 5. -/
def Obligations.BandFrameMovesTheReceiver : Prop :=
  ∀ (p : Side) (b : Fin 4) (f : BandFrame) (s : State), ∃ t, exec (.bandFrame p b f) s = .next t ∧
    ((t.band p b).alignment, (t.band p b).run) =
      (match (s.band p b).alignment, f.alignmentWord with
        | .lost, true => if (s.band p b).run + 1 < 2 then (.lost, (s.band p b).run + 1) else (.aligned, 0)
        | .lost, false => (.lost, 0)
        | .aligned, true => (.aligned, 0)
        | .aligned, false => if (s.band p b).run + 1 < 3 then (.aligned, (s.band p b).run + 1) else (.lost, 0)) ∧
    ((t.band p b).alignment = .aligned → (t.band p b).slots =
      f.slots.map (fun r => { content := r.content, tag := if r.tag.toNat < 1024 then some r.tag.toNat else none })) ∧
    ((t.band p b).alignment = .lost → (t.band p b).slots = []) ∧
    t.counter (ctrLosses p b) =
      (if (s.band p b).alignment = .aligned ∧ (t.band p b).alignment = .lost then saturate (s.counter (ctrLosses p b))
      else s.counter (ctrLosses p b)) ∧
    t.counter (ctrErrored p b) =
      (if (t.band p b).alignment = .aligned ∧ ¬(f.alignmentWord = true ∧ f.payloadGood = true) then
        saturate (s.counter (ctrErrored p b))
      else s.counter (ctrErrored p b)) ∧
    (∀ q (c : Fin 4), ¬(q = p ∧ c = b) → t.band q c = s.band q c ∧
      t.counter (ctrLosses q c) = s.counter (ctrLosses q c) ∧
      t.counter (ctrErrored q c) = s.counter (ctrErrored q c)) ∧
    ((s.band p b).supervisor.position < 9999 →
      (t.band p b).supervisor.position = (s.band p b).supervisor.position + 1 ∧
      (t.band p b).supervisor.touched =
        ((s.band p b).supervisor.touched || decide ((t.band p b).alignment = .lost)) ∧
      (t.band p b).supervisor.errored = (s.band p b).supervisor.errored +
        (if (t.band p b).alignment = .aligned ∧ ¬(f.alignmentWord = true ∧ f.payloadGood = true) then 1 else 0) ∧
      viewHandedOn p b s t ∧ viewsAnswered s t) ∧
    keepsBesidePort p s t ∧ t.now = s.now

/-- A frame taken on a band that is ALIGNED and stays so, inside its degrade interval, whether errored or not (R26): without
a good word the run count moves on, and an errored frame is counted, in the interval too. When a lower band is ALIGNED it
delivers its slots and nothing else. On the overhead source band its notice field is checked as well, what R29 latches
replaces what the latch held and is counted by its class, and its management field goes byte by byte into the port's frame
assembler (R25 to R31).
The model's choice in it: log 6. -/
def Obligations.GoodFrameDeliversSlotsAndNotice : Prop :=
  ∀ (p : Side) (b : Fin 4) (f : BandFrame) (s : State),
    (s.band p b).alignment = .aligned → f.alignmentWord = true ∨ (s.band p b).run < 2 →
    (s.band p b).supervisor.position < 9999 →
    let errored : Bool := !(f.alignmentWord && f.payloadGood)
    let delivered := s.setBand p b
      { alignment := .aligned, run := if f.alignmentWord = true then 0 else (s.band p b).run + 1
        slots := f.slots.map RawSlot.delivered
        supervisor := { (s.band p b).supervisor with
          position := (s.band p b).supervisor.position + 1
          errored := (s.band p b).supervisor.errored + errored.toNat } }
    let quiet := if errored = true then bump (ctrErrored p b) delivered else delivered
    let latched (cls : NoticeClass) (g : NoticeField) : State :=
      bump (ctrNotice p cls) (quiet.setPort p { quiet.port p with latch := .held cls g })
    ((∃ c : Fin 4, c < b ∧ (s.band p c).alignment = .aligned) → exec (.bandFrame p b f) s = .next quiet) ∧
    ((∀ c : Fin 4, c < b → (s.band p c).alignment = .lost) → (s.port p).streaming = true →
      let read : State := match checkField f.notice with
        | (.uncorrectable, g) => latched .uncorrectable g
        | (.clean, g) =>
          if fieldByte g 0 = 0 then quiet else latched (if fieldByte g 0 = 1 then .clean else .unknownKind) g
        | (.corrected, g) =>
          if fieldByte g 0 = 0 then quiet else latched (if fieldByte g 0 = 1 then .corrected else .unknownKind) g
      exec (.bandFrame p b f) s = .next (assembleField (.line p) f.management read) ∧
        (s.mgmt.assemblers.get (.line p) = .hunt → f.management = List.replicate 32 0 →
          exec (.bandFrame p b f) s = .next read))

/-- The third consecutive missing word takes an ALIGNED band into LOST: the loss is counted, the slots are gone, and by the
hold-off setting either the view becomes FAILED at once or the hold-off timer starts and the view stays (R25, R34). A view that
becomes FAILED is handed on: a PORT report, the port copy, the own end and one notice (R40, R44 to R46, R74, R75); and a view
that moves W or X is answered by the engine, with each span it changes reported (R46, R56, R58, R85, R86, R88, R92).
The model's choice in it: logs 2 and 5. -/
def Obligations.EntryIntoLostStartsHoldOff : Prop :=
  ∀ (p : Side) (b : Fin 4) (s : State), (s.band p b).alignment = .aligned → (s.band p b).run = 2 →
    (s.band p b).supervisor.position < 9999 →
    ∃ t, exec (.bandEntryIntoLost p b) s = .next t ∧
      (t.band p b).alignment = .lost ∧ (t.band p b).run = 0 ∧ (t.band p b).slots = [] ∧
      t.counter (ctrLosses p b) = saturate (s.counter (ctrLosses p b)) ∧
      (s.settings.holdOff = 0 → (t.band p b).supervisor.view = .failed ∧
        (t.band p b).supervisor.holdOffExpired = true ∧ (t.band p b).supervisor.returnTimer = none) ∧
      (s.settings.holdOff ≠ 0 → (t.band p b).supervisor =
        { (s.band p b).supervisor with
          holdOff := some (s.now + 10 * s.settings.holdOff)
          position := (s.band p b).supervisor.position + 1
          touched := true }) ∧
      (∀ q (c : Fin 4), ¬(q = p ∧ c = b) → t.band q c = s.band q c) ∧ keepsBesidePort p s t ∧ t.now = s.now ∧
      viewsAnswered s t ∧ viewHandedOn p b s t

/-- The second consecutive good word takes a LOST band into ALIGNED: hold-off is cancelled and its flag cleared, the
first-alignment flag is cleared once it has been used, and the view follows raw degrade, the return timer and the return
delay (R25, R34, R38, R39). A view that moves is handed on: a PORT report, the port copy, the own end and one notice (R40, R44
to R46, R74, R75); and a view that moves W or X is answered by the engine, with each span it changes reported (R46, R56, R58,
R85, R86, R88, R92).
The model's choice in it: logs 2 and 5. -/
def Obligations.EntryIntoAlignedDerivesTheView : Prop :=
  ∀ (p : Side) (b : Fin 4) (f : BandFrame) (s : State), (s.band p b).alignment = .lost → (s.band p b).run = 1 →
    f.alignmentWord = true → (s.band p b).supervisor.position < 9999 →
    let v := (s.band p b).supervisor
    let starts := (v.view = .failed ∨ v.view = .degraded) ∧ v.firstAlignment = false ∧ s.settings.returnDelay ≠ 0
    ∃ t, exec (.bandEntryIntoAligned p b f) s = .next t ∧
      (t.band p b).alignment = .aligned ∧ (t.band p b).run = 0 ∧
      (t.band p b).slots = f.slots.map RawSlot.delivered ∧
      (let w := (t.band p b).supervisor;
        w.holdOff = none ∧ w.holdOffExpired = false ∧ w.firstAlignment = false ∧ w.rawDegrade = v.rawDegrade ∧
        (v.rawDegrade = true → w.view = .degraded ∧ w.returnTimer = none) ∧
        (v.rawDegrade = false → starts →
          w.view = .returnWait ∧ w.returnTimer = some (s.now + 10000 * s.settings.returnDelay)) ∧
        (v.rawDegrade = false → ¬starts → w.returnTimer = v.returnTimer ∧
          w.view = if v.returnTimer = none then .clear else .returnWait)) ∧
      (∀ q (c : Fin 4), ¬(q = p ∧ c = b) → t.band q c = s.band q c) ∧ keepsBesidePort p s t ∧ t.now = s.now ∧
      viewsAnswered s t ∧ viewHandedOn p b s t

/-- The frame at position 9,999 ends a degrade interval: raw degrade follows R37's table from the errored count and the
touched flag with this frame in them, a new interval starts, and on a band that is ALIGNED and stays so a changed raw degrade
moves the view (R36, R37). Each span that changes is reported (R58). But for a band that enters ALIGNED with this frame and
whose raw degrade changes too, so that its view may move twice, a view that moves is handed on (a PORT report, the port copy,
the own end and one notice: R40, R44 to R46, R74, R75), and one that moves W or X is answered by the engine (R46, R56, R85, R86,
R88, R92).
The model's choice in it: logs 2, 5 and 30 (the view moves with the alignment first, and again at the interval's end). -/
def Obligations.DegradeIntervalEndSetsRawDegrade : Prop :=
  ∀ (p : Side) (b : Fin 4) (f : BandFrame) (s : State), (s.band p b).supervisor.position = 9999 →
    let v := (s.band p b).supervisor
    ∃ t, exec (.degradeIntervalEnd p b f) s = .next t ∧
      (let w := (t.band p b).supervisor;
        let errored := v.errored +
          if (t.band p b).alignment = .aligned ∧ ¬(f.alignmentWord = true ∧ f.payloadGood = true) then 1 else 0;
        w.position = 0 ∧ w.errored = 0 ∧ w.touched = false ∧
        w.rawDegrade =
          (if s.settings.degradeSet = 0 then false
          else if v.touched = true ∨ (t.band p b).alignment = .lost then v.rawDegrade
          else if s.settings.degradeSet ≤ errored then true
          else if errored < s.settings.degradeClear then false
          else v.rawDegrade) ∧
        ((s.band p b).alignment = .aligned → (t.band p b).alignment = .aligned →
          (w.rawDegrade = v.rawDegrade → w.view = v.view ∧ w.returnTimer = v.returnTimer) ∧
          (w.rawDegrade = true → v.rawDegrade = false →
            w.view = .degraded ∧ w.returnTimer = none) ∧
          (w.rawDegrade = false → v.rawDegrade = true → v.view = .degraded → v.firstAlignment = false →
            s.settings.returnDelay ≠ 0 →
            w.view = .returnWait ∧ w.returnTimer = some (s.now + 10000 * s.settings.returnDelay)))) ∧
      mapReported s t ∧
      ((s.band p b).alignment = .aligned ∨ (t.band p b).alignment = .lost ∨
          (t.band p b).supervisor.rawDegrade = v.rawDegrade → viewsAnswered s t ∧ viewHandedOn p b s t) ∧
      (∀ q (c : Fin 4), ¬(q = p ∧ c = b) → t.band q c = s.band q c) ∧ keepsBesidePort p s t ∧ t.now = s.now

/-- A hold-off expiry makes the view of a LOST band FAILED. A changed view is handed on: a PORT report, the port copy, and
in a placed node its own end of the span the port faces and one notice with the new views (R35, R40, R44 to R46, R74, R75).
Each span it changes is reported, and when W or X differ from before the engine answers the map change by its state (R56,
R58, R85, R86, R88, R92, R119, R120).
The model's choice in it: log 2. -/
def Obligations.HoldOffExpiryMakesTheViewFailed : Prop :=
  ∀ (p : Side) (b : Fin 4) (s : State) (e : Nat), (s.band p b).supervisor.holdOff = some e →
    (s.band p b).alignment = .lost →
    ∃ t, exec (.holdOffExpiry p b) s = .next t ∧ t.now = max s.now e ∧
      t.band p b = { s.band p b with supervisor := { (s.band p b).supervisor with
        holdOff := none, holdOffExpired := true, view := .failed, returnTimer := none } } ∧
      (∀ q (c : Fin 4), ¬(q = p ∧ c = b) → t.band q c = s.band q c) ∧ keepsBesidePort p s t ∧
      mapReported s t ∧ engineAnswers s t ∧
      ((s.band p b).supervisor.view = .failed → t = (s.reach e).setBand p b (t.band p b)) ∧
      viewHandedOn p b s t

/-- A return timer's expiry makes a RETURN_WAIT view CLEAR, and the new view is handed on as any other: a PORT report, the port
copy, and in a placed node its own end of the span the port faces and one notice with the new views (R39, R40, R44 to R46, R74,
R75). Each span it changes is reported, and when W or X differ from before the engine answers the map change by its state (R56,
R58, R85, R86, R88, R92, R119, R120).
The model's choice in it: log 2. -/
def Obligations.ReturnTimerExpiryClearsTheView : Prop :=
  ∀ (p : Side) (b : Fin 4) (s : State) (e : Nat), (s.band p b).supervisor.returnTimer = some e →
    (s.band p b).supervisor.view = .returnWait → (s.band p b).supervisor.rawDegrade = false →
    ((s.band p b).alignment = .aligned ∨ (s.band p b).supervisor.holdOffExpired = false) →
    ∃ t, exec (.returnTimerExpiry p b) s = .next t ∧ t.now = max s.now e ∧
      t.band p b = { s.band p b with supervisor :=
        { (s.band p b).supervisor with returnTimer := none, view := .clear } } ∧
      (∀ q (c : Fin 4), ¬(q = p ∧ c = b) → t.band q c = s.band q c) ∧ keepsBesidePort p s t ∧
      mapReported s t ∧ engineAnswers s t ∧ viewHandedOn p b s t

/-- A line port's transmitters send in every band the slots its outputs carry, the head of its outgoing notice queue, and the
next 32 bytes of its outgoing frames; the head notice leaves, the frames go on from the byte after, and a frame leaves its
queue with its last byte (R32, R72, R125, R158).
The model's choice in it: log 24. -/
def Obligations.BandTransmittersSendTheOutputs : Prop :=
  ∀ (p : Side) (s : State), ∃ t fr, exec (.bandFrameTransmit p) s = .next t ∧ (t.port p).sent = some fr ∧
    (∀ (b : Fin 4), (fr.get b).alignmentWord = true ∧ (fr.get b).payloadGood = true ∧
      (∀ i, i < 16 → ∃ raw, (fr.get b).slots[i]? = some raw ∧
        match (s.connection (lineOutput p (16 * b + i))).source with
        | .fillIdle => raw = { content := .fillIdle, tag := 0xFFFF }
        | .lineIn q u =>
          if (s.band q (u / 16)).alignment = .aligned then raw = ((s.band q (u / 16)).slots.getD (u % 16) .idle).raw
          else raw = { content := .fillIdle, tag := 0xFFFF }
        | .tribIn q u c =>
          if (s.trib q).alignment = .aligned then
            raw = { content := ((s.trib q).slots.getD u .idle).content, tag := BitVec.ofNat 16 c }
          else raw = { content := .fillIdle, tag := 0xFFFF }) ∧
      (fr.get b).slots.length = 16 ∧
      (fr.get b).notice = (match s.notices.queues.get p with
        | [] => 0
        | v :: _ => fieldOf v.notice) ∧
      (fr.get b).management = ((s.mgmt.queues.get (.line p)).stream ++ List.replicate 32 0).take 32) ∧
    (t.mgmt.queues.get (.line p)).stream = (s.mgmt.queues.get (.line p)).stream.drop 32 ∧
    (t.mgmt.queues.get (.line p)).frames <:+ (s.mgmt.queues.get (.line p)).frames ∧
    (∀ g rest, (t.mgmt.queues.get (.line p)).frames = g :: rest → (t.mgmt.queues.get (.line p)).sent < g.bytes.length) ∧
    t = { s with
      ports := s.ports.set p { s.port p with sent := some fr }
      notices := { s.notices with queues := s.notices.queues.set p (s.notices.queues.get p).tail }
      mgmt := { s.mgmt with queues := s.mgmt.queues.set (.line p) (t.mgmt.queues.get (.line p)) } }

/-! ### Formats -/

/-- A notice that is sent is read back whole: its field is CLEAN, of kind STATUS, with the reserved bits of byte 5 and the five
reserved bytes 0, and every field of the notice stands in it (R61, R72, R185; 12_formats.md, "The notice field"). -/
def Obligations.NoticeFieldRoundTrip : Prop :=
  ∀ v : Notice, v.position < 256 → 1 ≤ v.hops → v.hops ≤ 31 →
    checkField (fieldOf v) = (.clean, fieldOf v) ∧ fieldByte (fieldOf v) 0 = 1 ∧
      (fieldByte (fieldOf v) 5).toNat < 32 ∧ (∀ i, 10 ≤ i → i ≤ 14 → fieldByte (fieldOf v) i = 0) ∧ noticeOf (fieldOf v) = v

/-- The check code corrects any one wrong bit of a field that satisfies it, and finds any two wrong bits UNCORRECTABLE
(R185). -/
def Obligations.CheckCodeCorrectsOneDetectsTwo : Prop :=
  ∀ g : NoticeField, (checkField g).1 = .clean → ∀ i, i < 128 →
    checkField (flipBit g i) = (.corrected, g) ∧
      ∀ j, j < 128 → j ≠ i → (checkField (flipBit (flipBit g i) j)).1 = .uncorrectable

/-! ### Tributary ports -/

/-- A frame moves a tributary receiver by the same run counts (R126), whether it comes as TRIBUTARY_FRAME or as the frame
with which the run count reaches its limit; a port other than 0 changes in nothing else. At port 0 the management bytes of
every frame that leaves the port ALIGNED, with a good word or without, go into the frame assembler, and a change of
alignment state, by either command, first discards a frame in progress as bad (R126, R154).
The model's choice in it: log 5. -/
def Obligations.TributaryFrameMovesTheReceiver : Prop :=
  ∀ (u : Fin 4) (f : TributaryFrame) (s : State),
    let broken (v : State) : State :=
      if u ≠ 0 ∨ v.mgmt.assemblers.tributary = .hunt then v
      else bump 35 { v with mgmt := { v.mgmt with assemblers := { v.mgmt.assemblers with tributary := .hunt } } }
    let taken (v : State) : State := if u = 0 then assembleField .tributary f.management v else v
    let moved (a : Machine.Alignment) (run : Nat) : State := s.setTrib u { s.trib u with
      alignment := a, run := run, slots := if a = .aligned then f.slots.map RawSlot.delivered else [] }
    (∃ t, exec (.tributaryFrame u f) s = .next t ∧
      ((t.trib u).alignment, (t.trib u).run) =
        (match (s.trib u).alignment, f.alignmentWord with
          | .lost, true => if (s.trib u).run + 1 < 2 then (.lost, (s.trib u).run + 1) else (.aligned, 0)
          | .lost, false => (.lost, 0)
          | .aligned, true => (.aligned, 0)
          | .aligned, false => if (s.trib u).run + 1 < 3 then (.aligned, (s.trib u).run + 1) else (.lost, 0)) ∧
      (t.trib u).slots =
        (if (t.trib u).alignment = .aligned then f.slots.map RawSlot.delivered else []) ∧
      (u ≠ 0 → t = s.setTrib u (t.trib u)) ∧
      ∀ w : Fin 4, w ≠ u → t.trib w = s.trib w) ∧
    ((s.trib u).alignment = .aligned → f.alignmentWord = true ∨ (s.trib u).run < 2 →
      exec (.tributaryFrame u f) s =
        .next (taken (moved .aligned (if f.alignmentWord = true then 0 else (s.trib u).run + 1)))) ∧
    ((s.trib u).alignment = .lost → f.alignmentWord = false ∨ (s.trib u).run = 0 →
      exec (.tributaryFrame u f) s = .next (moved .lost (if f.alignmentWord = true then 1 else 0))) ∧
    ∀ c, c = .tributaryFrame u f ∨ c = .tributaryAlignmentChange u f →
      ((s.trib u).alignment = .lost → 1 ≤ (s.trib u).run → f.alignmentWord = true →
        exec c s = .next (taken (broken (moved .aligned 0)))) ∧
      ((s.trib u).alignment = .aligned → 2 ≤ (s.trib u).run → f.alignmentWord = false →
        exec c s = .next (broken (moved .lost 0)))

/-- A tributary transmitter sends in each slot what the output carries, or FILL_SQUELCH without a tag while the range of a
circuit in MISMATCH is squelched; at port 0 the management frames go on by 32 bytes, and a frame leaves its queue with its
last byte (R125, R127, R137, R158).
The model's choice in it: log 24. -/
def Obligations.TributaryTransmitterSendsOrSquelches : Prop :=
  ∀ (u : Fin 4) (s : State), ∃ t fr, exec (.tributaryFrameTransmit u) s = .next t ∧ (t.trib u).sent = some fr ∧
    fr.alignmentWord = true ∧ fr.slots.length = 16 ∧
    (∀ i, i < 16 →
      (∀ c f a r k, (c, CircuitRecord.inService f (some a) r (some k)) ∈ s.table.circuits → k.squelched = true →
        a.port = u → a.start ≤ i → i < a.start + f.width →
        fr.slots[i]? = some { content := .fillSquelch, tag := 0xFFFF }) ∧
      ((∀ c f a r k, (c, CircuitRecord.inService f (some a) r (some k)) ∈ s.table.circuits → k.squelched = true →
          a.port = u → ¬(a.start ≤ i ∧ i < a.start + f.width)) →
        ∃ raw, fr.slots[i]? = some raw ∧
          match (s.connection (128 + 16 * u + i)).source with
          | .fillIdle => raw = { content := .fillIdle, tag := 0xFFFF }
          | .lineIn q v =>
            if (s.band q (v / 16)).alignment = .aligned then raw = ((s.band q (v / 16)).slots.getD (v % 16) .idle).raw
            else raw = { content := .fillIdle, tag := 0xFFFF }
          | .tribIn q v c =>
            if (s.trib q).alignment = .aligned then
              raw = { content := ((s.trib q).slots.getD v .idle).content, tag := BitVec.ofNat 16 c }
            else raw = { content := .fillIdle, tag := 0xFFFF })) ∧
    (u ≠ 0 → fr.management = List.replicate 32 0 ∧ t = s.setTrib u { s.trib u with sent := some fr }) ∧
    (u = 0 → fr.management = (s.mgmt.queues.tributary.stream ++ List.replicate 32 0).take 32 ∧
      t.mgmt.queues.tributary.stream = s.mgmt.queues.tributary.stream.drop 32 ∧
      t.mgmt.queues.tributary.frames <:+ s.mgmt.queues.tributary.frames ∧
      (∀ g rest, t.mgmt.queues.tributary.frames = g :: rest → t.mgmt.queues.tributary.sent < g.bytes.length) ∧
      t = { s.setTrib 0 { s.trib 0 with sent := some fr } with
        mgmt := { s.mgmt with queues := { s.mgmt.queues with tributary := t.mgmt.queues.tributary } } })

/-! ### The Slot Switch -/

/-- A frame boundary makes a pending target the Connection Map, whole, and counts the swing (R134). Each tag check that has
begun takes the frame period's tag by R136's table, with a report at a change of state; a swing that moves the drop's source
returns its run count to 0 (R138) and begins the checks (R139); in the next frame period exactly the circuits in MISMATCH are
squelched (R137). The pending list gains the circuits whose state changed, with CIRCUIT reports on, that were not in it (R176).
Nothing else changes.
The model's choice in it: logs 2 and 7. -/
def Obligations.FrameBoundarySwingsAndChecksTags : Prop :=
  ∀ s : State, ∃ t, exec .switchFrameBoundary s = .next t ∧ t.now = s.now + 1 ∧ t.switch.target = none ∧
    t.switch.connections = s.switch.target.getD s.switch.connections ∧
    t.counter 3 = (if s.switch.target = none then s.counter 3 else saturate (s.counter 3)) ∧
    (∀ c f a r k, s.circuit c = .inService f (some a) r (some k) →
      let drop := 128 + 16 * a.port + a.start
      let isMatch := (supplied s (s.connection drop).source).tag = some c
      let moved := s.switch.target ≠ none ∧ sameSource (s.connection drop).source (t.connection drop).source = false
      ∃ k', t.circuit c = .inService f (some a) r (some k') ∧ k'.begun = (k.begun || s.switch.target.isSome) ∧
        k'.counted = false ∧ (k'.squelched = true ↔ k'.state = .mismatch) ∧
        (k.begun = false ∨ k.counted = true →
          k'.state = k.state ∧ (moved → k'.run = 0) ∧ (¬moved → k'.run = k.run)) ∧
        (k.begun = true → k.counted = false →
          ((k.state = .match_ ↔ isMatch) → k'.state = k.state ∧ k'.run = 0) ∧
          (¬(k.state = .match_ ↔ isMatch) → k.run < 2 →
            k'.state = k.state ∧ (moved → k'.run = 0) ∧ (¬moved → k'.run = k.run + 1)) ∧
          (¬(k.state = .match_ ↔ isMatch) → k.run = 2 →
            k'.state ≠ k.state ∧ k'.run = 0 ∧ reported (.circuit c) t))) ∧
    (∀ c, (∀ f a r k, s.circuit c ≠ .inService f (some a) r (some k)) → t.circuit c = s.circuit c) ∧
    (∀ n, n ≠ 3 → t.counter n = s.counter n) ∧
    (∃ new, t.reports.subjects = s.reports.subjects ++ new ∧ new.Nodup ∧ ∀ x, x ∈ new ↔
      s.settings.reportCircuit = true ∧ x ∉ s.reports.subjects ∧ ∃ c f a r k k', x = .circuit c ∧
        s.circuit c = .inService f (some a) r (some k) ∧ t.circuit c = .inService f (some a) r (some k') ∧
        k'.state ≠ k.state) ∧
    t = { s with
      now := s.now + 1, switch := t.switch, table := { s.table with circuits := t.table.circuits }
      reports := { s.reports with subjects := t.reports.subjects }, counters := t.counters }

/-- The third consecutive frame of a check against its state changes the state, with a CIRCUIT report (R136; taken by itself
by log 7). -/
def Obligations.ThirdFrameChangesTheTagCheck : Prop :=
  ∀ (c : Fin 1024) (s : State) (f : CircuitFields) (a : Attachment) (r : Restoration) (k : TagCheck),
    s.circuit c = .inService f (some a) r (some k) → k.begun = true → k.counted = false → k.run = 2 →
    let tag := (supplied s (s.connection (128 + 16 * a.port + a.start)).source).tag
    let with_ (m : MatchState) : State := s.setCircuit c
      (.inService f (some a) r (some { k with state := m, run := 0, counted := true }))
    let raised (t : State) : State :=
      if s.settings.reportCircuit = true ∧ Subject.circuit c ∉ s.reports.subjects then
        { t with reports := { t.reports with subjects := t.reports.subjects ++ [.circuit c] } }
      else t
    (k.state = .match_ → tag ≠ some c.val → exec (.tagCheckStateChange c) s = .next (raised (with_ .mismatch))) ∧
      (k.state = .mismatch → tag = some c.val → exec (.tagCheckStateChange c) s = .next (raised (with_ .match_)))

/-- The target of a STARTING or ACTIVE node, over all its circuits: an output that the route in use of one circuit alone names
(R130's table: working, restoration, or none while PREEMPTED or DOWN-EXTRA) has that circuit's connection, the add with the
circuit's tag and the drop at an end, both ways through at an intermediate position; an output no circuit names is FILL_IDLE
(R130 to R132). In any other node state the target is the transparent one (R129). -/
def Obligations.TargetConnectsEndsAndPassesThrough : Prop :=
  ∀ s : State,
    (∀ own, s.node.state.runs = true → s.position = some own →
      (∀ o, (∀ e ∈ s.table.circuits, ∀ x, ¬connects s own e o x) → look .fill (targetOf s) o = .fill) ∧
      ((∀ c f a r k dir start, (c, CircuitRecord.inService f a r k) ∈ s.table.circuits →
          usesRoute (decide (s.node.state = .active)) f r dir start → start + f.width ≤ 64) →
        ∀ e ∈ s.table.circuits, ∀ o x, connects s own e o x →
          (∀ d ∈ s.table.circuits, d ≠ e → ∀ y, ¬connects s own d o y) → look .fill (targetOf s) o = x)) ∧
    (s.node.state.runs = false ∨ s.position = none → ∀ i, i < 64 →
      look .fill (targetOf s) i = { source := .lineIn .west i, circuit := none } ∧
      look .fill (targetOf s) (64 + i) = { source := .lineIn .east i, circuit := none } ∧
      look .fill (targetOf s) (128 + i) = .fill)

/-! ### The Notice Unit -/

/-- A notice is taken from the one latch that holds one; of two, first from East and then from the port not taken from last
(R62; that a taking from a single held latch does not use up the first choice between two is the model's reading, log 9). An
uncorrectable one, one of unknown kind and one of own origin are dropped: nothing but the latch and the marks of the taking
changes (R63, R64). -/
def Obligations.DroppedNoticesChangeNothing : Prop :=
  ∀ (s : State) (p : Side) (cls : NoticeClass) (f : NoticeField), (s.port p).latch = .held cls f →
    ((s.port p.other).latch = .empty ∨ p = if s.notices.firstChoice = true then .east else s.notices.lastTaken.other) →
    (cls = .uncorrectable ∨ cls = .unknownKind ∨ s.ownId = some (noticeOf f).id) →
    exec .noticeTaken s = .next
      { s with
        ports := s.ports.set p { s.port p with latch := .empty }
        notices := { s.notices with
          lastTaken := p
          firstChoice := s.notices.firstChoice && decide ((s.port p.other).latch = .empty) } }

/-- A notice taken while the node is UNADDRESSED or UNPLACED, one that is foreign, and one whose sequence lies outside the
window of a FRESH record change no record and no part of the map. It is forwarded out of the other port with one hop less
when its hops exceed 1: appended, or put in the place of the entry of its origin position when that entry is not an own
notice and is another ID's or older. A foreign one is counted and reported (R63, R65, R67, R70, R71). It is taken from the
one latch that holds a notice, or of two from the one R62 chooses. The model's reading in
it: the queue is keyed by the position carried, 32 to 255 too, so that a foreign notice of such a position may be appended
to 32 entries (log 10), and the taking leaves the first choice open (log 9). -/
def Obligations.UnappliedNoticesAreForwarded : Prop :=
  ∀ (s : State) (p : Side) (cls : NoticeClass) (f : NoticeField), (s.port p).latch = .held cls f →
    ((s.port p.other).latch = .empty ∨ p = if s.notices.firstChoice = true then .east else s.notices.lastTaken.other) →
    cls = .clean ∨ cls = .corrected → s.listsUnique →
    let v := noticeOf f
    let runs := s.node.state.runs
    let isForeign := s.ringSize ≤ v.position ∨ look 0 s.table.ring v.position ≠ v.id
    let q := s.notices.queues.get p.other
    let w : QueuedNotice := { notice := { v with hops := v.hops - 1 }, own := false }
    s.ownId ≠ some v.id →
    (runs = false ∨ isForeign ∨ ∃ c e, s.record v.position = .fresh c e ∧ (v.sequence = c.sequence ∨
      128 ≤ (v.sequence - c.sequence).toNat)) →
    ∃ t, exec .noticeTaken s = .next t ∧
      (t.port p).latch = .empty ∧ t.notices.queues.get p = s.notices.queues.get p ∧
      (v.hops = 1 → t.notices.queues.get p.other = q) ∧
      (1 < v.hops → t.notices.queues.get p.other =
        if v.position ∈ q.map (fun e => e.notice.position) then
          q.map (fun e => if e.notice.position = v.position ∧ e.own = false ∧
            (e.notice.id ≠ v.id ∨ (1 ≤ (v.sequence - e.notice.sequence).toNat ∧
              (v.sequence - e.notice.sequence).toNat ≤ 127)) then w else e)
        else q ++ [w]) ∧
      (runs = true → isForeign → t.counter (ctrForeign p) = saturate (s.counter (ctrForeign p)) ∧ reported (.port p) t) ∧
      (∀ n, n ≠ ctrForeign p → t.counter n = s.counter n) ∧
      (t.reports = s.reports ∨ t.reports = { s.reports with subjects := s.reports.subjects ++ [.port p] }) ∧
      (runs = false ∨ ¬isForeign → t.counters = s.counters ∧ t.reports = s.reports) ∧
      t = { s with
        ports := s.ports.set p { s.port p with latch := .empty }, counters := t.counters, reports := t.reports
        notices := { s.notices with
          queues := t.notices.queues, lastTaken := p
          firstChoice := s.notices.firstChoice && decide ((s.port p.other).latch = .empty) } }

/-- A notice that its record accepts is applied: the record holds it FRESH with its staleness timer restarted, the two ends
of its position take its views and requests and no other end changes, and convergence is evaluated; other records stay (R47,
R67, R68). It is taken from the one latch that holds a notice, or of two from the one R62 chooses. With hops above 1 it is
forwarded out of the other port as well, placed there by its origin position (R63, R70, R71). Each span that changes and a
changed convergence status are reported (R58, R79, R81). When W or X differ from before, the engine answers the map change
by its state (R56, R85, R86, R88, R92, R119, R120).
The model's choice in it: logs 2, 8 (the fast-path test reads the convergence status after the evaluation), 9 (the taking
leaves the first choice open) and 10 (the queue is keyed by the position carried). -/
def Obligations.AcceptedNoticesAreApplied : Prop :=
  ∀ (s : State) (p : Side) (cls : NoticeClass) (f : NoticeField) (own : Nat), (s.port p).latch = .held cls f →
    ((s.port p.other).latch = .empty ∨ p = if s.notices.firstChoice = true then .east else s.notices.lastTaken.other) →
    cls = .clean ∨ cls = .corrected → s.node.state.runs = true →
    s.position = some own →
    let v := noticeOf f
    let q := s.notices.queues.get p.other
    let w : QueuedNotice := { notice := { v with hops := v.hops - 1 }, own := false }
    s.ownId ≠ some v.id → v.position < s.ringSize → look 0 s.table.ring v.position = v.id →
    (∀ c e, s.record v.position = .fresh c e → 1 ≤ (v.sequence - c.sequence).toNat ∧
      (v.sequence - c.sequence).toNat ≤ 127) →
    ∃ t, exec .noticeTaken s = .next t ∧ t.ports = s.ports.set p { s.port p with latch := .empty } ∧
      t.record v.position = .fresh
        { id := v.id, sequence := v.sequence, hops := v.hops, port := p, starting := v.starting
          lowViews := v.lowViews, highViews := v.highViews, lowRequest := v.lowRequest
          highRequest := v.highRequest, digest := v.digest } (s.now + 10 * s.settings.staleness) ∧
      (∀ q, q ≠ v.position → t.record q = s.record q) ∧
      (∀ k, k < s.ringSize →
        ((t.span k).lowViews, (t.span k).lowRequest) =
          (if k = v.position then (some v.highViews, v.highRequest)
          else ((s.span k).lowViews, (s.span k).lowRequest)) ∧
        ((t.span k).highViews, (t.span k).highRequest) =
          (if (k + 1) % s.ringSize = v.position then (some v.lowViews, v.lowRequest)
          else ((s.span k).highViews, (s.span k).highRequest))) ∧
      t.mapDerived ∧ t.convergenceFresh ∧
      t.notices.queues.get p = s.notices.queues.get p ∧ (v.hops = 1 → t.notices.queues = s.notices.queues) ∧
      (s.listsUnique → 1 < v.hops → t.notices.queues.get p.other =
        if v.position ∈ q.map (fun e => e.notice.position) then
          q.map (fun e => if e.notice.position = v.position ∧ e.own = false ∧
            (e.notice.id ≠ v.id ∨ (1 ≤ (v.sequence - e.notice.sequence).toNat ∧
              (v.sequence - e.notice.sequence).toNat ≤ 127)) then w else e)
        else q ++ [w]) ∧
      t.notices.lastTaken = p ∧
      t.notices.firstChoice = (s.notices.firstChoice && decide ((s.port p.other).latch = .empty)) ∧
      mapReported s t ∧ (t.notices.convergence ≠ s.notices.convergence → reported .node t) ∧
      t.map.copies = s.map.copies ∧ t.node = s.node ∧
      t.now = s.now ∧ t.notices.sequence = s.notices.sequence ∧ t.notices.refresh = s.notices.refresh ∧
      t.table = { s.table with circuits := t.table.circuits } ∧
      inServiceOf t.table.circuits = inServiceOf s.table.circuits ∧ t.mgmt = s.mgmt ∧ keepsStanding s t ∧
      engineAnswers s t

/-- A staleness expiry makes a FRESH record STALE with its contents kept, withdraws the two ends of its position, and
evaluates convergence (R48, R69). Each span that changes and a changed convergence status are reported (R58, R79, R81). When
W or X differ from before, the engine answers the map change by its state (R56, R85, R86, R88, R92, R119, R120).
The model's choice in it: logs 2 and 8 (the fast-path test reads the convergence status after the evaluation). -/
def Obligations.StalenessExpiryWithdrawsTheEnds : Prop :=
  ∀ (q : Fin 32) (s : State) (c : NoticeContents) (e own : Nat), s.record q = .fresh c e → s.position = some own →
    q.val < s.ringSize →
    ∃ t, exec (.stalenessExpiry q) s = .next t ∧ t.now = max s.now e ∧ t.record q = .stale c ∧
      (∀ j, j ≠ q.val → t.record j = s.record j) ∧
      (∀ k, k < s.ringSize →
        ((t.span k).lowViews, (t.span k).lowRequest) =
          (if k = q.val then (none, .none) else ((s.span k).lowViews, (s.span k).lowRequest)) ∧
        ((t.span k).highViews, (t.span k).highRequest) =
          (if (k + 1) % s.ringSize = q.val then (none, .none)
          else ((s.span k).highViews, (s.span k).highRequest))) ∧
      mapReported s t ∧ (t.notices.convergence ≠ s.notices.convergence → reported .node t) ∧
      t.mapDerived ∧ t.convergenceFresh ∧ t.notices.queues = s.notices.queues ∧ t.ports = s.ports ∧
      t.notices.sequence = s.notices.sequence ∧ t.notices.refresh = s.notices.refresh ∧
      t.map.copies = s.map.copies ∧ t.node = s.node ∧ t.table = { s.table with circuits := t.table.circuits } ∧
      inServiceOf t.table.circuits = inServiceOf s.table.circuits ∧ t.mgmt = s.mgmt ∧ keepsStanding s t ∧
      engineAnswers s t

/-- A refresh expiry of a STARTING or ACTIVE node originates a notice of what the node holds now: queued on both ports, the
sequence counter moved on, the timer restarted, nothing else changed (R74, R76).
The model's choice in it: log 2. -/
def Obligations.RefreshExpiryOriginatesANotice : Prop :=
  ∀ (s : State) (e own : Nat), s.notices.refresh = some e → s.node.state.runs = true → s.position = some own →
    ∃ t, exec .refreshTimerExpiry s = .next t ∧ originated s t ∧
      t = { s with
        now := max s.now e
        notices := { s.notices with
          queues := t.notices.queues, sequence := s.notices.sequence + 1
          refresh := some (max s.now e + 10 * s.settings.refresh) } }

/-! ### The Failure Map -/

/-- In a derived map, for a span of the ring: R52's conditions, R53's operator state, and R54's and R55's memberships of W and
X. -/
def Obligations.SetsFollowTheEndRecords : Prop :=
  ∀ (s : State) (own k : Nat), s.mapDerived → s.position = some own → k < s.ringSize →
    ∃ d, (s.span k).derived = some d ∧
      (∀ b : Fin 4, d.conditions.get b =
        (match (s.span k).lowViews, (s.span k).highViews with
          | none, none => .unknown
          | some l, none => (l.get b).condition
          | none, some h => (h.get b).condition
          | some l, some h =>
            if l.get b = .failed ∨ h.get b = .failed then .failed
            else if l.get b = .returnWait ∨ h.get b = .returnWait then .returnWait
            else if l.get b = .degraded ∨ h.get b = .degraded then .degraded
            else .clear)) ∧
      d.operator =
        (if (s.span k).lowRequest = .lockout ∨ (s.span k).highRequest = .lockout then .lockout
        else if (s.span k).lowRequest = .force ∨ (s.span k).highRequest = .force then .force
        else .none) ∧
      ∀ b : Fin 4,
        ((s.map.bandsInW k).get b = true ↔
          d.conditions.get b = .failed ∨ d.conditions.get b = .returnWait ∨
            (d.conditions.get b = .degraded ∧ s.settings.actOnDegrade = true) ∨ d.operator = .force) ∧
        ((s.map.bandsInX k).get b = true ↔
          d.conditions.get b = .failed ∨ d.conditions.get b = .unknown ∨
            (d.conditions.get b = .degraded ∧ s.settings.actOnDegrade = true) ∨ d.operator = .lockout ∨
            d.operator = .force)

/-! ### The Restoration Engine and the Plan Store -/

/-- A gather expiry takes the snapshot of W, X, N, the in-service circuits, the occupancy and the old grants as they stand,
enters PASS and holds the lock; nothing else changes (R88, R90, R91).
The model's choice in it: log 2. -/
def Obligations.GatherExpiryTakesTheSnapshot : Prop :=
  ∀ (s : State) (e : Nat), s.engine.state = .gather e → ∃ i : PassInputs,
    exec .gatherExpiry s = .next { s with now := max s.now e, engine := { s.engine with state := .pass i } } ∧
    (∀ k, look noBands i.w k = s.map.bandsInW k ∧ look noBands i.x k = s.map.bandsInX k) ∧
    i.n = s.ringSize ∧ i.occupancy = s.table.occupancy ∧ i.oldGrants = s.engine.grants ∧
    i.circuits = (inServiceOf s.table.circuits).map (fun e => (e.1, e.2.1))

/-- A pass completion installs the result of its snapshot: grants and restoration states as one change, tag checks kept, a
target derived from the new state, reports of the result and of each circuit it changed, both counts, and the engine IDLE
with the lock FREE (R93, R106, R180). -/
def Obligations.PassCompletionInstallsTheResult : Prop :=
  ∀ (s : State) (i : PassInputs), s.engine.state = .pass i → ∃ t, exec .passCompletion s = .next t ∧
    t.engine = { state := .idle, grants := (computePass i).grants, resultNumber := s.engine.resultNumber + 1 } ∧
    t.lockHeld = false ∧ t.counter 0 = saturate (s.counter 0) ∧
    t.switch = { s.switch with target := some (targetOf t) } ∧ reported .node t ∧
    (∀ c f a r k, s.circuit c = .inService f a r k → ∃ r', t.circuit c = .inService f a r' k ∧
      (∀ o, (computePass i).outcomes.find? (fun x => x.circuit == c) = some o → r' = o.restoration) ∧
      (c ∉ (computePass i).outcomes.map Outcome.circuit → r' = r) ∧ (r' ≠ r → reported (.circuit c) t)) ∧
    (∀ c, (∀ f a r k, s.circuit c ≠ .inService f a r k) → t.circuit c = s.circuit c) ∧
    t = { s with
      engine := t.engine, switch := t.switch, table := { s.table with circuits := t.table.circuits }
      reports := { s.reports with subjects := t.reports.subjects }, counters := t.counters }

/-- The grants of a pass, over distinct in-service circuits. Each is of an affected guarded circuit, lies within 64 slots, on
bands outside X and on slots no working circuit occupies along its restoration route; an EXTRA circuit whose slots it takes is
PREEMPTED or DOWN; and no two grants share a slot of a span (R97, R101, R103, R105). The candidates are the affected guarded
circuits, by class and then by number (R99, R100); in the capacity left by those before it each is placed at its old grant
when that is usable, else at the lowest free start, else at the lowest displacing one (R101, R102), and without a usable
start it is UNRESTORED with R104's first reason that holds. Grants and states stand in the order of the circuits, with one
state for each: RESTORED with the start of its grant, UNRESTORED without one, DOWN for an affected circuit of class EXTRA or
UNGUARDED, and of the unaffected PREEMPTED exactly when a grant takes a slot it holds as EXTRA, else NORMAL (R98, R99, R103,
R105). -/
def Obligations.PassGrantsAreSound : Prop :=
  ∀ i : PassInputs, 2 ≤ i.n → (i.circuits.map Prod.fst).Nodup →
    (computePass i).outcomes.map Outcome.circuit = i.circuits.map Prod.fst ∧
    ((computePass i).grants.map Grant.circuit).Sublist (i.circuits.map Prod.fst) ∧
    (∀ e ∈ i.circuits,
      let takes (r : Restoration) : Prop := { circuit := e.1, restoration := r } ∈ (computePass i).outcomes
      let displaced : Prop := ∃ g ∈ (computePass i).grants, ∃ f, (g.circuit, f) ∈ i.circuits ∧
        ∃ k ∈ f.restorationRoute i.n, ∃ u, g.start ≤ u ∧ u < g.start + f.width ∧
          look .none i.occupancy (64 * k + u) = .extra e.1
      (1 ≤ e.2.width → e.2.width ≤ 16 → (affected i e.2 = true ↔ ∃ k ∈ e.2.workingRoute i.n, ∃ u,
        e.2.start ≤ u ∧ u < e.2.start + e.2.width ∧ memberOf i.w k (u / 16) = true)) ∧
      (affected i e.2 = true → e.2.cls.guarded = true →
        (∀ x, takes (.restored x) ↔ { circuit := e.1, start := x } ∈ (computePass i).grants) ∧
        ((∀ x, { circuit := e.1, start := x } ∉ (computePass i).grants) → ∃ r, takes (.unrestored r))) ∧
      (affected i e.2 = true → e.2.cls.guarded = false → takes .down) ∧
      (affected i e.2 = false → tableWf .none i.occupancy = true →
        (displaced → takes .preempted) ∧ (¬displaced → takes .normal))) ∧
    (∀ g ∈ (computePass i).grants, ∃ f, (g.circuit, f) ∈ i.circuits ∧ f.cls.guarded = true ∧ affected i f = true ∧
      g.start + f.width ≤ 64 ∧
      ∀ k ∈ f.restorationRoute i.n,
        memberOf i.x k (g.start / 16) = false ∧ memberOf i.x k ((g.start + f.width - 1) / 16) = false ∧
        ∀ u, g.start ≤ u → u < g.start + f.width →
          (∀ c, look .none i.occupancy (64 * k + u) ≠ .working c) ∧
          ∀ e fe, look .none i.occupancy (64 * k + u) = .extra e → (e, fe) ∈ i.circuits → fe.cls = .extra →
            { circuit := e, restoration := .preempted } ∈ (computePass i).outcomes ∨
              { circuit := e, restoration := .down } ∈ (computePass i).outcomes) ∧
    (∀ g ∈ (computePass i).grants, ∀ h ∈ (computePass i).grants, g.circuit ≠ h.circuit →
      ∀ fg fh, (g.circuit, fg) ∈ i.circuits → (h.circuit, fh) ∈ i.circuits →
        ∀ k, k ∈ fg.restorationRoute i.n → k ∈ fh.restorationRoute i.n →
          ∀ u, ¬(g.start ≤ u ∧ u < g.start + fg.width ∧ h.start ≤ u ∧ u < h.start + fh.width)) ∧
    (∀ e, e ∈ candidates i ↔ e ∈ i.circuits ∧ e.2.cls.guarded = true ∧ affected i e.2 = true) ∧
    ((i.circuits.map Prod.fst).Pairwise (· < ·) → (candidates i).Pairwise
      (fun d e => d.2.cls.code < e.2.cls.code ∨ (d.2.cls = e.2.cls ∧ d.1 < e.1))) ∧
    ∀ before e after, candidates i = before ++ e :: after →
      let cap := (before.foldl (placeOne i) { cap := classifiedMap i, grants := [], preempted := [], unplaced := [] }).cap
      let spans := e.2.restorationRoute i.n
      let unbarred (x : Nat) : Prop := x + e.2.width ≤ 64 ∧
        ∀ k ∈ spans, memberOf i.x k (x / 16) = false ∧ memberOf i.x k ((x + e.2.width - 1) / 16) = false
      let free (x : Nat) : Prop := unbarred x ∧
        ∀ k ∈ spans, ∀ u, x ≤ u → u < x + e.2.width → look .free cap (64 * k + u) = .free
      let displacing (x : Nat) : Prop := unbarred x ∧
        ∀ k ∈ spans, ∀ u, x ≤ u → u < x + e.2.width →
          look .free cap (64 * k + u) = .free ∨ ∃ d, look .free cap (64 * k + u) = .extra d
      let old (x : Nat) : Prop := (i.oldGrants.find? (fun g => g.circuit == e.1)).map Grant.start = some x
      let granted (x : Nat) : Prop := { circuit := e.1, start := x } ∈ (computePass i).grants
      let refused (r : Reason) : Prop := { circuit := e.1, restoration := .unrestored r } ∈ (computePass i).outcomes
      let isolated : Prop := (∃ k ∈ spans, ∀ b : Fin 4, memberOf i.x k b = true) ∧
        ∃ k ∈ e.2.workingRoute i.n, ∀ b : Fin 4, memberOf i.w k b = true
      (∀ x, old x → displacing x → granted x) ∧
      ((∀ x, old x → ¬displacing x) →
        (∀ x, free x → (∀ y, y < x → ¬free y) → granted x) ∧
        ((∀ x, ¬free x) →
          (∀ x, displacing x → (∀ y, y < x → ¬displacing y) → granted x) ∧
          ((∀ x, ¬displacing x) →
            (isolated → refused .isolated) ∧ (¬isolated → (∀ x, ¬unbarred x) → refused .routeBarred) ∧
            (¬isolated → (∃ x, unbarred x) → refused .noCapacity))))

/-- When the fast-path test names span k, the result of a build of plan k from the tables as they stand is the result a pass
would reach from the map as it stands; a VALID plan k that holds that result, as every step keeps it, therefore holds the lists
the pass would install (R115, R119, R120). -/
def Obligations.FastPathEqualsThePass : Prop :=
  ∀ (s : State) (k : Nat), s.mapDerived → s.map.cutSpan = some k → s.engine.grants = [] →
    computePass (takeSnapshot s) = computePass (buildInputs k s) ∧
    (s.plansComputed → ∀ g l o, s.plan k = .valid g l o →
      computePass (takeSnapshot s) = { grants := l, outcomes := o })

/-- An IDLE engine of a STARTING or ACTIVE node starts the build of the lowest STALE plan on its hypothetical inputs: span k
whole in W and X, no old grants, everything else as it stands (R114, R115). -/
def Obligations.BuildStartTakesTheLowestStalePlan : Prop :=
  ∀ (s : State) (k : Nat), s.engine.state = .idle → s.node.state.runs = true → k < s.ringSize → s.plan k = .stale →
    (∀ j, j < k → s.plan j ≠ .stale) →
    ∃ t i, exec .buildStart s = .next t ∧ t.plan k = .building s.table.generation ∧
      (∀ j, j ≠ k → t.plan j = s.plan j) ∧ t.engine = { s.engine with state := .build k i } ∧
      t = { s with plans := t.plans, engine := t.engine } ∧
      (∀ j (b : Fin 4), (memberOf i.w j b = true ↔ j = k) ∧ (memberOf i.x j b = true ↔ j = k)) ∧
      i.n = s.ringSize ∧ i.circuits = (inServiceOf s.table.circuits).map (fun e => (e.1, e.2.1)) ∧
      i.occupancy = s.table.occupancy ∧ i.oldGrants = []

/-- A build's end makes its plan VALID with the lists of the build when its generation is current, STALE otherwise; the
engine is IDLE, and a NODE report follows exactly when the plans become ready (R116, R118). -/
def Obligations.BuildEndMakesThePlanValid : Prop :=
  ∀ (s : State) (k : Nat) (i : PassInputs) (g : Word), s.engine.state = .build k i → s.plan k = .building g →
    ∃ t, exec .buildEnd s = .next t ∧
      t.plan k = (if g = s.table.generation then .valid g (computePass i).grants (computePass i).outcomes else .stale) ∧
      (∀ j, j ≠ k → t.plan j = s.plan j) ∧ t.engine = { s.engine with state := .idle } ∧
      (t.plansReady = true → s.plansReady = false → reported .node t) ∧
      (t.plansReady = false ∨ s.plansReady = true → t.reports = s.reports) ∧
      t = { s with
        plans := t.plans, engine := t.engine, reports := { s.reports with subjects := t.reports.subjects } }

/-- A listen expiry makes a STARTING node ACTIVE: a notice with STARTING clear, a target derived, a NODE report. The engine
stays as it is when W and X are empty (a build goes on), and else answers as to a map change: after any build is abandoned,
the plan that the fast-path test names is applied, with the Grant Table empty as it is in STARTING, and when a condition of
R119 fails a gather starts (R85, R95, R119, R120, R148).
The model's choice in it: log 2. -/
def Obligations.ListenExpiryEntersActive : Prop :=
  ∀ (s : State) (e own : Nat), s.node.state = .starting e → s.position = some own →
    ∃ t, exec .listenExpiry s = .next t ∧ t.now = max s.now e ∧ t.node = { s.node with state := .active } ∧
      originated s t ∧
      t.convergenceFresh ∧ t.switch = { s.switch with target := some (targetOf t) } ∧ reported .node t ∧
      (s.map.setsEmpty = true → t.engine = s.engine ∧ t.plans = s.plans ∧ t.table = s.table ∧ t.counters = s.counters) ∧
      (s.map.setsEmpty = false → answersMapChange s t { s.switch with target := some (targetOf t) }) ∧
      t.map = s.map ∧ t.ports = s.ports ∧ t.mgmt = s.mgmt ∧ t.notices.records = s.notices.records ∧
      t.table = { s.table with circuits := t.table.circuits } ∧ keepsStanding s t

/-! ### The management channel -/

/-- A frame assembled from a line port. Not for this node, or in UNADDRESSED: passed to the other port with one hop less, or
discarded there for want of hops or of a place. For this node: a REQUEST joins the request queue, or is refused and counted
when 4 are held; a REPLY or REPORT goes out of tributary 0; any other kind is bad. Bytes that are no good frame are counted bad
(R153, R155, R158, R159).
The model's choice in it: log 23. -/
def Obligations.LineFramesAreForwardedOrTaken : Prop :=
  ∀ (p : Side) (f : Frame) (s : State), 2 ≤ f.body.length → f.body.length ≤ 1014 →
    let into (q : MgmtPort) (g : Frame) : State :=
      if (s.mgmt.queues.get q).frames.length < 8 then
        setQueue q { s.mgmt.queues.get q with frames := (s.mgmt.queues.get q).frames ++ [g] } s
      else bump (ctrDiscarded q) s
    ((s.node.state = .unaddressed ∨ s.ownId ≠ some f.destination) →
      exec (.managementFrameFromLine p f.bytes) s = .next
        (if 2 ≤ f.hops.toNat then into (.line p.other) { f with hops := f.hops - 1 }
        else bump (ctrDiscarded (.line p.other)) s)) ∧
    (s.node.state ≠ .unaddressed → s.ownId = some f.destination →
      (f.kind = 1 → s.mgmt.requests.length < 4 →
        exec (.managementFrameFromLine p f.bytes) s = .next
          { s with mgmt := { s.mgmt with
            requests := s.mgmt.requests ++ [{ origin := f.origin, tag := f.tag, body := f.body }] } }) ∧
      (f.kind = 1 → 4 ≤ s.mgmt.requests.length → ∃ t, exec (.managementFrameFromLine p f.bytes) s = .next t ∧
        t.counter 4 = saturate (s.counter 4) ∧ t.mgmt.requests = s.mgmt.requests ∧
        ∀ q, namedQueue s f.origin = some q → (s.mgmt.queues.get q).frames.length < 8 →
          (t.mgmt.queues.get q).frames = (s.mgmt.queues.get q).frames ++
            [{ kind := 2, destination := f.origin, origin := s.node.strap, hops := 32, tag := f.tag,
               body := [0, 14, 0, 0] }]) ∧
      (f.kind = 2 ∨ f.kind = 3 → exec (.managementFrameFromLine p f.bytes) s = .next (into .tributary f)) ∧
      (f.kind ≠ 1 → f.kind ≠ 2 → f.kind ≠ 3 →
        exec (.managementFrameFromLine p f.bytes) s = .next (bump (ctrBad (.line p)) s))) ∧
    ∀ bytes, frameOf bytes = none →
      exec (.managementFrameFromLine p bytes) s = .next (bump (ctrBad (.line p)) s)

/-- A frame assembled from tributary port 0. Anything but a REQUEST is discarded. A REQUEST for this node joins the request
queue with the own ID as its origin. One for another position is injected with hops 32 on the usable path with fewer hops,
clockwise when they are equal; a path is unusable when all four bands of one of its spans are in W; one for an ID not in the
ring, or in an unplaced node, goes to the clockwise-facing port (R156, R157).
The model's choice in it: log 23. -/
def Obligations.GatewayRequestsFollowTheOpenPath : Prop :=
  ∀ (f : Frame) (s : State), 2 ≤ f.body.length → f.body.length ≤ 1014 →
    let sent (q : MgmtPort) : State :=
      setQueue q
        { s.mgmt.queues.get q with
          frames := (s.mgmt.queues.get q).frames ++ [{ f with origin := s.node.strap, hops := 32 }] } s
    let free (q : MgmtPort) : Prop := (s.mgmt.queues.get q).frames.length < 8
    let cwPort := MgmtPort.line (clockwiseSide s.settings.orientation)
    let ccwPort := MgmtPort.line (counterSide s.settings.orientation)
    ((s.node.state = .unaddressed ∨ f.kind ≠ 1) → exec (.managementFrameFromTributary f.bytes) s = .next s) ∧
    (s.node.state ≠ .unaddressed → f.kind = 1 →
      (f.destination = 0 ∨ s.ownId = some f.destination → s.mgmt.requests.length < 4 →
        exec (.managementFrameFromTributary f.bytes) s = .next
          { s with mgmt := { s.mgmt with
            requests := s.mgmt.requests ++ [{ origin := s.node.strap, tag := f.tag, body := f.body }] } }) ∧
      (f.destination ≠ 0 → s.ownId ≠ some f.destination →
        ((s.position = none ∨ positionOf s.table.ring f.destination = none) → free cwPort →
          exec (.managementFrameFromTributary f.bytes) s = .next (sent cwPort)) ∧
        ∀ own d, s.position = some own → positionOf s.table.ring f.destination = some d →
          let n := s.ringSize
          let cw := (d + n - own) % n
          let ccw := (own + n - d) % n
          let cwOpen := ∀ j, j < cw → s.map.bandsInW ((own + j) % n) ≠ allBands
          let ccwOpen := ∀ j, j < ccw → s.map.bandsInW ((own + n - 1 - j) % n) ≠ allBands
          (cwOpen → (¬ccwOpen ∨ cw ≤ ccw) → free cwPort →
            exec (.managementFrameFromTributary f.bytes) s = .next (sent cwPort)) ∧
          (ccwOpen → (¬cwOpen ∨ ccw < cw) → free ccwPort →
            exec (.managementFrameFromTributary f.bytes) s = .next (sent ccwPort)) ∧
          (¬cwOpen → ¬ccwOpen → (s.mgmt.queues.get .tributary).frames.length < 8 → s.ownId = some s.node.strap →
            ∃ t, exec (.managementFrameFromTributary f.bytes) s = .next t ∧
              (t.mgmt.queues.get .tributary).frames = (s.mgmt.queues.get .tributary).frames ++
                [{ kind := 2, destination := s.node.strap, origin := s.node.strap, hops := 32
                   tag := f.tag, body := [0, 15, 0, 0] }])))

/-- The head request is executed: a chain of one SELECT sets the cursor, and a chain that opens with an unknown code writes
nothing; either way the reply of one item is sent to the requester, the request leaves the queue, and the unit is IDLE again.
A chain left after some steps and gone on with ends as if it had not been left. Each step of a chain: with no room for one more
item it ends there; a body that ends before a header or within operands, and a LOAD or READ with the more flag, are refused
with BAD_CHAIN, an unknown code with UNKNOWN_DIRECTIVE, a SELECT or a SERVICE code out of range with RANGE, each ending the
chain. SELECT, LOAD, SERVICE, OPERATOR and CAPTURE do in a chain what they do by themselves, with the code and the count of
that, and end it or leave the rest of it to come. A SERVICE that finds the lock HELD is held with the rest of its chain. A
READ adds a record at a time, as it stands then. A RESTART gives OK and is due at the chain's end, however it ends: the reply
goes out first, and then one restart acts (R160 to R162, R164, R167, R168, R172).
The model's choice in it: log 17, the count 0 of a directive that is not read, log 29, and that the command of the next
directive takes it as EXECUTE_REQUEST does, log 16. -/
def Obligations.RequestsAreExecutedAndAnswered : Prop :=
  (∀ (s : State) (r : Request) (rest : List Request), s.node.state ≠ .unaddressed → s.mgmt.execution = .idle →
    s.mgmt.requests = r :: rest → 14 ≤ s.settings.maxReply →
    let replied (code : ResultCode) (cursor : Cursor) : State :=
      let u := sendFrame { kind := 2, destination := r.origin, origin := s.node.strap, hops := 32, tag := r.tag,
                           body := [0, byte code.code, 0, 0] } s
      { u with mgmt := { u.mgmt with
        requests := rest, cursor := cursor, lastItems := [{ index := 0, code := code, count := 0 }], lastRecords := [] } }
    (∀ table index tid bulk, tableOf table = some tid → table < 256 → index < tid.records →
      r.body = [1, byte table] ++ bytes2 index ++ bulk →
      exec (.executeRequest none) s = .next (replied .ok { table := tid, index := index })) ∧
    (∀ header bulk, r.body = header :: bulk → header.toNat % 128 = 0 ∨ 8 ≤ header.toNat % 128 →
      exec (.executeRequest none) s = .next (replied .unknownDirective s.mgmt.cursor)) ∧
    ∀ m t, exec (.executeRequest (some m)) s = .next t → (∃ c, t.mgmt.execution = .running c) →
      exec (.executeRequest none) t = exec (.executeRequest none) s) ∧
  (∀ (s : State) (c : Chain), s.node.state ≠ .unaddressed → s.mgmt.execution = .running c → c.reading = none →
    let step := exec (.executeRequest (some 1)) s
    let ends (items : List Item) (v : State) : Prop := step = .next (v.chainEnded c items c.records)
    let items (code : ResultCode) : List Item := c.items ++ [{ index := c.index, code := code, count := 0 }]
    let room := 10 + 4 * (c.items.length + 1) + c.records.length ≤ s.settings.maxReply
    (¬room → ends c.items s) ∧
    (room → c.rest = [] → ends (items .badChain) s) ∧
    (room → ∀ header operands, c.rest = header :: operands →
      let code := header.toNat % 128
      let more : Bool := decide (128 ≤ header.toNat)
      (code = 0 ∨ 8 ≤ code → ends (items .unknownDirective) s) ∧
      (code = 2 ∨ code = 3 → more = true → ends (items .badChain) s) ∧
      (operands.length < [0, 3, 0, 1, 3, 2, 1, 0].getD code 0 → ends (items .badChain) s) ∧
      (∀ table high low after, code = 1 → operands = table :: high :: low :: after →
        let index := high.toNat * 256 + low.toNat
        (tableOf table.toNat = none → ends (items .range) s) ∧
        ∀ tid, tableOf table.toNat = some tid →
          (tid.records ≤ index → ends (items .range) s) ∧
          (index < tid.records → more = false →
            ends (items .ok) { s with mgmt := { s.mgmt with cursor := { table := tid, index := index } } }) ∧
          (index < tid.records → more = true → step = .next
            { s with mgmt := { s.mgmt with
              cursor := { table := tid, index := index }
              execution := .running { c with rest := after, index := c.index + 1, items := items .ok } } })) ∧
      (∀ high low action after, code = 4 → operands = high :: low :: action :: after → action ≠ 1 → action ≠ 2 →
        ends (items .range) s) ∧
      ∀ i after, Spells code operands i after → (code = 2 ∨ code = 3 → more = false) →
        let left : Chain := { c with rest := after }
        (i ≠ .restart → (∀ n, i = .read n → n = 0) → ∀ (v : State) result count,
          exec i { s with mgmt := { s.mgmt with execution := .idle } } = .next (v.answeredWith result count []) →
          let w : State := { v with mgmt := { v.mgmt with lastItems := s.mgmt.lastItems, lastRecords := s.mgmt.lastRecords } }
          step = .next (w.chainAnswered left more result count)) ∧
        (s.lockHeld = true → ∀ n : Half, n.toNat < 1024 →
          let held (a : ServiceAction) : State := { s with mgmt := { s.mgmt with
            execution := .holding left { circuit := n.toNat, action := a, more := more } (s.now + 2000) } }
          (i = .serviceIn n → step = .next (held .in_)) ∧ (i = .serviceOut n → step = .next (held .out))) ∧
        (∀ n, i = .read n → n ≠ 0 → step = .next { s with mgmt := { s.mgmt with
          execution := .running { left with reading := some { remaining := n.toNat, returned := 0 } } } }) ∧
        (i = .restart → step = .next (s.chainAnswered { left with restartDue := true } more .ok 0)) ∧
        exec i s = if code = 3 then exec (.executeRequest none) s else step)) ∧
  ∀ (s : State) (c : Chain) (r : Reading), s.node.state ≠ .unaddressed → s.mgmt.execution = .running c →
    c.reading = some r →
    let step := exec (.executeRequest (some 1)) s
    let cur := s.mgmt.cursor
    let image := recordImage s cur.table cur.index
    let size := 10 + 4 * (c.items.length + 1) + c.records.length + image.length
    let ends (code : ResultCode) : Prop := step = .next
      (s.chainEnded c (c.items ++ [{ index := c.index, code := code, count := r.returned }]) c.records)
    (r.remaining = 0 → ends .ok) ∧
    (r.remaining ≠ 0 →
      (cur.table.records ≤ cur.index → ends .endOfTable) ∧
      (cur.index < cur.table.records → s.settings.maxReply < size → ends .truncated) ∧
      (cur.index < cur.table.records → size ≤ s.settings.maxReply → step = .next { s with mgmt := { s.mgmt with
        cursor := { table := cur.table, index := cur.index + 1 }
        execution := .running { c with
          records := c.records ++ image
          reading := some { remaining := r.remaining - 1, returned := r.returned + 1 } } } }))

/-! ### Directives -/

/-- SELECT sets the cursor to a table and an index of it and gives OK; a table number above 8, or an index not below the record
count, is refused with RANGE and leaves the cursor; every engine and node state but UNADDRESSED alike (R164).
The model's choice in it: log 16. -/
def Obligations.SelectSetsTheCursor : Prop :=
  ∀ (table : Byte) (index : Half) (s : State), s.canTake →
    let records := [1, 1, 32, 1024, 32, 32, 32, 192, 37].getD table.toNat 0
    (index.toNat < records → ∃ tid, tableOf table.toNat = some tid ∧ exec (.select table index) s = .next
      ({ s with mgmt := { s.mgmt with cursor := { table := tid, index := index.toNat } } }.answeredWith .ok 0 [])) ∧
    (records ≤ index.toNat → exec (.select table index) s = .next (s.answeredWith .range 0 []))

/-- A LOAD of one CIRCUIT image writes the DEFINED record, or makes it ABSENT, and moves the cursor on; a record in service
is refused with IN_SERVICE and a field or a code out of its range with RANGE, with nothing written. A LOAD of more than one
image goes on after each image written as a LOAD of the rest, counting one image more; at the table's end an image gives
END_OF_TABLE, and less than an image gives OK at every record, with nothing written. A LOAD on a table that is not loaded is
READ_ONLY (R12, R13, R165).
The model's choice in it: log 16. -/
def Obligations.LoadDefinesACircuit : Prop :=
  ∀ (s : State) (c w st a b port u x y : Nat) (cls : CircuitClass) (dir : Direction) (att : Bool), s.canTake →
    s.mgmt.cursor = { table := .circuit, index := c } → c < 1024 →
    let load (flag : Nat) : Instr := .load ([flag, cls.code, w, st, a, b, dir.code, att.toNat, port, u, x, y].map byte)
    let moved (r : CircuitRecord) : State :=
      let v := s.setCircuit c r
      { v with mgmt := { v.mgmt with cursor := { table := .circuit, index := c + 1 } } }.answeredWith .ok 1 []
    (∀ f at' r k, s.circuit c = .inService f at' r k → exec (load 1) s = .next (s.answeredWith .inService 0 [])) ∧
    ((∀ f at' r k, s.circuit c ≠ .inService f at' r k) →
      exec (load 0) s = .next (moved .absent) ∧
      (1 ≤ w → w ≤ 16 → st ≤ 63 → a ≤ 31 → b ≤ 31 → (att = true → port ≤ 3 ∧ u ≤ 15) →
        exec (load 1) s = .next (moved (.defined
          { cls := cls, width := w, start := st, endA := a, endB := b, direction := dir }
          (if att then some { port := port, start := u } else none)))) ∧
      ((w < 256 ∧ st < 256 ∧ a < 256 ∧ b < 256 ∧ port < 256 ∧ u < 256) →
        (w = 0 ∨ 16 < w ∨ 63 < st ∨ 31 < a ∨ 31 < b ∨ (att = true ∧ (3 < port ∨ 15 < u))) →
        exec (load 1) s = .next (s.answeredWith .range 0 [])) ∧
      (∀ image : List Byte, image.length = 12 →
        (1 < byteAt image 0 ∨ (byteAt image 0 = 1 ∧ (4 < byteAt image 1 ∨ 1 < byteAt image 6 ∨ 1 < byteAt image 7))) →
        exec (.load image) s = .next (s.answeredWith .range 0 []))) ∧
    (∀ (image more : List Byte) (r : CircuitRecord), image.length = 12 → exec (.load image) s = .next (moved r) →
      ∃ (v : State) (code : ResultCode) (n : Nat), exec (.load more) (moved r) = .next (v.answeredWith code n []) ∧
        exec (.load (image ++ more)) s = .next (v.answeredWith code (n + 1) [])) ∧
    (∀ bulk : List Byte, bulk.length < 12 → exec (.load bulk) s = .next (s.answeredWith .ok 0 [])) ∧
    (∀ (v : State) (bulk : List Byte), v.canTake → v.mgmt.cursor = { table := .circuit, index := 1024 } →
      exec (.load bulk) v = .next (v.answeredWith (if bulk.length < 12 then .ok else .endOfTable) 0 [])) ∧
    ∀ (v : State) (bulk : List Byte), v.canTake →
      v.mgmt.cursor.table ∈ [TableId.status, .failmap, .notices, .plans, .connect, .counters] →
      exec (.load bulk) v = .next (v.answeredWith .readOnly 0 [])

/-- A LOAD on the RING table writes an entry per byte from the cursor on, up to a byte of 255, refused with RANGE, or the
table's end, END_OF_TABLE; the count says how many, and the map is evaluated in every case. A map that changes moves the
generation on, clears the Notice Records and empties the outgoing notice queues but for the entry's own notice, clears both
requests, keeps the port copies' views, stores them in the own ends of the new placement and leaves every other end ABSENT
with request NONE, leaves no plan VALID and the engine IDLE, and decides the node state: placed enters STARTING afresh (R1, R3,
R50, R80, R94, R112, R145). With a circuit in service it is refused with IN_USE (R2).
The model's choice in it: logs 2, 12 (the sequence moves on by two when the digest changes) and 16. -/
def Obligations.LoadSetsTheRing : Prop :=
  ∀ (s : State) (k : Nat) (bulk : List Byte), s.canTake → s.mgmt.cursor = { table := .ring, index := k } →
    (s.anyInService = true → exec (.load bulk) s = .next (s.answeredWith .inUse 0 [])) ∧
    (s.anyInService = false → k ≤ 32 →
      let m := min (32 - k) (bulk.takeWhile (fun v => v != 255)).length
      let code : ResultCode := if m = bulk.length then .ok else if k + m = 32 then .endOfTable else .range
      ∃ t, exec (.load bulk) s = .next t ∧
        (∀ j, look 0 t.table.ring j = if k ≤ j ∧ j < k + m then bulk.getD (j - k) 0 else look 0 s.table.ring j) ∧
        t.mgmt = { (s.answeredWith code m []).mgmt with cursor := { table := .ring, index := k + m } } ∧
        t.settings = s.settings ∧ t.table.circuits = s.table.circuits ∧ t.table.occupancy = s.table.occupancy ∧
        t.engine.grants = s.engine.grants ∧ t.ports = s.ports ∧ t.now = s.now ∧ keepsStanding s t ∧
        ((∀ j, j < 32 → look 0 t.table.ring j = look 0 s.table.ring j) →
          t.table.generation = s.table.generation ∧ t.node = s.node ∧ t.engine = s.engine ∧ t.plans = s.plans ∧
            t.notices = s.notices ∧ t.switch = s.switch) ∧
        ((∃ j, j < 32 ∧ look 0 t.table.ring j ≠ look 0 s.table.ring j) →
          t.table.generation = s.table.generation + 1 ∧ (∀ q, t.record q = .never) ∧ t.engine.state = .idle ∧
          t.mapDerived ∧ t.table.digest = digestOf t.table ∧
          (∀ p, t.map.copies.get p = { s.map.copies.get p with request := .none }) ∧
          t.ownEndsStored (fun _ => (absentEnd, absentEnd)) ∧
          (t.placed = true → t.node.state = .starting (s.now + 10 * s.settings.listen) ∧
            (∀ j, t.plan j = if j < t.ringSize then .stale else .absent) ∧
            t.switch.target = some (targetOf t) ∧ reported .node t ∧
            t.notices.refresh = some (s.now + 10 * s.settings.refresh) ∧ t.convergenceFresh ∧
            t.notices.sequence = s.notices.sequence +
              (if s.node.state.runs = true ∧ t.table.digest ≠ s.table.digest then 2 else 1) ∧
            ∃ own, t.position = some own ∧
              ∀ p, t.notices.queues.get p = [{ notice := t.noticeAt own (t.notices.sequence - 1), own := true }]) ∧
          (t.placed = false → (∀ j, t.plan j = .absent) ∧ (∀ p, t.notices.queues.get p = []) ∧
            t.notices.sequence = s.notices.sequence ∧ (s.node.state.runs = true → t.notices.refresh = none) ∧
            t.node.state = (if s.node.state.runs = true then .unplaced else s.node.state))))

/-- A LOAD of the 24 bytes of a SETTINGS record whose fields are within their limits and steps stores that record; any 24 bytes
store each field clamped to its range and rounded down to its step, the staleness timeout raised to twice the refresh interval
and the clear threshold lowered to the set threshold; a change of orientation with a circuit in service is refused with IN_USE
(R5, R41, R77, R89, R147, R166). A changed orientation clears both requests, stores each port copy in its new own end, keeps
every other end, derives the map and a target, and originates one notice when the own ends differ from before (R5, R51, R75). A
changed act on degrade recomputes the digest, with a notice and an evaluation of convergence when it differs, and derives the
map afresh (R6, R23, R57, R75, R79). In either case each changed span is reported, and when W or X differ from before the engine
answers the map change from its state before the load (R56, R58, R85, R86, R88, R92, R119, R120); with neither changed nothing
else changes. A second image, or one at the table's end, gives END_OF_TABLE, and
less than an image gives OK, with nothing of it stored (R165, R166).
The model's choice in it: logs 16, 19 and 27 (the digest comes before the map change). -/
def Obligations.LoadStoresSettingsWithinLimits : Prop :=
  ∀ s : State, s.canTake → s.mgmt.cursor = { table := .settings, index := 0 } →
    let within (g : Settings) : Prop :=
      g.holdOff ≤ 1000 ∧ g.holdOff % 10 = 0 ∧ g.returnDelay ≤ 3600 ∧ 10 ≤ g.refresh ∧ g.refresh ≤ 1000 ∧
      g.refresh % 10 = 0 ∧ 2 * g.refresh ≤ g.staleness ∧ g.staleness ≤ 5000 ∧ g.staleness % 10 = 0 ∧
      g.gatherDelay ≤ 50 ∧ 100 ≤ g.listen ∧ g.listen ≤ 10000 ∧ g.listen % 100 = 0 ∧ g.degradeSet ≤ 10000 ∧
      g.degradeClear ≤ g.degradeSet ∧ g.reportDestination ≠ 255 ∧ 64 ≤ g.maxReply ∧ g.maxReply ≤ 1024
    (∀ g, within g → (g.orientation = s.settings.orientation ∨ s.anyInService = false) →
      ∃ t, exec (.load (settingsRecord g)) s = .next t ∧
        t.table = { s.table with settings := g, circuits := t.table.circuits, digest := t.table.digest } ∧
        t.mgmt = { (s.answeredWith .ok 1 []).mgmt with cursor := { table := .settings, index := 1 } } ∧
        t.node = s.node ∧ t.notices.records = s.notices.records ∧ t.now = s.now ∧ keepsStanding s t ∧
        inServiceOf t.table.circuits = inServiceOf s.table.circuits ∧
        (g.degradeSet = 0 → ∀ p (b : Fin 4), (t.band p b).supervisor.rawDegrade = false) ∧
        (g.orientation ≠ s.settings.orientation → t.switch.target = some (targetOf t) ∧ t.mapDerived ∧
          (∀ p, (t.map.copies.get p).request = .none ∧
            (g.degradeSet ≠ 0 → (t.map.copies.get p).views = (s.map.copies.get p).views)) ∧
          t.ownEndsStored (fun k => (s.lowEnd k, s.highEnd k))) ∧
        (g.actOnDegrade ≠ s.settings.actOnDegrade → t.table.digest = digestOf t.table) ∧
        (g.degradeSet ≠ 0 →
          let u : State := { s with table := { s.table with settings := g, digest := t.table.digest } }
          t.ports = s.ports ∧
          let turned := g.orientation ≠ s.settings.orientation
          let acts := g.actOnDegrade ≠ s.settings.actOnDegrade
          (¬turned → ¬acts → t = { u with mgmt := t.mgmt }) ∧
          (¬turned → acts → mapReported s t ∧ engineAnswers u t ∧ t.mapDerived ∧ t.map.copies = s.map.copies ∧
            (s.placed = true → ∀ k, k < s.ringSize → t.lowEnd k = s.lowEnd k ∧ t.highEnd k = s.highEnd k) ∧
            (t.table.digest = s.table.digest → t.notices = s.notices) ∧
            (t.table.digest ≠ s.table.digest → t.convergenceFresh ∧ (s.node.state.runs = true → originated s t))) ∧
          (turned → ¬acts → mapReported s t ∧
            (t.map.sets = s.map.sets → t.engine = s.engine ∧ t.plans = s.plans ∧ t.table = u.table ∧
              t.counters = s.counters) ∧
            (t.map.sets ≠ s.map.sets → answersMapChange u t { s.switch with target := some (targetOf t) }) ∧
            (s.node.state.runs = false ∨ s.position = none → t.notices = s.notices) ∧
            ∀ own, s.position = some own → s.node.state.runs = true →
              (s.map.ownEnds s.ringSize own = t.map.ownEnds s.ringSize own → t.notices = s.notices) ∧
              (s.map.ownEnds s.ringSize own ≠ t.map.ownEnds s.ringSize own → originated s t)))) ∧
    (∀ g, within g → g.orientation ≠ s.settings.orientation → s.anyInService = true →
      exec (.load (settingsRecord g)) s = .next (s.answeredWith .inUse 0 [])) ∧
    (∀ (image more : List Byte), image.length = 24 →
      (more.length < 24 → exec (.load (image ++ more)) s = exec (.load image) s) ∧
      (24 ≤ more.length →
        (∀ v : State, exec (.load image) s = .next (v.answeredWith .ok 1 []) →
          exec (.load (image ++ more)) s = .next (v.answeredWith .endOfTable 1 [])) ∧
        (exec (.load image) s = .next (s.answeredWith .inUse 0 []) →
          exec (.load (image ++ more)) s = .next (s.answeredWith .inUse 0 [])))) ∧
    (∀ less : List Byte, less.length < 24 → exec (.load less) s = .next (s.answeredWith .ok 0 [])) ∧
    (∀ (v : State) (bulk : List Byte), v.canTake → v.mgmt.cursor = { table := .settings, index := 1 } →
      exec (.load bulk) v = .next (v.answeredWith (if bulk.length < 24 then .ok else .endOfTable) 0 [])) ∧
    ∀ bulk : List Byte, bulk.length = 24 →
      let at_ (i : Nat) : Nat := (bulk.getD i 0).toNat
      let half (i : Nat) : Nat := 256 * at_ i + at_ (i + 1)
      let refresh := max 10 (min (half 4) 1000) / 10 * 10
      let degradeSet := min (half 11) 10000
      let stored : Settings :=
        { holdOff := min (half 0) 1000 / 10 * 10, returnDelay := min (half 2) 3600, refresh := refresh
          staleness := max (max 20 (min (half 6) 5000) / 10 * 10) (2 * refresh), gatherDelay := min (at_ 8) 50
          listen := max 100 (min (half 9) 10000) / 100 * 100, degradeSet := degradeSet
          degradeClear := min (min (half 13) 10000) degradeSet, actOnDegrade := decide (at_ 15 ≠ 0)
          orientation := if at_ 16 = 0 then .normal else .reversed
          reportDestination := if at_ 17 = 255 then 254 else bulk.getD 17 0
          reportNode := decide (at_ 18 ≠ 0), reportPort := decide (at_ 19 ≠ 0), reportSpan := decide (at_ 20 ≠ 0)
          reportCircuit := decide (at_ 21 ≠ 0), maxReply := max 64 (min (half 22) 1024) }
      (stored.orientation = s.settings.orientation ∨ s.anyInService = false →
        within stored ∧ ∃ t, exec (.load bulk) s = .next t ∧ t.settings = stored ∧
          t.mgmt = { (s.answeredWith .ok 1 []).mgmt with cursor := { table := .settings, index := 1 } }) ∧
      (stored.orientation ≠ s.settings.orientation → s.anyInService = true →
        exec (.load bulk) s = .next (s.answeredWith .inUse 0 []))

/-- READ returns whole records of the cursor's table from the cursor's index on, as they stand: until the count is returned
(OK), the table ends (END_OF_TABLE) or the next record would not fit the reply (TRUNCATED); the cursor is left after the
last, and nothing else changes. A count of 0 is RANGE (R167).
The model's choice in it: log 16. -/
def Obligations.ReadReturnsRecords : Prop :=
  ∀ (count : Byte) (s : State), s.canTake →
    let cur := s.mgmt.cursor
    (count = 0 → exec (.read count) s = .next (s.answeredWith .range 0 [])) ∧
    (count ≠ 0 → ∃ m code, m ≤ count.toNat ∧
      (let records := (List.range m).flatMap (fun i => recordImage s cur.table (cur.index + i));
        exec (.read count) s = .next
          ({ s with mgmt := { s.mgmt with cursor := { table := cur.table, index := cur.index + m } } }.answeredWith
            code m records) ∧
        (m ≠ 0 → cur.index + m ≤ cur.table.records ∧ 14 + records.length ≤ s.settings.maxReply) ∧
        ((code = .ok ∧ m = count.toNat) ∨
          (code = .endOfTable ∧ m < count.toNat ∧ cur.table.records ≤ cur.index + m) ∨
          (code = .truncated ∧ m < count.toNat ∧ cur.index + m < cur.table.records ∧
            s.settings.maxReply < 14 + records.length + (recordImage s cur.table (cur.index + m)).length))))

/-- SERVICE IN with the lock FREE and the checks of R15 to R17 passed makes a DEFINED record IN_SERVICE, NORMAL with tag check
MATCH when attached; its working range becomes occupied; generation, digest, plans, target, engine and reports follow (R18). A
circuit above 1023 is refused with RANGE at once, and with the lock FREE the first check that fails gives NOT_PLACED,
NOT_DEFINED, INVALID_CIRCUIT (a field), ATTACHMENT (it does not fit the ends or overlaps one in service) or CONFLICT (a slot of
the working range is occupied or granted), with nothing changed (R14 to R17).
The model's choice in it: logs 2 and 16. -/
def Obligations.ServiceInTakesTheCircuit : Prop :=
  ∀ (c : Half) (s : State), s.canTake →
    (1024 ≤ c.toNat → exec (.serviceIn c) s = .next (s.answeredWith .range 0 [])) ∧
    (c.toNat < 1024 → s.lockHeld = false →
    (s.position = none → exec (.serviceIn c) s = .next (s.answeredWith .notPlaced 0 [])) ∧
    (s.position ≠ none → (∀ f att, s.circuit c.toNat ≠ .defined f att) →
      exec (.serviceIn c) s = .next (s.answeredWith .notDefined 0 [])) ∧
    ∀ own f att, s.position = some own → s.circuit c.toNat = .defined f att →
      let fields := f.endA < s.ringSize ∧ f.endB < s.ringSize ∧ f.endA ≠ f.endB ∧ f.start + f.width ≤ 64
      let ends := if own = f.endA ∨ own = f.endB then ∃ a, att = some a ∧ a.start + f.width ≤ 16 else att = none
      let untaken := ∀ a, att = some a → ∀ e ∈ inServiceOf s.table.circuits, ∀ y, e.2.2 = some y → y.port = a.port →
        ¬(a.start < y.start + e.2.1.width ∧ y.start < a.start + f.width)
      let free := ∀ k ∈ f.workingRoute s.ringSize, ∀ u, f.start ≤ u → u < f.start + f.width →
        look .none s.table.occupancy (64 * k + u) = .none ∧
        ∀ g ∈ s.engine.grants, ∀ f' a' r' k', s.circuit g.circuit = .inService f' a' r' k' →
          k ∈ f'.restorationRoute s.ringSize → ¬(g.start ≤ u ∧ u < g.start + f'.width)
      (¬fields → exec (.serviceIn c) s = .next (s.answeredWith .invalidCircuit 0 [])) ∧
      (fields → ¬(ends ∧ untaken) → exec (.serviceIn c) s = .next (s.answeredWith .attachment 0 [])) ∧
      (fields → ends → untaken → ¬free → exec (.serviceIn c) s = .next (s.answeredWith .conflict 0 [])) ∧
      (fields → ends → untaken → free →
      ∃ t, exec (.serviceIn c) s = .next t ∧
        t.circuit c.toNat = .inService f att .normal (att.map (fun _ =>
          { state := .match_, run := 0, begun := false, counted := false, squelched := false })) ∧
        (∀ d, d ≠ c.toNat → t.circuit d = s.circuit d) ∧
        (∀ k u, u < 64 → look .none t.table.occupancy (64 * k + u) =
          if k ∈ f.workingRoute s.ringSize ∧ f.start ≤ u ∧ u < f.start + f.width then
            if f.cls = .extra then .extra c.toNat else .working c.toNat
          else look .none s.table.occupancy (64 * k + u)) ∧
        t.table.generation = s.table.generation + 1 ∧ t.table.digest = digestOf t.table ∧ noPlanValid t ∧
        t.switch = { s.switch with target := some (targetOf t) } ∧ reported (.circuit c.toNat) t ∧
        (s.node.state = .active → s.map.setsEmpty = false →
          (s.engine.state = .idle ∨ ∃ k i, s.engine.state = .build k i) →
          t.engine.state = .gather (s.now + 10 * s.settings.gatherDelay)) ∧
        (s.map.setsEmpty = true → t.engine = s.engine) ∧ t.engine.grants = s.engine.grants ∧
        t.map = s.map ∧ t.table.ring = s.table.ring ∧ t.settings = s.settings ∧ t.node = s.node ∧
        t.ports = s.ports ∧ t.notices.records = s.notices.records ∧ t.counters = s.counters ∧ t.now = s.now ∧
        keepsStanding s t ∧ t.mgmt = (s.answeredWith .ok 0 []).mgmt))

/-- SERVICE OUT with the lock FREE makes an IN_SERVICE record DEFINED with its static fields kept, removes its grant and its
occupancy, and delivers the change as SERVICE IN does; no other circuit changes. Any other record is refused with
NOT_IN_SERVICE and nothing changes (R19); a circuit above 1023 is refused with RANGE at once, whatever the lock (R14).
The model's choice in it: logs 2 and 16. -/
def Obligations.ServiceOutReleasesTheCircuit : Prop :=
  ∀ (c : Half) (s : State), s.canTake →
    (1024 ≤ c.toNat → exec (.serviceOut c) s = .next (s.answeredWith .range 0 [])) ∧
    (c.toNat < 1024 → s.lockHeld = false → (∀ f att r k, s.circuit c.toNat ≠ .inService f att r k) →
      exec (.serviceOut c) s = .next (s.answeredWith .notInService 0 [])) ∧
    ∀ f att r k, c.toNat < 1024 → s.lockHeld = false → s.circuit c.toNat = .inService f att r k →
      f.start + f.width ≤ 64 → ∃ t, exec (.serviceOut c) s = .next t ∧ t.circuit c.toNat = .defined f att ∧
        (∀ d, d ≠ c.toNat → t.circuit d = s.circuit d) ∧
        t.engine.grants = s.engine.grants.filter (fun g => g.circuit != c.toNat) ∧
        (∀ j u, u < 64 → look .none t.table.occupancy (64 * j + u) =
          if j ∈ f.workingRoute s.ringSize ∧ f.start ≤ u ∧ u < f.start + f.width then .none
          else look .none s.table.occupancy (64 * j + u)) ∧
        t.table.generation = s.table.generation + 1 ∧ t.table.digest = digestOf t.table ∧ noPlanValid t ∧
        t.switch = { s.switch with target := some (targetOf t) } ∧ reported (.circuit c.toNat) t ∧
        (s.node.state = .active → s.map.setsEmpty = false →
          (s.engine.state = .idle ∨ ∃ k i, s.engine.state = .build k i) →
          t.engine.state = .gather (s.now + 10 * s.settings.gatherDelay)) ∧
        t.map = s.map ∧ t.table.ring = s.table.ring ∧ t.settings = s.settings ∧ t.node = s.node ∧
        t.ports = s.ports ∧ t.notices.records = s.notices.records ∧ t.counters = s.counters ∧ t.now = s.now ∧
        keepsStanding s t ∧ t.mgmt = (s.answeredWith .ok 0 []).mgmt

/-- A SERVICE directive that finds the lock HELD is held, with a limit of 200 ms (2,000 frame periods). When it is released
with the lock FREE it does what it would have done with the lock FREE at its arrival, and its chain ends or goes on with its
next directive; while the lock is HELD it goes on waiting (R91, R160, R168, R169).
The model's choice in it: logs 2, 16 and 28 (the rest of the chain waits for the next command). -/
def Obligations.HeldServiceWaitsForTheLock : Prop :=
  ∀ (c : Half) (s : State), s.canTake → c.toNat < 1024 →
    let holding (a : ServiceAction) (expiry : Nat) : State :=
      { s with mgmt := { s.mgmt with
        execution := .holding (Chain.start none []) { circuit := c.toNat, action := a, more := false } expiry } }
    (s.lockHeld = true →
      exec (.serviceIn c) s = .next (holding .in_ (s.now + 2000)) ∧
      exec (.serviceOut c) s = .next (holding .out (s.now + 2000)) ∧
      ∀ a e, exec .heldServiceRelease (holding a e) = .next (holding a e)) ∧
    (s.lockHeld = false → ∀ e,
      (∃ t, exec .heldServiceRelease (holding .in_ e) = .next t ∧ exec (.serviceIn c) s = .next t ∧
        t.mgmt.execution = .idle) ∧
      ∃ t, exec .heldServiceRelease (holding .out e) = .next t ∧ exec (.serviceOut c) s = .next t ∧
        t.mgmt.execution = .idle) ∧
    ∀ (ch : Chain) (more : Bool) (a : ServiceAction) (e : Nat),
      let held : State := { s with mgmt := { s.mgmt with
        execution := .holding ch { circuit := c.toNat, action := a, more := more } e } }
      (s.lockHeld = true → exec .heldServiceRelease held = .next held) ∧
      (s.lockHeld = false → ∀ (v : State) code,
        exec (if a = .in_ then .serviceIn c else .serviceOut c) s = .next (v.answeredWith code 0 []) →
        let w : State := { v with mgmt := { v.mgmt with lastItems := s.mgmt.lastItems, lastRecords := s.mgmt.lastRecords } }
        exec .heldServiceRelease held = .next (w.chainAnswered ch more code 0))

/-- A hold expiry refuses the held directive with ENGINE_BUSY: its item ends the chain, the reply is sent to the requester, the
request leaves the queue; no table changes, unless a RESTART was taken in the chain, which then acts (R161, R162, R169, R172).
The model's choice in it: logs 2 and 16. -/
def Obligations.HoldExpiryAnswersEngineBusy : Prop :=
  ∀ (s : State) (ch : Chain) (h : Held) (e : Nat), s.mgmt.execution = .holding ch h e →
    let items := ch.items ++ [{ index := ch.index, code := .engineBusy, count := 0 }]
    exec .holdTimerExpiry s = .next (State.chainEnded { s with now := max s.now e } ch items ch.records) ∧
    ∀ origin tag, ch.requester = some (origin, tag) → ch.restartDue = false →
      let u := sendFrame { kind := 2, destination := origin, origin := s.node.strap, hops := 32, tag := tag,
                           body := items.flatMap Item.bytes ++ ch.records } s
      exec .holdTimerExpiry s = .next
        { u with
          now := max s.now e
          mgmt := { u.mgmt with
            requests := s.mgmt.requests.tail, execution := .idle, lastItems := items, lastRecords := ch.records } }

/-- OPERATOR sets the request of the port copy named, and with it the own end of the span that port faces; in a STARTING or
ACTIVE node a changed request originates one notice with the new requests, a repeated one none; each span it changes is
reported, and when W or X differ from before the engine answers the map change by its state (R56, R58, R85, R86, R88, R92,
R119, R120); a side or value outside the codes is refused with RANGE and an unplaced node with NOT_PLACED (R45, R49, R170).
The model's choice in it: log 16. -/
def Obligations.OperatorSetsTheOwnRequest : Prop :=
  ∀ (side value : Byte) (s : State), s.canTake →
    (1 < side.toNat ∨ 2 < value.toNat → exec (.operator side value) s = .next (s.answeredWith .range 0 [])) ∧
    (side.toNat ≤ 1 → value.toNat ≤ 2 →
      (s.position = none → exec (.operator side value) s = .next (s.answeredWith .notPlaced 0 [])) ∧
      ∀ own, s.position = some own →
        let p : Side := if side = 0 then .east else .west
        let r : OperatorRequest := if value = 0 then .none else if value = 1 then .lockout else .force
        ∃ t, exec (.operator side value) s = .next t ∧
          t.map.copies.get p = { s.map.copies.get p with request := r } ∧
          t.map.copies.get p.other = s.map.copies.get p.other ∧
          (p = clockwiseSide s.settings.orientation → (t.span own).lowRequest = r) ∧
          (p = counterSide s.settings.orientation → (t.span (ringSub s.ringSize own 1)).highRequest = r) ∧
          t.mapDerived ∧
          (s.node.state.runs = true → (s.map.copies.get p).request ≠ r → originated s t) ∧
          (s.node.state.runs = false ∨ (s.map.copies.get p).request = r → t.notices = s.notices) ∧
          mapReported s t ∧ engineAnswers s t ∧
          t.node = s.node ∧ t.ports = s.ports ∧ t.table = { s.table with circuits := t.table.circuits } ∧
          inServiceOf t.table.circuits = inServiceOf s.table.circuits ∧ t.notices.records = s.notices.records ∧
          t.now = s.now ∧ keepsStanding s t ∧ t.mgmt = (s.answeredWith .ok 0 []).mgmt)

/-- CAPTURE copies every counter into the snapshot as one change, and with its flag set zeroes the live ones in the same
change; a flag above 1 is refused with RANGE; nothing else changes (R171).
The model's choice in it: log 16. -/
def Obligations.CaptureCopiesTheCounters : Prop :=
  ∀ (flag : Byte) (s : State), s.canTake →
    (1 < flag.toNat → exec (.capture flag) s = .next (s.answeredWith .range 0 [])) ∧
    (flag.toNat ≤ 1 → ∃ t, exec (.capture flag) s = .next t ∧
      (∀ n, look 0 t.reports.snapshot n = s.counter n) ∧
      (∀ n, t.counter n = if flag = 1 then 0 else s.counter n) ∧
      t = { s.answeredWith .ok 0 [] with
        reports := { s.reports with snapshot := t.reports.snapshot }, counters := t.counters })

/-- RESTART by itself, a chain of one, gives OK and then a restart; a restart acts on every block as one change: the engine
IDLE without grants, in-service records NORMAL with MATCH, no plan VALID, latches, records and requests cleared, the first
choice between two latches East's again; in a placed node the own ends hold the port copies' views with request NONE and every
other node's ends are ABSENT with request NONE; a placed node enters STARTING afresh with a target derived, its own notice with
STARTING set alone in both outgoing queues, the sequence moved on and the refresh timer restarted. Each circuit whose
restoration or tag-check state changes and each span that changes is reported. Ring map, settings, static fields, generation,
counters but for the abandonment of a pass in progress, and the Management Unit whole are kept (R24, R30, R60, R62, R75, R82,
R94, R110, R122, R142, R146, R149, R172).
The model's choice in it: logs 2, 16 and 20 (with a request cleared, the sequence moves on by two). -/
def Obligations.RestartStartsEveryBlockAfresh : Prop :=
  (∀ s : State, s.canTake → exec .restart s = .next (restart (s.answeredWith .ok 0 []))) ∧
  ∀ s : State, s.stateAllows → let t := restart s;
    t.engine.state = .idle ∧ t.engine.grants = [] ∧ t.engine.resultNumber = s.engine.resultNumber ∧ noPlanValid t ∧
    (∀ c f a r k, s.circuit c = .inService f a r k →
      (∃ k', t.circuit c = .inService f a .normal k' ∧ (k' = none ↔ k = none) ∧
        ∀ x, k' = some x → x.state = .match_ ∧ x.run = 0 ∧ x.squelched = false) ∧
      (r ≠ .normal ∨ (∃ x, k = some x ∧ x.state ≠ .match_) → reported (.circuit c) t)) ∧
    (∀ c, (∀ f a r k, s.circuit c ≠ .inService f a r k) → t.circuit c = s.circuit c) ∧
    (∀ p, (t.port p).latch = .empty ∧ t.port p = { s.port p with latch := .empty }) ∧ (∀ q, t.record q = .never) ∧
    t.notices.firstChoice = true ∧
    (∀ p, t.map.copies.get p = { s.map.copies.get p with request := .none }) ∧ t.mapDerived ∧
    t.ownEndsStored (fun _ => (absentEnd, absentEnd)) ∧ mapReported s t ∧ t.convergenceFresh ∧
    (s.position = none → (∀ p, t.notices.queues.get p = []) ∧ t.notices.sequence = s.notices.sequence ∧
      t.notices.refresh = none) ∧
    (∀ own, s.position = some own →
      let before := if s.map.hasRequest = true then s.notices.sequence + 1 else s.notices.sequence
      (∀ p, t.notices.queues.get p = [{ notice := { t.noticeAt own before with starting := true }, own := true }]) ∧
      t.notices.sequence = before + 1 ∧ t.notices.refresh = some (s.now + 10 * s.settings.refresh)) ∧
    t.node = { s.node with state :=
      if s.node.state.runs = true then .starting (s.now + 10 * s.settings.listen) else s.node.state } ∧
    t.switch = { s.switch with target := some (targetOf t) } ∧ reported .node t ∧
    t.table = { s.table with circuits := t.table.circuits } ∧ t.now = s.now ∧ keepsStanding s t ∧
    t.counter 1 = (if s.lockHeld = true then saturate (s.counter 1) else s.counter 1) ∧
    (∀ n, n ≠ 1 → t.counter n = s.counter n) ∧ t.mgmt = s.mgmt

/-- When its conditions hold, an emission takes up to 16 subjects whose categories are on from the head of the list into one
REPORT frame of 16 bytes for each, offers it to the queue R157 names, and moves the report number on; subjects of categories
that are off leave the list. Without its conditions nothing happens (R178 to R180). -/
def Obligations.EmissionTakesUpToSixteenSubjects : Prop :=
  ∀ s : State,
    let on := s.reports.subjects.filter s.settings.enabled
    ((s.reports.subjects = [] ∨ s.node.state = .unaddressed ∨ s.settings.reportDestination = 0 ∨
        ∀ q, namedQueue s s.settings.reportDestination = some q → 8 ≤ (s.mgmt.queues.get q).frames.length) →
      exec .reportEmission s = .next s) ∧
    ∀ q, s.reports.subjects ≠ [] → s.node.state ≠ .unaddressed → s.settings.reportDestination ≠ 0 →
      namedQueue s s.settings.reportDestination = some q → (s.mgmt.queues.get q).frames.length < 8 →
      (on = [] → exec .reportEmission s = .next { s with reports := { s.reports with subjects := [] } }) ∧
      (on ≠ [] → ∃ body, body = (on.take 16).flatMap (itemOf s) ∧ body.length = 16 * min 16 on.length ∧
        exec .reportEmission s = .next
          (setQueue q
            { s.mgmt.queues.get q with frames := (s.mgmt.queues.get q).frames ++
              [{ kind := 3, destination := s.settings.reportDestination, origin := s.node.strap, hops := 32
                 tag := s.reports.number, body := body }] }
            { s with reports := { s.reports with subjects := on.drop 16, number := s.reports.number + 1 } }))

/-! ### The frame assemblers -/

/-- A frame assembler takes its bytes one by one through HUNT, HEADER and BODY, counts a wrong length or check as a bad
frame and discards it, and delivers a good frame with its last byte; so the bytes of a frame that begin in HUNT do what the
frame as a whole does (R153 to R156). A line port that loses its last ALIGNED band, or aligns its first, marks a break,
which ends a frame in progress as bad (R31).
The model's choice in it: log 6 (the loss is found at band 3's frame) and log 23. -/
def Obligations.AssemblersCollectFrames : Prop :=
  ∀ s : State,
    (∀ q : MgmtPort,
      let becomes (a : Assembler) : State := { s with mgmt := { s.mgmt with assemblers := s.mgmt.assemblers.set q a } }
      let takes (b : Byte) (t : State) : Prop := assembleField q [b] s = t
      (s.mgmt.assemblers.get q = .hunt → takes 0 s ∧ ∀ b, b ≠ 0 → takes b (becomes (.header [b]))) ∧
      (∀ bytes b, s.mgmt.assemblers.get q = .header bytes →
        (bytes.length < 7 → takes b (becomes (.header (bytes ++ [b])))) ∧
        (bytes.length = 7 →
          let n := (bytes.getD 6 0).toNat * 256 + b.toNat
          takes b (if 12 ≤ n ∧ n ≤ 1024 then becomes (.body (bytes ++ [b]) n) else bump (ctrBad q) (becomes .hunt)))) ∧
      ∀ bytes n b, s.mgmt.assemblers.get q = .body bytes n →
        (bytes.length + 1 < n → takes b (becomes (.body (bytes ++ [b]) n))) ∧
        (bytes.length + 1 = n → frameOf (bytes ++ [b]) = none → takes b (bump (ctrBad q) (becomes .hunt))) ∧
        ∀ f, bytes.length + 1 = n → frameOf (bytes ++ [b]) = some f → takes b (receiveFrame q f (becomes .hunt))) ∧
    (∀ f : Frame, f.kind ≠ 0 → 2 ≤ f.body.length → f.body.length ≤ 1014 →
      (∀ p, s.mgmt.assemblers.get (.line p) = .hunt →
        exec (.managementFrameFromLine p f.bytes) s = .next (assembleField (.line p) f.bytes s)) ∧
      (s.mgmt.assemblers.get .tributary = .hunt →
        exec (.managementFrameFromTributary f.bytes) s = .next (assembleField .tributary f.bytes s))) ∧
    ∀ (p : Side) (b : Fin 4) (f : BandFrame),
      let broken (on : Bool) : Prop := ∃ t, exec (.bandFrame p b f) s = .next t ∧ (t.port p).streaming = on ∧
        t.mgmt = { s.mgmt with assemblers := s.mgmt.assemblers.set (.line p) .hunt } ∧
        t.counter (ctrBad (.line p)) =
          (if s.mgmt.assemblers.get (.line p) = .hunt then s.counter (ctrBad (.line p))
          else saturate (s.counter (ctrBad (.line p))))
      ((s.port p).streaming = true → b = 3 → (∀ c : Fin 4, c ≠ 3 → (s.band p c).alignment = .lost) →
        (s.band p b).alignment = .lost ∨ (s.band p b).run = 2 → f.alignmentWord = false → broken false) ∧
      ((s.port p).streaming = false → (∀ c : Fin 4, c ≤ b → (s.band p c).alignment = .lost) → (s.band p b).run = 1 →
        f.alignmentWord = true → f.management = List.replicate 32 0 → broken true)
end

