-- ==== Sys2Proof/Laws/State.lean ====
section
/-! SUPPORT. Laws of the state's updates: what each named update leaves as it was, and what it reads as. -/

namespace Sys2Proof

@[simp] theorem Pair.get_set_same {α : Type} (q : Pair α) (p : Side) (v : α) : (q.set p v).get p = v := by
  cases p <;> rfl

theorem Pair.get_set {α : Type} (q : Pair α) (p r : Side) (v : α) :
    (q.set p v).get r = if r = p then v else q.get r := by
  cases p <;> cases r <;> rfl

@[simp] theorem Pair.get_set_other {α : Type} (q : Pair α) (p : Side) (v : α) :
    (q.set p v).get p.other = q.get p.other := by
  cases p <;> rfl

theorem Quad.get_set {α : Type} (q : Quad α) {i j : Nat} (hi : i < 4) (hj : j < 4) (v : α) :
    (q.set i v).get j = if j = i then v else q.get j := by
  match i, j, hi, hj with
  | 0, 0, _, _ | 0, 1, _, _ | 0, 2, _, _ | 0, 3, _, _
  | 1, 0, _, _ | 1, 1, _, _ | 1, 2, _, _ | 1, 3, _, _
  | 2, 0, _, _ | 2, 1, _, _ | 2, 2, _, _ | 2, 3, _, _
  | 3, 0, _, _ | 3, 1, _, _ | 3, 2, _, _ | 3, 3, _, _ => rfl
  | i + 4, _, h, _ => omega
  | _, j + 4, _, h => omega

theorem Quad.get_map {α β : Type} (f : α → β) (q : Quad α) (i : Nat) : (q.map f).get i = f (q.get i) := by
  match i with
  | 0 | 1 | 2 | 3 => rfl
  | _ + 4 => rfl

theorem Quad.get_zip {α β γ : Type} (f : α → β → γ) (q : Quad α) (r : Quad β) (i : Nat) :
    (q.zip f r).get i = f (q.get i) (r.get i) := by
  match i with
  | 0 | 1 | 2 | 3 => rfl
  | _ + 4 => rfl

theorem Side.other_ne (p : Side) : p.other ≠ p := by cases p <;> decide

end Sys2Proof

namespace Sys2Proof.Machine

theorem Trio.get_set {α : Type} (q : Trio α) (p r : MgmtPort) (v : α) :
    (q.set p v).get r = if r = p then v else q.get r := by
  rcases p with (_ | _) | _ <;> rcases r with (_ | _) | _ <;> rfl

/-! ### Frames of the named updates -/

@[simp] theorem State.setPort_frame (s : State) (p : Side) (v : LinePort) :
    (s.setPort p v).pending = s.pending ∧
      (s.setPort p v).now = s.now ∧
      (s.setPort p v).node = s.node ∧
      (s.setPort p v).tribs = s.tribs ∧
      (s.setPort p v).map = s.map ∧
      (s.setPort p v).notices = s.notices ∧
      (s.setPort p v).table = s.table ∧
      (s.setPort p v).engine = s.engine ∧
      (s.setPort p v).plans = s.plans ∧
      (s.setPort p v).switch = s.switch ∧
      (s.setPort p v).mgmt = s.mgmt ∧
      (s.setPort p v).reports = s.reports ∧
      (s.setPort p v).counters = s.counters := ⟨rfl, rfl, rfl, rfl, rfl, rfl, rfl, rfl, rfl, rfl, rfl, rfl, rfl⟩

@[simp] theorem State.setBand_frame (s : State) (p : Side) (b : Nat) (v : Band) :
    (s.setBand p b v).pending = s.pending ∧
      (s.setBand p b v).now = s.now ∧
      (s.setBand p b v).node = s.node ∧
      (s.setBand p b v).tribs = s.tribs ∧
      (s.setBand p b v).map = s.map ∧
      (s.setBand p b v).notices = s.notices ∧
      (s.setBand p b v).table = s.table ∧
      (s.setBand p b v).engine = s.engine ∧
      (s.setBand p b v).plans = s.plans ∧
      (s.setBand p b v).switch = s.switch ∧
      (s.setBand p b v).mgmt = s.mgmt ∧
      (s.setBand p b v).reports = s.reports ∧
      (s.setBand p b v).counters = s.counters := ⟨rfl, rfl, rfl, rfl, rfl, rfl, rfl, rfl, rfl, rfl, rfl, rfl, rfl⟩

@[simp] theorem State.setTrib_frame (s : State) (t : Nat) (v : TributaryPort) :
    (s.setTrib t v).pending = s.pending ∧
      (s.setTrib t v).now = s.now ∧
      (s.setTrib t v).node = s.node ∧
      (s.setTrib t v).ports = s.ports ∧
      (s.setTrib t v).map = s.map ∧
      (s.setTrib t v).notices = s.notices ∧
      (s.setTrib t v).table = s.table ∧
      (s.setTrib t v).engine = s.engine ∧
      (s.setTrib t v).plans = s.plans ∧
      (s.setTrib t v).switch = s.switch ∧
      (s.setTrib t v).mgmt = s.mgmt ∧
      (s.setTrib t v).reports = s.reports ∧
      (s.setTrib t v).counters = s.counters := ⟨rfl, rfl, rfl, rfl, rfl, rfl, rfl, rfl, rfl, rfl, rfl, rfl, rfl⟩

@[simp] theorem State.setCircuit_frame (s : State) (c : Nat) (r : CircuitRecord) :
    (s.setCircuit c r).pending = s.pending ∧
      (s.setCircuit c r).now = s.now ∧
      (s.setCircuit c r).node = s.node ∧
      (s.setCircuit c r).ports = s.ports ∧
      (s.setCircuit c r).tribs = s.tribs ∧
      (s.setCircuit c r).map = s.map ∧
      (s.setCircuit c r).notices = s.notices ∧
      (s.setCircuit c r).engine = s.engine ∧
      (s.setCircuit c r).plans = s.plans ∧
      (s.setCircuit c r).switch = s.switch ∧
      (s.setCircuit c r).mgmt = s.mgmt ∧
      (s.setCircuit c r).reports = s.reports ∧
      (s.setCircuit c r).counters = s.counters := ⟨rfl, rfl, rfl, rfl, rfl, rfl, rfl, rfl, rfl, rfl, rfl, rfl, rfl⟩

@[simp] theorem State.setRecord_frame (s : State) (q : Nat) (r : NoticeRecord) :
    (s.setRecord q r).pending = s.pending ∧
      (s.setRecord q r).now = s.now ∧
      (s.setRecord q r).node = s.node ∧
      (s.setRecord q r).ports = s.ports ∧
      (s.setRecord q r).tribs = s.tribs ∧
      (s.setRecord q r).map = s.map ∧
      (s.setRecord q r).table = s.table ∧
      (s.setRecord q r).engine = s.engine ∧
      (s.setRecord q r).plans = s.plans ∧
      (s.setRecord q r).switch = s.switch ∧
      (s.setRecord q r).mgmt = s.mgmt ∧
      (s.setRecord q r).reports = s.reports ∧
      (s.setRecord q r).counters = s.counters := ⟨rfl, rfl, rfl, rfl, rfl, rfl, rfl, rfl, rfl, rfl, rfl, rfl, rfl⟩

@[simp] theorem State.setPlan_frame (s : State) (k : Nat) (v : Plan) :
    (s.setPlan k v).pending = s.pending ∧
      (s.setPlan k v).now = s.now ∧
      (s.setPlan k v).node = s.node ∧
      (s.setPlan k v).ports = s.ports ∧
      (s.setPlan k v).tribs = s.tribs ∧
      (s.setPlan k v).map = s.map ∧
      (s.setPlan k v).notices = s.notices ∧
      (s.setPlan k v).table = s.table ∧
      (s.setPlan k v).engine = s.engine ∧
      (s.setPlan k v).switch = s.switch ∧
      (s.setPlan k v).mgmt = s.mgmt ∧
      (s.setPlan k v).reports = s.reports ∧
      (s.setPlan k v).counters = s.counters := ⟨rfl, rfl, rfl, rfl, rfl, rfl, rfl, rfl, rfl, rfl, rfl, rfl, rfl⟩

@[simp] theorem State.reach_frame (s : State) (expiry : Nat) :
    (s.reach expiry).pending = s.pending ∧
      (s.reach expiry).node = s.node ∧
      (s.reach expiry).ports = s.ports ∧
      (s.reach expiry).tribs = s.tribs ∧
      (s.reach expiry).map = s.map ∧
      (s.reach expiry).notices = s.notices ∧
      (s.reach expiry).table = s.table ∧
      (s.reach expiry).engine = s.engine ∧
      (s.reach expiry).plans = s.plans ∧
      (s.reach expiry).switch = s.switch ∧
      (s.reach expiry).mgmt = s.mgmt ∧
      (s.reach expiry).reports = s.reports ∧
      (s.reach expiry).counters = s.counters := ⟨rfl, rfl, rfl, rfl, rfl, rfl, rfl, rfl, rfl, rfl, rfl, rfl, rfl⟩

@[simp] theorem bump_frame (s : State) (n : Nat) :
    (bump n s).pending = s.pending ∧
      (bump n s).now = s.now ∧
      (bump n s).node = s.node ∧
      (bump n s).ports = s.ports ∧
      (bump n s).tribs = s.tribs ∧
      (bump n s).map = s.map ∧
      (bump n s).notices = s.notices ∧
      (bump n s).table = s.table ∧
      (bump n s).engine = s.engine ∧
      (bump n s).plans = s.plans ∧
      (bump n s).switch = s.switch ∧
      (bump n s).mgmt = s.mgmt ∧
      (bump n s).reports = s.reports := ⟨rfl, rfl, rfl, rfl, rfl, rfl, rfl, rfl, rfl, rfl, rfl, rfl, rfl⟩

@[simp] theorem raise_frame (s : State) (x : Subject) :
    (raise x s).pending = s.pending ∧
      (raise x s).now = s.now ∧
      (raise x s).node = s.node ∧
      (raise x s).ports = s.ports ∧
      (raise x s).tribs = s.tribs ∧
      (raise x s).map = s.map ∧
      (raise x s).notices = s.notices ∧
      (raise x s).table = s.table ∧
      (raise x s).engine = s.engine ∧
      (raise x s).plans = s.plans ∧
      (raise x s).switch = s.switch ∧
      (raise x s).mgmt = s.mgmt ∧
      (raise x s).counters = s.counters := by
  unfold raise
  (try dsimp only)
  (repeat' split) <;> simp

@[simp] theorem raiseAll_frame (s : State) (xs : List Subject) :
    (raiseAll xs s).pending = s.pending ∧
      (raiseAll xs s).now = s.now ∧
      (raiseAll xs s).node = s.node ∧
      (raiseAll xs s).ports = s.ports ∧
      (raiseAll xs s).tribs = s.tribs ∧
      (raiseAll xs s).map = s.map ∧
      (raiseAll xs s).notices = s.notices ∧
      (raiseAll xs s).table = s.table ∧
      (raiseAll xs s).engine = s.engine ∧
      (raiseAll xs s).plans = s.plans ∧
      (raiseAll xs s).switch = s.switch ∧
      (raiseAll xs s).mgmt = s.mgmt ∧
      (raiseAll xs s).counters = s.counters := by
  unfold raiseAll
  induction xs generalizing s with
  | nil => simp
  | cons x xs ih => simpa using ih (raise x s)


end Sys2Proof.Machine
end

