-- ==== Sys2Proof/Laws/Frames.lean ====
section
/-! SUPPORT. Frames: for each shared operation and each command, the blocks of the state it leaves as they were. -/

namespace Sys2Proof.Machine

@[simp] theorem queueNotice_frame (s : State) (p : Side) (v : QueuedNotice) :
    (queueNotice p v s).pending = s.pending ∧
      (queueNotice p v s).now = s.now ∧
      (queueNotice p v s).node = s.node ∧
      (queueNotice p v s).ports = s.ports ∧
      (queueNotice p v s).tribs = s.tribs ∧
      (queueNotice p v s).map = s.map ∧
      (queueNotice p v s).table = s.table ∧
      (queueNotice p v s).engine = s.engine ∧
      (queueNotice p v s).plans = s.plans ∧
      (queueNotice p v s).switch = s.switch ∧
      (queueNotice p v s).mgmt = s.mgmt ∧
      (queueNotice p v s).reports = s.reports ∧
      (queueNotice p v s).counters = s.counters := ⟨rfl, rfl, rfl, rfl, rfl, rfl, rfl, rfl, rfl, rfl, rfl, rfl, rfl⟩

@[simp] theorem originate_frame (s : State) :
    (originate s).pending = s.pending ∧
      (originate s).now = s.now ∧
      (originate s).node = s.node ∧
      (originate s).ports = s.ports ∧
      (originate s).tribs = s.tribs ∧
      (originate s).map = s.map ∧
      (originate s).table = s.table ∧
      (originate s).engine = s.engine ∧
      (originate s).plans = s.plans ∧
      (originate s).switch = s.switch ∧
      (originate s).mgmt = s.mgmt ∧
      (originate s).reports = s.reports ∧
      (originate s).counters = s.counters := by
  unfold originate; split <;> simp

@[simp] theorem evaluateConvergence_frame (s : State) :
    (evaluateConvergence s).pending = s.pending ∧
      (evaluateConvergence s).now = s.now ∧
      (evaluateConvergence s).node = s.node ∧
      (evaluateConvergence s).ports = s.ports ∧
      (evaluateConvergence s).tribs = s.tribs ∧
      (evaluateConvergence s).map = s.map ∧
      (evaluateConvergence s).table = s.table ∧
      (evaluateConvergence s).engine = s.engine ∧
      (evaluateConvergence s).plans = s.plans ∧
      (evaluateConvergence s).switch = s.switch ∧
      (evaluateConvergence s).mgmt = s.mgmt ∧
      (evaluateConvergence s).counters = s.counters := by
  unfold evaluateConvergence; dsimp only; split <;> simp

@[simp] theorem refreshDigest_frame (s : State) :
    (refreshDigest s).pending = s.pending ∧
      (refreshDigest s).now = s.now ∧
      (refreshDigest s).node = s.node ∧
      (refreshDigest s).ports = s.ports ∧
      (refreshDigest s).tribs = s.tribs ∧
      (refreshDigest s).map = s.map ∧
      (refreshDigest s).engine = s.engine ∧
      (refreshDigest s).plans = s.plans ∧
      (refreshDigest s).switch = s.switch ∧
      (refreshDigest s).mgmt = s.mgmt ∧
      (refreshDigest s).counters = s.counters := by
  unfold refreshDigest; dsimp only; split <;> simp

@[simp] theorem refreshExpiry_frame (s : State) :
    (refreshExpiry s).pending = s.pending ∧
      (refreshExpiry s).node = s.node ∧
      (refreshExpiry s).ports = s.ports ∧
      (refreshExpiry s).tribs = s.tribs ∧
      (refreshExpiry s).map = s.map ∧
      (refreshExpiry s).table = s.table ∧
      (refreshExpiry s).engine = s.engine ∧
      (refreshExpiry s).plans = s.plans ∧
      (refreshExpiry s).switch = s.switch ∧
      (refreshExpiry s).mgmt = s.mgmt ∧
      (refreshExpiry s).reports = s.reports ∧
      (refreshExpiry s).counters = s.counters := by
  unfold refreshExpiry; split <;> simp

@[simp] theorem deriveTarget_frame (s : State) :
    (deriveTarget s).pending = s.pending ∧
      (deriveTarget s).now = s.now ∧
      (deriveTarget s).node = s.node ∧
      (deriveTarget s).ports = s.ports ∧
      (deriveTarget s).tribs = s.tribs ∧
      (deriveTarget s).map = s.map ∧
      (deriveTarget s).notices = s.notices ∧
      (deriveTarget s).table = s.table ∧
      (deriveTarget s).engine = s.engine ∧
      (deriveTarget s).plans = s.plans ∧
      (deriveTarget s).mgmt = s.mgmt ∧
      (deriveTarget s).reports = s.reports ∧
      (deriveTarget s).counters = s.counters := ⟨rfl, rfl, rfl, rfl, rfl, rfl, rfl, rfl, rfl, rfl, rfl, rfl, rfl⟩

@[simp] theorem countFrames_frame (s : State) :
    (countFrames s).pending = s.pending ∧
      (countFrames s).now = s.now ∧
      (countFrames s).node = s.node ∧
      (countFrames s).ports = s.ports ∧
      (countFrames s).tribs = s.tribs ∧
      (countFrames s).map = s.map ∧
      (countFrames s).notices = s.notices ∧
      (countFrames s).engine = s.engine ∧
      (countFrames s).plans = s.plans ∧
      (countFrames s).switch = s.switch ∧
      (countFrames s).mgmt = s.mgmt ∧
      (countFrames s).counters = s.counters := by simp [countFrames]

@[simp] theorem swing_frame (s : State) :
    (swing s).pending = s.pending ∧
      (swing s).now = s.now ∧
      (swing s).node = s.node ∧
      (swing s).ports = s.ports ∧
      (swing s).tribs = s.tribs ∧
      (swing s).map = s.map ∧
      (swing s).notices = s.notices ∧
      (swing s).engine = s.engine ∧
      (swing s).plans = s.plans ∧
      (swing s).mgmt = s.mgmt ∧
      (swing s).reports = s.reports := by
  unfold swing; split <;> simp

@[simp] theorem frameBoundary_frame (s : State) :
    (frameBoundary s).pending = s.pending ∧
      (frameBoundary s).node = s.node ∧
      (frameBoundary s).ports = s.ports ∧
      (frameBoundary s).tribs = s.tribs ∧
      (frameBoundary s).map = s.map ∧
      (frameBoundary s).notices = s.notices ∧
      (frameBoundary s).engine = s.engine ∧
      (frameBoundary s).plans = s.plans ∧
      (frameBoundary s).mgmt = s.mgmt := by simp [frameBoundary]

@[simp] theorem tagStateChange_frame (s : State) (c : Nat) :
    (tagStateChange c s).pending = s.pending ∧
      (tagStateChange c s).now = s.now ∧
      (tagStateChange c s).node = s.node ∧
      (tagStateChange c s).ports = s.ports ∧
      (tagStateChange c s).tribs = s.tribs ∧
      (tagStateChange c s).map = s.map ∧
      (tagStateChange c s).notices = s.notices ∧
      (tagStateChange c s).engine = s.engine ∧
      (tagStateChange c s).plans = s.plans ∧
      (tagStateChange c s).switch = s.switch ∧
      (tagStateChange c s).mgmt = s.mgmt ∧
      (tagStateChange c s).counters = s.counters := by
  unfold tagStateChange; dsimp only; repeat' split
  all_goals simp

@[simp] theorem stalePlans_frame (s : State) :
    (stalePlans s).pending = s.pending ∧
      (stalePlans s).now = s.now ∧
      (stalePlans s).node = s.node ∧
      (stalePlans s).ports = s.ports ∧
      (stalePlans s).tribs = s.tribs ∧
      (stalePlans s).map = s.map ∧
      (stalePlans s).notices = s.notices ∧
      (stalePlans s).table = s.table ∧
      (stalePlans s).engine = s.engine ∧
      (stalePlans s).switch = s.switch ∧
      (stalePlans s).mgmt = s.mgmt ∧
      (stalePlans s).reports = s.reports ∧
      (stalePlans s).counters = s.counters := ⟨rfl, rfl, rfl, rfl, rfl, rfl, rfl, rfl, rfl, rfl, rfl, rfl, rfl⟩

@[simp] theorem plansOfRing_frame (s : State) :
    (plansOfRing s).pending = s.pending ∧
      (plansOfRing s).now = s.now ∧
      (plansOfRing s).node = s.node ∧
      (plansOfRing s).ports = s.ports ∧
      (plansOfRing s).tribs = s.tribs ∧
      (plansOfRing s).map = s.map ∧
      (plansOfRing s).notices = s.notices ∧
      (plansOfRing s).table = s.table ∧
      (plansOfRing s).engine = s.engine ∧
      (plansOfRing s).switch = s.switch ∧
      (plansOfRing s).mgmt = s.mgmt ∧
      (plansOfRing s).reports = s.reports ∧
      (plansOfRing s).counters = s.counters := ⟨rfl, rfl, rfl, rfl, rfl, rfl, rfl, rfl, rfl, rfl, rfl, rfl, rfl⟩

@[simp] theorem install_frame (s : State) (r : PassResult) :
    (install r s).pending = s.pending ∧
      (install r s).now = s.now ∧
      (install r s).node = s.node ∧
      (install r s).ports = s.ports ∧
      (install r s).tribs = s.tribs ∧
      (install r s).map = s.map ∧
      (install r s).notices = s.notices ∧
      (install r s).plans = s.plans ∧
      (install r s).mgmt = s.mgmt ∧
      (install r s).counters = s.counters := by simp [install]

@[simp] theorem setEngine_frame (s : State) (e : EngineState) :
    (setEngine e s).pending = s.pending ∧
      (setEngine e s).now = s.now ∧
      (setEngine e s).node = s.node ∧
      (setEngine e s).ports = s.ports ∧
      (setEngine e s).tribs = s.tribs ∧
      (setEngine e s).map = s.map ∧
      (setEngine e s).notices = s.notices ∧
      (setEngine e s).table = s.table ∧
      (setEngine e s).plans = s.plans ∧
      (setEngine e s).switch = s.switch ∧
      (setEngine e s).mgmt = s.mgmt ∧
      (setEngine e s).reports = s.reports ∧
      (setEngine e s).counters = s.counters := ⟨rfl, rfl, rfl, rfl, rfl, rfl, rfl, rfl, rfl, rfl, rfl, rfl, rfl⟩

@[simp] theorem abandonBuild_frame (s : State) :
    (abandonBuild s).pending = s.pending ∧
      (abandonBuild s).now = s.now ∧
      (abandonBuild s).node = s.node ∧
      (abandonBuild s).ports = s.ports ∧
      (abandonBuild s).tribs = s.tribs ∧
      (abandonBuild s).map = s.map ∧
      (abandonBuild s).notices = s.notices ∧
      (abandonBuild s).table = s.table ∧
      (abandonBuild s).switch = s.switch ∧
      (abandonBuild s).mgmt = s.mgmt ∧
      (abandonBuild s).reports = s.reports ∧
      (abandonBuild s).counters = s.counters := by
  unfold abandonBuild; split <;> simp

@[simp] theorem startGather_frame (s : State) :
    (startGather s).pending = s.pending ∧
      (startGather s).now = s.now ∧
      (startGather s).node = s.node ∧
      (startGather s).ports = s.ports ∧
      (startGather s).tribs = s.tribs ∧
      (startGather s).map = s.map ∧
      (startGather s).notices = s.notices ∧
      (startGather s).table = s.table ∧
      (startGather s).plans = s.plans ∧
      (startGather s).switch = s.switch ∧
      (startGather s).mgmt = s.mgmt ∧
      (startGather s).reports = s.reports ∧
      (startGather s).counters = s.counters := ⟨rfl, rfl, rfl, rfl, rfl, rfl, rfl, rfl, rfl, rfl, rfl, rfl, rfl⟩

@[simp] theorem restartPass_frame (s : State) :
    (restartPass s).pending = s.pending ∧
      (restartPass s).now = s.now ∧
      (restartPass s).node = s.node ∧
      (restartPass s).ports = s.ports ∧
      (restartPass s).tribs = s.tribs ∧
      (restartPass s).map = s.map ∧
      (restartPass s).notices = s.notices ∧
      (restartPass s).table = s.table ∧
      (restartPass s).plans = s.plans ∧
      (restartPass s).switch = s.switch ∧
      (restartPass s).mgmt = s.mgmt ∧
      (restartPass s).reports = s.reports := ⟨rfl, rfl, rfl, rfl, rfl, rfl, rfl, rfl, rfl, rfl, rfl, rfl⟩

@[simp] theorem applyPlan_frame (s : State) (r : PassResult) :
    (applyPlan r s).pending = s.pending ∧
      (applyPlan r s).now = s.now ∧
      (applyPlan r s).node = s.node ∧
      (applyPlan r s).ports = s.ports ∧
      (applyPlan r s).tribs = s.tribs ∧
      (applyPlan r s).map = s.map ∧
      (applyPlan r s).notices = s.notices ∧
      (applyPlan r s).plans = s.plans ∧
      (applyPlan r s).mgmt = s.mgmt := by simp [applyPlan]

@[simp] theorem answerMapChange_frame (s : State) :
    (answerMapChange s).pending = s.pending ∧
      (answerMapChange s).now = s.now ∧
      (answerMapChange s).node = s.node ∧
      (answerMapChange s).ports = s.ports ∧
      (answerMapChange s).tribs = s.tribs ∧
      (answerMapChange s).map = s.map ∧
      (answerMapChange s).notices = s.notices ∧
      (answerMapChange s).plans = s.plans ∧
      (answerMapChange s).mgmt = s.mgmt := by
  unfold answerMapChange; split <;> simp

@[simp] theorem mapChange_frame (s : State) :
    (mapChange s).pending = s.pending ∧
      (mapChange s).now = s.now ∧
      (mapChange s).node = s.node ∧
      (mapChange s).ports = s.ports ∧
      (mapChange s).tribs = s.tribs ∧
      (mapChange s).map = s.map ∧
      (mapChange s).notices = s.notices ∧
      (mapChange s).mgmt = s.mgmt := by
  unfold mapChange; repeat' split
  all_goals simp

@[simp] theorem generationChange_frame (s : State) :
    (generationChange s).pending = s.pending ∧
      (generationChange s).now = s.now ∧
      (generationChange s).node = s.node ∧
      (generationChange s).ports = s.ports ∧
      (generationChange s).tribs = s.tribs ∧
      (generationChange s).map = s.map ∧
      (generationChange s).notices = s.notices ∧
      (generationChange s).table = s.table ∧
      (generationChange s).switch = s.switch ∧
      (generationChange s).mgmt = s.mgmt ∧
      (generationChange s).reports = s.reports := by
  unfold generationChange; repeat' split
  all_goals simp

@[simp] theorem endWork_frame (s : State) :
    (endWork s).pending = s.pending ∧
      (endWork s).now = s.now ∧
      (endWork s).node = s.node ∧
      (endWork s).ports = s.ports ∧
      (endWork s).tribs = s.tribs ∧
      (endWork s).map = s.map ∧
      (endWork s).notices = s.notices ∧
      (endWork s).table = s.table ∧
      (endWork s).switch = s.switch ∧
      (endWork s).mgmt = s.mgmt ∧
      (endWork s).reports = s.reports := by
  unfold endWork; split <;> simp

@[simp] theorem gatherExpiry_frame (s : State) :
    (gatherExpiry s).pending = s.pending ∧
      (gatherExpiry s).node = s.node ∧
      (gatherExpiry s).ports = s.ports ∧
      (gatherExpiry s).tribs = s.tribs ∧
      (gatherExpiry s).map = s.map ∧
      (gatherExpiry s).notices = s.notices ∧
      (gatherExpiry s).table = s.table ∧
      (gatherExpiry s).plans = s.plans ∧
      (gatherExpiry s).switch = s.switch ∧
      (gatherExpiry s).mgmt = s.mgmt ∧
      (gatherExpiry s).reports = s.reports ∧
      (gatherExpiry s).counters = s.counters := by
  unfold gatherExpiry; split <;> simp

@[simp] theorem passCompletion_frame (s : State) :
    (passCompletion s).pending = s.pending ∧
      (passCompletion s).now = s.now ∧
      (passCompletion s).node = s.node ∧
      (passCompletion s).ports = s.ports ∧
      (passCompletion s).tribs = s.tribs ∧
      (passCompletion s).map = s.map ∧
      (passCompletion s).notices = s.notices ∧
      (passCompletion s).plans = s.plans ∧
      (passCompletion s).mgmt = s.mgmt := by
  unfold passCompletion; split <;> simp

@[simp] theorem buildStart_frame (s : State) :
    (buildStart s).pending = s.pending ∧
      (buildStart s).now = s.now ∧
      (buildStart s).node = s.node ∧
      (buildStart s).ports = s.ports ∧
      (buildStart s).tribs = s.tribs ∧
      (buildStart s).map = s.map ∧
      (buildStart s).notices = s.notices ∧
      (buildStart s).table = s.table ∧
      (buildStart s).switch = s.switch ∧
      (buildStart s).mgmt = s.mgmt ∧
      (buildStart s).reports = s.reports ∧
      (buildStart s).counters = s.counters := by
  unfold buildStart; split <;> simp

@[simp] theorem buildEnd_frame (s : State) :
    (buildEnd s).pending = s.pending ∧
      (buildEnd s).now = s.now ∧
      (buildEnd s).node = s.node ∧
      (buildEnd s).ports = s.ports ∧
      (buildEnd s).tribs = s.tribs ∧
      (buildEnd s).map = s.map ∧
      (buildEnd s).notices = s.notices ∧
      (buildEnd s).table = s.table ∧
      (buildEnd s).switch = s.switch ∧
      (buildEnd s).mgmt = s.mgmt ∧
      (buildEnd s).counters = s.counters := by
  unfold buildEnd; dsimp only; repeat' split
  all_goals simp

@[simp] theorem writeMap_frame (s : State) (m : FailureMap) :
    (writeMap m s).pending = s.pending ∧
      (writeMap m s).now = s.now ∧
      (writeMap m s).node = s.node ∧
      (writeMap m s).ports = s.ports ∧
      (writeMap m s).tribs = s.tribs ∧
      (writeMap m s).notices = s.notices ∧
      (writeMap m s).table = s.table ∧
      (writeMap m s).engine = s.engine ∧
      (writeMap m s).plans = s.plans ∧
      (writeMap m s).switch = s.switch ∧
      (writeMap m s).mgmt = s.mgmt ∧
      (writeMap m s).counters = s.counters := by simp [writeMap]

@[simp] theorem deliverMapChange_frame (s : State) (before : FailureMap) :
    (deliverMapChange before s).pending = s.pending ∧
      (deliverMapChange before s).now = s.now ∧
      (deliverMapChange before s).node = s.node ∧
      (deliverMapChange before s).ports = s.ports ∧
      (deliverMapChange before s).tribs = s.tribs ∧
      (deliverMapChange before s).map = s.map ∧
      (deliverMapChange before s).notices = s.notices ∧
      (deliverMapChange before s).mgmt = s.mgmt := by
  unfold deliverMapChange; split <;> simp

@[simp] theorem viewsDelivered_frame (s : State) (side : Side) (views : Quad View) :
    (viewsDelivered side views s).pending = s.pending ∧
      (viewsDelivered side views s).now = s.now ∧
      (viewsDelivered side views s).node = s.node ∧
      (viewsDelivered side views s).ports = s.ports ∧
      (viewsDelivered side views s).tribs = s.tribs ∧
      (viewsDelivered side views s).mgmt = s.mgmt := by
  unfold viewsDelivered; split <;> simp

@[simp] theorem setRequest_frame (s : State) (p : Nat) (side : Side) (r : OperatorRequest) :
    (setRequest p side r s).pending = s.pending ∧
      (setRequest p side r s).now = s.now ∧
      (setRequest p side r s).node = s.node ∧
      (setRequest p side r s).ports = s.ports ∧
      (setRequest p side r s).tribs = s.tribs ∧
      (setRequest p side r s).mgmt = s.mgmt := by
  unfold setRequest; split <;> simp

@[simp] theorem rebuildMap_frame (s : State) :
    (rebuildMap s).pending = s.pending ∧
      (rebuildMap s).now = s.now ∧
      (rebuildMap s).node = s.node ∧
      (rebuildMap s).ports = s.ports ∧
      (rebuildMap s).tribs = s.tribs ∧
      (rebuildMap s).notices = s.notices ∧
      (rebuildMap s).table = s.table ∧
      (rebuildMap s).engine = s.engine ∧
      (rebuildMap s).plans = s.plans ∧
      (rebuildMap s).switch = s.switch ∧
      (rebuildMap s).mgmt = s.mgmt ∧
      (rebuildMap s).counters = s.counters := by simp [rebuildMap]

@[simp] theorem restartMap_frame (s : State) :
    (restartMap s).pending = s.pending ∧
      (restartMap s).now = s.now ∧
      (restartMap s).node = s.node ∧
      (restartMap s).ports = s.ports ∧
      (restartMap s).tribs = s.tribs ∧
      (restartMap s).notices = s.notices ∧
      (restartMap s).table = s.table ∧
      (restartMap s).engine = s.engine ∧
      (restartMap s).plans = s.plans ∧
      (restartMap s).switch = s.switch ∧
      (restartMap s).mgmt = s.mgmt ∧
      (restartMap s).counters = s.counters := by simp [restartMap]

@[simp] theorem orientationChanged_frame (s : State) :
    (orientationChanged s).pending = s.pending ∧
      (orientationChanged s).now = s.now ∧
      (orientationChanged s).node = s.node ∧
      (orientationChanged s).ports = s.ports ∧
      (orientationChanged s).tribs = s.tribs ∧
      (orientationChanged s).mgmt = s.mgmt := by
  unfold orientationChanged; dsimp only; split
  · simp
  · split <;> simp

@[simp] theorem actOnDegradeChanged_frame (s : State) :
    (actOnDegradeChanged s).pending = s.pending ∧
      (actOnDegradeChanged s).now = s.now ∧
      (actOnDegradeChanged s).node = s.node ∧
      (actOnDegradeChanged s).ports = s.ports ∧
      (actOnDegradeChanged s).tribs = s.tribs ∧
      (actOnDegradeChanged s).notices = s.notices ∧
      (actOnDegradeChanged s).mgmt = s.mgmt := by simp [actOnDegradeChanged]

@[simp] theorem takeLatch_frame (s : State) (p : Side) (chosen : Bool) :
    (takeLatch p chosen s).pending = s.pending ∧
      (takeLatch p chosen s).now = s.now ∧
      (takeLatch p chosen s).node = s.node ∧
      (takeLatch p chosen s).tribs = s.tribs ∧
      (takeLatch p chosen s).map = s.map ∧
      (takeLatch p chosen s).table = s.table ∧
      (takeLatch p chosen s).engine = s.engine ∧
      (takeLatch p chosen s).plans = s.plans ∧
      (takeLatch p chosen s).switch = s.switch ∧
      (takeLatch p chosen s).mgmt = s.mgmt ∧
      (takeLatch p chosen s).reports = s.reports ∧
      (takeLatch p chosen s).counters = s.counters := by simp [takeLatch]

@[simp] theorem forward_frame (s : State) (p : Side) (v : Notice) :
    (forward p v s).pending = s.pending ∧
      (forward p v s).now = s.now ∧
      (forward p v s).node = s.node ∧
      (forward p v s).ports = s.ports ∧
      (forward p v s).tribs = s.tribs ∧
      (forward p v s).map = s.map ∧
      (forward p v s).table = s.table ∧
      (forward p v s).engine = s.engine ∧
      (forward p v s).plans = s.plans ∧
      (forward p v s).switch = s.switch ∧
      (forward p v s).mgmt = s.mgmt ∧
      (forward p v s).reports = s.reports ∧
      (forward p v s).counters = s.counters := by
  unfold forward; split <;> simp

@[simp] theorem applyNotice_frame (s : State) (p : Side) (v : Notice) :
    (applyNotice p v s).pending = s.pending ∧
      (applyNotice p v s).now = s.now ∧
      (applyNotice p v s).node = s.node ∧
      (applyNotice p v s).ports = s.ports ∧
      (applyNotice p v s).tribs = s.tribs ∧
      (applyNotice p v s).table = s.table ∧
      (applyNotice p v s).engine = s.engine ∧
      (applyNotice p v s).plans = s.plans ∧
      (applyNotice p v s).switch = s.switch ∧
      (applyNotice p v s).mgmt = s.mgmt ∧
      (applyNotice p v s).counters = s.counters := by simp [applyNotice]

@[simp] theorem countForeign_frame (s : State) (p : Side) :
    (countForeign p s).pending = s.pending ∧
      (countForeign p s).now = s.now ∧
      (countForeign p s).node = s.node ∧
      (countForeign p s).ports = s.ports ∧
      (countForeign p s).tribs = s.tribs ∧
      (countForeign p s).map = s.map ∧
      (countForeign p s).notices = s.notices ∧
      (countForeign p s).table = s.table ∧
      (countForeign p s).engine = s.engine ∧
      (countForeign p s).plans = s.plans ∧
      (countForeign p s).switch = s.switch ∧
      (countForeign p s).mgmt = s.mgmt := by simp [countForeign]

@[simp] theorem handleNotice_frame (s : State) (p : Side) (v : Notice) :
    (handleNotice p v s).pending = s.pending ∧
      (handleNotice p v s).now = s.now ∧
      (handleNotice p v s).node = s.node ∧
      (handleNotice p v s).ports = s.ports ∧
      (handleNotice p v s).tribs = s.tribs ∧
      (handleNotice p v s).mgmt = s.mgmt := by
  unfold handleNotice; repeat' split
  all_goals simp

@[simp] theorem handleField_frame (s : State) (p : Side) (cls : NoticeClass) (f : NoticeField) :
    (handleField p cls f s).pending = s.pending ∧
      (handleField p cls f s).now = s.now ∧
      (handleField p cls f s).node = s.node ∧
      (handleField p cls f s).ports = s.ports ∧
      (handleField p cls f s).tribs = s.tribs ∧
      (handleField p cls f s).mgmt = s.mgmt := by
  unfold handleField; split <;> simp

@[simp] theorem takeNotice_frame (s : State) :
    (takeNotice s).pending = s.pending ∧
      (takeNotice s).now = s.now ∧
      (takeNotice s).node = s.node ∧
      (takeNotice s).tribs = s.tribs ∧
      (takeNotice s).mgmt = s.mgmt := by
  unfold takeNotice; repeat' split
  all_goals simp

@[simp] theorem stalenessExpiry_frame (s : State) (q : Nat) :
    (stalenessExpiry q s).pending = s.pending ∧
      (stalenessExpiry q s).node = s.node ∧
      (stalenessExpiry q s).ports = s.ports ∧
      (stalenessExpiry q s).tribs = s.tribs ∧
      (stalenessExpiry q s).mgmt = s.mgmt := by
  unfold stalenessExpiry; split <;> simp

@[simp] theorem setQueue_frame (s : State) (q : MgmtPort) (v : FrameQueue) :
    (setQueue q v s).pending = s.pending ∧
      (setQueue q v s).now = s.now ∧
      (setQueue q v s).node = s.node ∧
      (setQueue q v s).ports = s.ports ∧
      (setQueue q v s).tribs = s.tribs ∧
      (setQueue q v s).map = s.map ∧
      (setQueue q v s).notices = s.notices ∧
      (setQueue q v s).table = s.table ∧
      (setQueue q v s).engine = s.engine ∧
      (setQueue q v s).plans = s.plans ∧
      (setQueue q v s).switch = s.switch ∧
      (setQueue q v s).reports = s.reports ∧
      (setQueue q v s).counters = s.counters := ⟨rfl, rfl, rfl, rfl, rfl, rfl, rfl, rfl, rfl, rfl, rfl, rfl, rfl⟩

@[simp] theorem offerFrame_frame (s : State) (q : MgmtPort) (f : Frame) :
    (offerFrame q f s).pending = s.pending ∧
      (offerFrame q f s).now = s.now ∧
      (offerFrame q f s).node = s.node ∧
      (offerFrame q f s).ports = s.ports ∧
      (offerFrame q f s).tribs = s.tribs ∧
      (offerFrame q f s).map = s.map ∧
      (offerFrame q f s).notices = s.notices ∧
      (offerFrame q f s).table = s.table ∧
      (offerFrame q f s).engine = s.engine ∧
      (offerFrame q f s).plans = s.plans ∧
      (offerFrame q f s).switch = s.switch ∧
      (offerFrame q f s).reports = s.reports := by
  unfold offerFrame; dsimp only; split <;> simp

@[simp] theorem advanceStream_frame (s : State) (q : MgmtPort) :
    (advanceStream q s).pending = s.pending ∧
      (advanceStream q s).now = s.now ∧
      (advanceStream q s).node = s.node ∧
      (advanceStream q s).ports = s.ports ∧
      (advanceStream q s).tribs = s.tribs ∧
      (advanceStream q s).map = s.map ∧
      (advanceStream q s).notices = s.notices ∧
      (advanceStream q s).table = s.table ∧
      (advanceStream q s).engine = s.engine ∧
      (advanceStream q s).plans = s.plans ∧
      (advanceStream q s).switch = s.switch ∧
      (advanceStream q s).reports = s.reports ∧
      (advanceStream q s).counters = s.counters := ⟨rfl, rfl, rfl, rfl, rfl, rfl, rfl, rfl, rfl, rfl, rfl, rfl, rfl⟩

@[simp] theorem sendFrame_frame (s : State) (f : Frame) :
    (sendFrame f s).pending = s.pending ∧
      (sendFrame f s).now = s.now ∧
      (sendFrame f s).node = s.node ∧
      (sendFrame f s).ports = s.ports ∧
      (sendFrame f s).tribs = s.tribs ∧
      (sendFrame f s).map = s.map ∧
      (sendFrame f s).notices = s.notices ∧
      (sendFrame f s).table = s.table ∧
      (sendFrame f s).engine = s.engine ∧
      (sendFrame f s).plans = s.plans ∧
      (sendFrame f s).switch = s.switch ∧
      (sendFrame f s).reports = s.reports := by
  unfold sendFrame; split <;> simp

@[simp] theorem sendCode_frame (s : State) (dest : Byte) (tag : Half) (code : ResultCode) :
    (sendCode dest tag code s).pending = s.pending ∧
      (sendCode dest tag code s).now = s.now ∧
      (sendCode dest tag code s).node = s.node ∧
      (sendCode dest tag code s).ports = s.ports ∧
      (sendCode dest tag code s).tribs = s.tribs ∧
      (sendCode dest tag code s).map = s.map ∧
      (sendCode dest tag code s).notices = s.notices ∧
      (sendCode dest tag code s).table = s.table ∧
      (sendCode dest tag code s).engine = s.engine ∧
      (sendCode dest tag code s).plans = s.plans ∧
      (sendCode dest tag code s).switch = s.switch ∧
      (sendCode dest tag code s).reports = s.reports := by simp [sendCode]

@[simp] theorem offerRequest_frame (s : State) (f : Frame) :
    (offerRequest f s).pending = s.pending ∧
      (offerRequest f s).now = s.now ∧
      (offerRequest f s).node = s.node ∧
      (offerRequest f s).ports = s.ports ∧
      (offerRequest f s).tribs = s.tribs ∧
      (offerRequest f s).map = s.map ∧
      (offerRequest f s).notices = s.notices ∧
      (offerRequest f s).table = s.table ∧
      (offerRequest f s).engine = s.engine ∧
      (offerRequest f s).plans = s.plans ∧
      (offerRequest f s).switch = s.switch ∧
      (offerRequest f s).reports = s.reports := by
  unfold offerRequest; split <;> simp

@[simp] theorem forwardFrame_frame (s : State) (p : Side) (f : Frame) :
    (forwardFrame p f s).pending = s.pending ∧
      (forwardFrame p f s).now = s.now ∧
      (forwardFrame p f s).node = s.node ∧
      (forwardFrame p f s).ports = s.ports ∧
      (forwardFrame p f s).tribs = s.tribs ∧
      (forwardFrame p f s).map = s.map ∧
      (forwardFrame p f s).notices = s.notices ∧
      (forwardFrame p f s).table = s.table ∧
      (forwardFrame p f s).engine = s.engine ∧
      (forwardFrame p f s).plans = s.plans ∧
      (forwardFrame p f s).switch = s.switch ∧
      (forwardFrame p f s).reports = s.reports := by
  unfold forwardFrame; split <;> simp

@[simp] theorem receiveFromLine_frame (s : State) (p : Side) (f : Frame) :
    (receiveFromLine p f s).pending = s.pending ∧
      (receiveFromLine p f s).now = s.now ∧
      (receiveFromLine p f s).node = s.node ∧
      (receiveFromLine p f s).ports = s.ports ∧
      (receiveFromLine p f s).tribs = s.tribs ∧
      (receiveFromLine p f s).map = s.map ∧
      (receiveFromLine p f s).notices = s.notices ∧
      (receiveFromLine p f s).table = s.table ∧
      (receiveFromLine p f s).engine = s.engine ∧
      (receiveFromLine p f s).plans = s.plans ∧
      (receiveFromLine p f s).switch = s.switch ∧
      (receiveFromLine p f s).reports = s.reports := by
  unfold receiveFromLine; repeat' split
  all_goals simp

@[simp] theorem injectRequest_frame (s : State) (f : Frame) :
    (injectRequest f s).pending = s.pending ∧
      (injectRequest f s).now = s.now ∧
      (injectRequest f s).node = s.node ∧
      (injectRequest f s).ports = s.ports ∧
      (injectRequest f s).tribs = s.tribs ∧
      (injectRequest f s).map = s.map ∧
      (injectRequest f s).notices = s.notices ∧
      (injectRequest f s).table = s.table ∧
      (injectRequest f s).engine = s.engine ∧
      (injectRequest f s).plans = s.plans ∧
      (injectRequest f s).switch = s.switch ∧
      (injectRequest f s).reports = s.reports := by
  unfold injectRequest; split <;> simp

@[simp] theorem receiveFromTributary_frame (s : State) (f : Frame) :
    (receiveFromTributary f s).pending = s.pending ∧
      (receiveFromTributary f s).now = s.now ∧
      (receiveFromTributary f s).node = s.node ∧
      (receiveFromTributary f s).ports = s.ports ∧
      (receiveFromTributary f s).tribs = s.tribs ∧
      (receiveFromTributary f s).map = s.map ∧
      (receiveFromTributary f s).notices = s.notices ∧
      (receiveFromTributary f s).table = s.table ∧
      (receiveFromTributary f s).engine = s.engine ∧
      (receiveFromTributary f s).plans = s.plans ∧
      (receiveFromTributary f s).switch = s.switch ∧
      (receiveFromTributary f s).reports = s.reports := by
  unfold receiveFromTributary; repeat' split
  all_goals simp

@[simp] theorem receiveFrame_frame (s : State) (q : MgmtPort) (f : Frame) :
    (receiveFrame q f s).pending = s.pending ∧
      (receiveFrame q f s).now = s.now ∧
      (receiveFrame q f s).node = s.node ∧
      (receiveFrame q f s).ports = s.ports ∧
      (receiveFrame q f s).tribs = s.tribs ∧
      (receiveFrame q f s).map = s.map ∧
      (receiveFrame q f s).notices = s.notices ∧
      (receiveFrame q f s).table = s.table ∧
      (receiveFrame q f s).engine = s.engine ∧
      (receiveFrame q f s).plans = s.plans ∧
      (receiveFrame q f s).switch = s.switch ∧
      (receiveFrame q f s).reports = s.reports := by
  unfold receiveFrame; split <;> simp

@[simp] theorem frameTaken_frame (s : State) (q : MgmtPort) (bytes : List Byte) :
    (frameTaken q bytes s).pending = s.pending ∧
      (frameTaken q bytes s).now = s.now ∧
      (frameTaken q bytes s).node = s.node ∧
      (frameTaken q bytes s).ports = s.ports ∧
      (frameTaken q bytes s).tribs = s.tribs ∧
      (frameTaken q bytes s).map = s.map ∧
      (frameTaken q bytes s).notices = s.notices ∧
      (frameTaken q bytes s).table = s.table ∧
      (frameTaken q bytes s).engine = s.engine ∧
      (frameTaken q bytes s).plans = s.plans ∧
      (frameTaken q bytes s).switch = s.switch ∧
      (frameTaken q bytes s).reports = s.reports := by
  unfold frameTaken; split <;> simp

@[simp] theorem setAssembler_frame (s : State) (q : MgmtPort) (v : Assembler) :
    (setAssembler q v s).pending = s.pending ∧
      (setAssembler q v s).now = s.now ∧
      (setAssembler q v s).node = s.node ∧
      (setAssembler q v s).ports = s.ports ∧
      (setAssembler q v s).tribs = s.tribs ∧
      (setAssembler q v s).map = s.map ∧
      (setAssembler q v s).notices = s.notices ∧
      (setAssembler q v s).table = s.table ∧
      (setAssembler q v s).engine = s.engine ∧
      (setAssembler q v s).plans = s.plans ∧
      (setAssembler q v s).switch = s.switch ∧
      (setAssembler q v s).reports = s.reports ∧
      (setAssembler q v s).counters = s.counters := ⟨rfl, rfl, rfl, rfl, rfl, rfl, rfl, rfl, rfl, rfl, rfl, rfl, rfl⟩

@[simp] theorem assembleByte_frame (s : State) (q : MgmtPort) (b : Byte) :
    (assembleByte q s b).pending = s.pending ∧
      (assembleByte q s b).now = s.now ∧
      (assembleByte q s b).node = s.node ∧
      (assembleByte q s b).ports = s.ports ∧
      (assembleByte q s b).tribs = s.tribs ∧
      (assembleByte q s b).map = s.map ∧
      (assembleByte q s b).notices = s.notices ∧
      (assembleByte q s b).table = s.table ∧
      (assembleByte q s b).engine = s.engine ∧
      (assembleByte q s b).plans = s.plans ∧
      (assembleByte q s b).switch = s.switch ∧
      (assembleByte q s b).reports = s.reports := by
  unfold assembleByte; dsimp only; repeat' split
  all_goals simp

@[simp] theorem assembleField_frame (s : State) (q : MgmtPort) (bytes : List Byte) :
    (assembleField q bytes s).pending = s.pending ∧
      (assembleField q bytes s).now = s.now ∧
      (assembleField q bytes s).node = s.node ∧
      (assembleField q bytes s).ports = s.ports ∧
      (assembleField q bytes s).tribs = s.tribs ∧
      (assembleField q bytes s).map = s.map ∧
      (assembleField q bytes s).notices = s.notices ∧
      (assembleField q bytes s).table = s.table ∧
      (assembleField q bytes s).engine = s.engine ∧
      (assembleField q bytes s).plans = s.plans ∧
      (assembleField q bytes s).switch = s.switch ∧
      (assembleField q bytes s).reports = s.reports := by
  unfold assembleField
  induction bytes generalizing s with
  | nil => simp
  | cons b l ih => simpa using ih (assembleByte q s b)

@[simp] theorem breakStream_frame (s : State) (q : MgmtPort) :
    (breakStream q s).pending = s.pending ∧
      (breakStream q s).now = s.now ∧
      (breakStream q s).node = s.node ∧
      (breakStream q s).ports = s.ports ∧
      (breakStream q s).tribs = s.tribs ∧
      (breakStream q s).map = s.map ∧
      (breakStream q s).notices = s.notices ∧
      (breakStream q s).table = s.table ∧
      (breakStream q s).engine = s.engine ∧
      (breakStream q s).plans = s.plans ∧
      (breakStream q s).switch = s.switch ∧
      (breakStream q s).reports = s.reports := by
  unfold breakStream; split <;> simp

@[simp] theorem setSupervisor_frame (s : State) (p : Side) (b : Nat) (v : Supervisor) :
    (setSupervisor p b v s).pending = s.pending ∧
      (setSupervisor p b v s).now = s.now ∧
      (setSupervisor p b v s).node = s.node ∧
      (setSupervisor p b v s).tribs = s.tribs ∧
      (setSupervisor p b v s).mgmt = s.mgmt := by
  unfold setSupervisor; split <;> simp

@[simp] theorem deriveBand_frame (s : State) (p : Side) (b : Nat) (v : Supervisor) :
    (deriveBand p b v s).pending = s.pending ∧
      (deriveBand p b v s).now = s.now ∧
      (deriveBand p b v s).node = s.node ∧
      (deriveBand p b v s).tribs = s.tribs ∧
      (deriveBand p b v s).mgmt = s.mgmt := by simp [deriveBand]

@[simp] theorem enterLost_frame (s : State) (p : Side) (b : Nat) :
    (enterLost p b s).pending = s.pending ∧
      (enterLost p b s).now = s.now ∧
      (enterLost p b s).node = s.node ∧
      (enterLost p b s).tribs = s.tribs ∧
      (enterLost p b s).mgmt = s.mgmt := by
  unfold enterLost; split <;> simp

@[simp] theorem enterAligned_frame (s : State) (p : Side) (b : Nat) :
    (enterAligned p b s).pending = s.pending ∧
      (enterAligned p b s).now = s.now ∧
      (enterAligned p b s).node = s.node ∧
      (enterAligned p b s).tribs = s.tribs ∧
      (enterAligned p b s).mgmt = s.mgmt := by simp [enterAligned]

@[simp] theorem intervalFrame_frame (s : State) (p : Side) (b : Nat) (errored : Bool) :
    (intervalFrame p b errored s).pending = s.pending ∧
      (intervalFrame p b errored s).now = s.now ∧
      (intervalFrame p b errored s).node = s.node ∧
      (intervalFrame p b errored s).tribs = s.tribs ∧
      (intervalFrame p b errored s).mgmt = s.mgmt := by
  unfold intervalFrame; dsimp only; repeat' split
  all_goals simp

@[simp] theorem clearDegrade_frame (s : State) (e : Side × Nat) :
    (clearDegrade s e).pending = s.pending ∧
      (clearDegrade s e).now = s.now ∧
      (clearDegrade s e).node = s.node ∧
      (clearDegrade s e).tribs = s.tribs ∧
      (clearDegrade s e).mgmt = s.mgmt := by
  unfold clearDegrade; dsimp only; split <;> simp

@[simp] theorem clearAllDegrade_frame (s : State) :
    (clearAllDegrade s).pending = s.pending ∧
      (clearAllDegrade s).now = s.now ∧
      (clearAllDegrade s).node = s.node ∧
      (clearAllDegrade s).tribs = s.tribs ∧
      (clearAllDegrade s).mgmt = s.mgmt := by
  unfold clearAllDegrade
  generalize allBandsOfPorts = l
  induction l generalizing s with
  | nil => simp
  | cons e l ih => simpa using ih (clearDegrade s e)

@[simp] theorem readNotice_frame (s : State) (p : Side) (f : NoticeField) :
    (readNotice p f s).pending = s.pending ∧
      (readNotice p f s).now = s.now ∧
      (readNotice p f s).node = s.node ∧
      (readNotice p f s).tribs = s.tribs ∧
      (readNotice p f s).map = s.map ∧
      (readNotice p f s).notices = s.notices ∧
      (readNotice p f s).table = s.table ∧
      (readNotice p f s).engine = s.engine ∧
      (readNotice p f s).plans = s.plans ∧
      (readNotice p f s).switch = s.switch ∧
      (readNotice p f s).mgmt = s.mgmt ∧
      (readNotice p f s).reports = s.reports := by
  unfold readNotice; split <;> simp

@[simp] theorem setStreaming_frame (s : State) (p : Side) (on : Bool) :
    (setStreaming p on s).pending = s.pending ∧
      (setStreaming p on s).now = s.now ∧
      (setStreaming p on s).node = s.node ∧
      (setStreaming p on s).tribs = s.tribs ∧
      (setStreaming p on s).map = s.map ∧
      (setStreaming p on s).notices = s.notices ∧
      (setStreaming p on s).table = s.table ∧
      (setStreaming p on s).engine = s.engine ∧
      (setStreaming p on s).plans = s.plans ∧
      (setStreaming p on s).switch = s.switch ∧
      (setStreaming p on s).reports = s.reports := by
  unfold setStreaming; split <;> simp

@[simp] theorem takeOverhead_frame (s : State) (p : Side) (f : BandFrame) :
    (takeOverhead p f s).pending = s.pending ∧
      (takeOverhead p f s).now = s.now ∧
      (takeOverhead p f s).node = s.node ∧
      (takeOverhead p f s).tribs = s.tribs ∧
      (takeOverhead p f s).map = s.map ∧
      (takeOverhead p f s).notices = s.notices ∧
      (takeOverhead p f s).table = s.table ∧
      (takeOverhead p f s).engine = s.engine ∧
      (takeOverhead p f s).plans = s.plans ∧
      (takeOverhead p f s).switch = s.switch ∧
      (takeOverhead p f s).reports = s.reports := by simp [takeOverhead]

@[simp] theorem portOverhead_frame (s : State) (p : Side) (b : Nat) (f : BandFrame) :
    (portOverhead p b f s).pending = s.pending ∧
      (portOverhead p b f s).now = s.now ∧
      (portOverhead p b f s).node = s.node ∧
      (portOverhead p b f s).tribs = s.tribs ∧
      (portOverhead p b f s).map = s.map ∧
      (portOverhead p b f s).notices = s.notices ∧
      (portOverhead p b f s).table = s.table ∧
      (portOverhead p b f s).engine = s.engine ∧
      (portOverhead p b f s).plans = s.plans ∧
      (portOverhead p b f s).switch = s.switch ∧
      (portOverhead p b f s).reports = s.reports := by
  unfold portOverhead; repeat' split
  all_goals simp

@[simp] theorem receiveBand_frame (s : State) (p : Side) (b : Nat) (f : BandFrame) :
    (receiveBand p b f s).pending = s.pending ∧
      (receiveBand p b f s).now = s.now ∧
      (receiveBand p b f s).node = s.node ∧
      (receiveBand p b f s).tribs = s.tribs ∧
      (receiveBand p b f s).map = s.map ∧
      (receiveBand p b f s).notices = s.notices ∧
      (receiveBand p b f s).table = s.table ∧
      (receiveBand p b f s).engine = s.engine ∧
      (receiveBand p b f s).plans = s.plans ∧
      (receiveBand p b f s).switch = s.switch ∧
      (receiveBand p b f s).mgmt = s.mgmt ∧
      (receiveBand p b f s).reports = s.reports := by
  unfold receiveBand; dsimp only; repeat' split
  all_goals simp

@[simp] theorem alignmentChanged_frame (s : State) (p : Side) (b : Nat) (before : Alignment) :
    (alignmentChanged p b before s).pending = s.pending ∧
      (alignmentChanged p b before s).now = s.now ∧
      (alignmentChanged p b before s).node = s.node ∧
      (alignmentChanged p b before s).tribs = s.tribs ∧
      (alignmentChanged p b before s).mgmt = s.mgmt := by
  unfold alignmentChanged; split <;> simp

@[simp] theorem bandFrame_frame (s : State) (p : Side) (b : Nat) (f : BandFrame) :
    (bandFrame p b f s).pending = s.pending ∧
      (bandFrame p b f s).now = s.now ∧
      (bandFrame p b f s).node = s.node ∧
      (bandFrame p b f s).tribs = s.tribs := by simp [bandFrame]

@[simp] theorem bandEntryIntoLost_frame (s : State) (p : Side) (b : Nat) :
    (bandEntryIntoLost p b s).pending = s.pending ∧
      (bandEntryIntoLost p b s).now = s.now ∧
      (bandEntryIntoLost p b s).node = s.node ∧
      (bandEntryIntoLost p b s).tribs = s.tribs := by
  unfold bandEntryIntoLost; split <;> simp

@[simp] theorem bandEntryIntoAligned_frame (s : State) (p : Side) (b : Nat) (f : BandFrame) :
    (bandEntryIntoAligned p b f s).pending = s.pending ∧
      (bandEntryIntoAligned p b f s).now = s.now ∧
      (bandEntryIntoAligned p b f s).node = s.node ∧
      (bandEntryIntoAligned p b f s).tribs = s.tribs := by
  unfold bandEntryIntoAligned; split <;> simp

@[simp] theorem degradeIntervalEnd_frame (s : State) (p : Side) (b : Nat) (f : BandFrame) :
    (degradeIntervalEnd p b f s).pending = s.pending ∧
      (degradeIntervalEnd p b f s).now = s.now ∧
      (degradeIntervalEnd p b f s).node = s.node ∧
      (degradeIntervalEnd p b f s).tribs = s.tribs := by
  unfold degradeIntervalEnd; split <;> simp

@[simp] theorem holdOffExpiry_frame (s : State) (p : Side) (b : Nat) :
    (holdOffExpiry p b s).pending = s.pending ∧
      (holdOffExpiry p b s).node = s.node ∧
      (holdOffExpiry p b s).tribs = s.tribs ∧
      (holdOffExpiry p b s).mgmt = s.mgmt := by
  unfold holdOffExpiry; dsimp only; split <;> simp

@[simp] theorem returnTimerExpiry_frame (s : State) (p : Side) (b : Nat) :
    (returnTimerExpiry p b s).pending = s.pending ∧
      (returnTimerExpiry p b s).node = s.node ∧
      (returnTimerExpiry p b s).tribs = s.tribs ∧
      (returnTimerExpiry p b s).mgmt = s.mgmt := by
  unfold returnTimerExpiry; dsimp only; split <;> simp

@[simp] theorem bandFrameTransmit_frame (s : State) (p : Side) :
    (bandFrameTransmit p s).pending = s.pending ∧
      (bandFrameTransmit p s).now = s.now ∧
      (bandFrameTransmit p s).node = s.node ∧
      (bandFrameTransmit p s).tribs = s.tribs ∧
      (bandFrameTransmit p s).map = s.map ∧
      (bandFrameTransmit p s).table = s.table ∧
      (bandFrameTransmit p s).engine = s.engine ∧
      (bandFrameTransmit p s).plans = s.plans ∧
      (bandFrameTransmit p s).switch = s.switch ∧
      (bandFrameTransmit p s).reports = s.reports ∧
      (bandFrameTransmit p s).counters = s.counters := by simp [bandFrameTransmit]

@[simp] theorem receiveTributary_frame (s : State) (t : Nat) (f : TributaryFrame) :
    (receiveTributary t f s).pending = s.pending ∧
      (receiveTributary t f s).now = s.now ∧
      (receiveTributary t f s).node = s.node ∧
      (receiveTributary t f s).ports = s.ports ∧
      (receiveTributary t f s).map = s.map ∧
      (receiveTributary t f s).notices = s.notices ∧
      (receiveTributary t f s).table = s.table ∧
      (receiveTributary t f s).engine = s.engine ∧
      (receiveTributary t f s).plans = s.plans ∧
      (receiveTributary t f s).switch = s.switch ∧
      (receiveTributary t f s).mgmt = s.mgmt ∧
      (receiveTributary t f s).reports = s.reports ∧
      (receiveTributary t f s).counters = s.counters := ⟨rfl, rfl, rfl, rfl, rfl, rfl, rfl, rfl, rfl, rfl, rfl, rfl, rfl⟩

@[simp] theorem tributaryOverhead_frame (s : State) (before : Alignment) (f : TributaryFrame) :
    (tributaryOverhead before f s).pending = s.pending ∧
      (tributaryOverhead before f s).now = s.now ∧
      (tributaryOverhead before f s).node = s.node ∧
      (tributaryOverhead before f s).ports = s.ports ∧
      (tributaryOverhead before f s).tribs = s.tribs ∧
      (tributaryOverhead before f s).map = s.map ∧
      (tributaryOverhead before f s).notices = s.notices ∧
      (tributaryOverhead before f s).table = s.table ∧
      (tributaryOverhead before f s).engine = s.engine ∧
      (tributaryOverhead before f s).plans = s.plans ∧
      (tributaryOverhead before f s).switch = s.switch ∧
      (tributaryOverhead before f s).reports = s.reports := by
  unfold tributaryOverhead; repeat' split
  all_goals simp

@[simp] theorem tributaryFrame_frame (s : State) (t : Nat) (f : TributaryFrame) :
    (tributaryFrame t f s).pending = s.pending ∧
      (tributaryFrame t f s).now = s.now ∧
      (tributaryFrame t f s).node = s.node ∧
      (tributaryFrame t f s).ports = s.ports ∧
      (tributaryFrame t f s).map = s.map ∧
      (tributaryFrame t f s).notices = s.notices ∧
      (tributaryFrame t f s).table = s.table ∧
      (tributaryFrame t f s).engine = s.engine ∧
      (tributaryFrame t f s).plans = s.plans ∧
      (tributaryFrame t f s).switch = s.switch ∧
      (tributaryFrame t f s).reports = s.reports := by
  unfold tributaryFrame; split <;> simp

@[simp] theorem tributaryAlignmentChange_frame (s : State) (t : Nat) (f : TributaryFrame) :
    (tributaryAlignmentChange t f s).pending = s.pending ∧
      (tributaryAlignmentChange t f s).now = s.now ∧
      (tributaryAlignmentChange t f s).node = s.node ∧
      (tributaryAlignmentChange t f s).ports = s.ports ∧
      (tributaryAlignmentChange t f s).map = s.map ∧
      (tributaryAlignmentChange t f s).notices = s.notices ∧
      (tributaryAlignmentChange t f s).table = s.table ∧
      (tributaryAlignmentChange t f s).engine = s.engine ∧
      (tributaryAlignmentChange t f s).plans = s.plans ∧
      (tributaryAlignmentChange t f s).switch = s.switch ∧
      (tributaryAlignmentChange t f s).reports = s.reports := by
  unfold tributaryAlignmentChange; dsimp only; split <;> simp

@[simp] theorem tributaryFrameTransmit_frame (s : State) (t : Nat) :
    (tributaryFrameTransmit t s).pending = s.pending ∧
      (tributaryFrameTransmit t s).now = s.now ∧
      (tributaryFrameTransmit t s).node = s.node ∧
      (tributaryFrameTransmit t s).ports = s.ports ∧
      (tributaryFrameTransmit t s).map = s.map ∧
      (tributaryFrameTransmit t s).notices = s.notices ∧
      (tributaryFrameTransmit t s).table = s.table ∧
      (tributaryFrameTransmit t s).engine = s.engine ∧
      (tributaryFrameTransmit t s).plans = s.plans ∧
      (tributaryFrameTransmit t s).switch = s.switch ∧
      (tributaryFrameTransmit t s).reports = s.reports ∧
      (tributaryFrameTransmit t s).counters = s.counters := by
  unfold tributaryFrameTransmit; split <;> simp

@[simp] theorem setNodeState_frame (s : State) (n : NodeState) :
    (setNodeState n s).pending = s.pending ∧
      (setNodeState n s).now = s.now ∧
      (setNodeState n s).ports = s.ports ∧
      (setNodeState n s).tribs = s.tribs ∧
      (setNodeState n s).map = s.map ∧
      (setNodeState n s).notices = s.notices ∧
      (setNodeState n s).table = s.table ∧
      (setNodeState n s).engine = s.engine ∧
      (setNodeState n s).plans = s.plans ∧
      (setNodeState n s).switch = s.switch ∧
      (setNodeState n s).mgmt = s.mgmt ∧
      (setNodeState n s).reports = s.reports ∧
      (setNodeState n s).counters = s.counters := ⟨rfl, rfl, rfl, rfl, rfl, rfl, rfl, rfl, rfl, rfl, rfl, rfl, rfl⟩

@[simp] theorem enterStarting_frame (s : State) :
    (enterStarting s).pending = s.pending ∧
      (enterStarting s).now = s.now ∧
      (enterStarting s).ports = s.ports ∧
      (enterStarting s).tribs = s.tribs ∧
      (enterStarting s).map = s.map ∧
      (enterStarting s).table = s.table ∧
      (enterStarting s).engine = s.engine ∧
      (enterStarting s).plans = s.plans ∧
      (enterStarting s).mgmt = s.mgmt ∧
      (enterStarting s).counters = s.counters := by simp [enterStarting]

@[simp] theorem enterUnplaced_frame (s : State) :
    (enterUnplaced s).pending = s.pending ∧
      (enterUnplaced s).now = s.now ∧
      (enterUnplaced s).ports = s.ports ∧
      (enterUnplaced s).tribs = s.tribs ∧
      (enterUnplaced s).map = s.map ∧
      (enterUnplaced s).table = s.table ∧
      (enterUnplaced s).engine = s.engine ∧
      (enterUnplaced s).plans = s.plans ∧
      (enterUnplaced s).mgmt = s.mgmt ∧
      (enterUnplaced s).counters = s.counters := by simp [enterUnplaced]

@[simp] theorem engineEntersActive_frame (s : State) :
    (engineEntersActive s).pending = s.pending ∧
      (engineEntersActive s).now = s.now ∧
      (engineEntersActive s).node = s.node ∧
      (engineEntersActive s).ports = s.ports ∧
      (engineEntersActive s).tribs = s.tribs ∧
      (engineEntersActive s).map = s.map ∧
      (engineEntersActive s).notices = s.notices ∧
      (engineEntersActive s).mgmt = s.mgmt := by
  unfold engineEntersActive; split <;> simp

@[simp] theorem listenExpiry_frame (s : State) :
    (listenExpiry s).pending = s.pending ∧
      (listenExpiry s).ports = s.ports ∧
      (listenExpiry s).tribs = s.tribs ∧
      (listenExpiry s).map = s.map ∧
      (listenExpiry s).mgmt = s.mgmt := by
  unfold listenExpiry; split <;> simp

@[simp] theorem clearNotices_frame (s : State) :
    (clearNotices s).pending = s.pending ∧
      (clearNotices s).now = s.now ∧
      (clearNotices s).node = s.node ∧
      (clearNotices s).ports = s.ports ∧
      (clearNotices s).tribs = s.tribs ∧
      (clearNotices s).map = s.map ∧
      (clearNotices s).table = s.table ∧
      (clearNotices s).engine = s.engine ∧
      (clearNotices s).plans = s.plans ∧
      (clearNotices s).switch = s.switch ∧
      (clearNotices s).mgmt = s.mgmt ∧
      (clearNotices s).reports = s.reports ∧
      (clearNotices s).counters = s.counters := ⟨rfl, rfl, rfl, rfl, rfl, rfl, rfl, rfl, rfl, rfl, rfl, rfl, rfl⟩

@[simp] theorem countRingChange_frame (s : State) :
    (countRingChange s).pending = s.pending ∧
      (countRingChange s).now = s.now ∧
      (countRingChange s).node = s.node ∧
      (countRingChange s).ports = s.ports ∧
      (countRingChange s).tribs = s.tribs ∧
      (countRingChange s).map = s.map ∧
      (countRingChange s).notices = s.notices ∧
      (countRingChange s).engine = s.engine ∧
      (countRingChange s).plans = s.plans ∧
      (countRingChange s).switch = s.switch ∧
      (countRingChange s).mgmt = s.mgmt ∧
      (countRingChange s).reports = s.reports ∧
      (countRingChange s).counters = s.counters := ⟨rfl, rfl, rfl, rfl, rfl, rfl, rfl, rfl, rfl, rfl, rfl, rfl, rfl⟩

@[simp] theorem nodeAfterRing_frame (s : State) :
    (nodeAfterRing s).pending = s.pending ∧
      (nodeAfterRing s).now = s.now ∧
      (nodeAfterRing s).ports = s.ports ∧
      (nodeAfterRing s).tribs = s.tribs ∧
      (nodeAfterRing s).map = s.map ∧
      (nodeAfterRing s).table = s.table ∧
      (nodeAfterRing s).engine = s.engine ∧
      (nodeAfterRing s).plans = s.plans ∧
      (nodeAfterRing s).mgmt = s.mgmt ∧
      (nodeAfterRing s).counters = s.counters := by
  unfold nodeAfterRing; repeat' split
  all_goals simp

@[simp] theorem evaluateRing_frame (s : State) (before : Table Byte) :
    (evaluateRing before s).pending = s.pending ∧
      (evaluateRing before s).now = s.now ∧
      (evaluateRing before s).ports = s.ports ∧
      (evaluateRing before s).tribs = s.tribs ∧
      (evaluateRing before s).mgmt = s.mgmt := by
  unfold evaluateRing; dsimp only; repeat' split
  all_goals simp

@[simp] theorem restartCircuits_frame (s : State) :
    (restartCircuits s).pending = s.pending ∧
      (restartCircuits s).now = s.now ∧
      (restartCircuits s).node = s.node ∧
      (restartCircuits s).ports = s.ports ∧
      (restartCircuits s).tribs = s.tribs ∧
      (restartCircuits s).map = s.map ∧
      (restartCircuits s).notices = s.notices ∧
      (restartCircuits s).engine = s.engine ∧
      (restartCircuits s).plans = s.plans ∧
      (restartCircuits s).switch = s.switch ∧
      (restartCircuits s).mgmt = s.mgmt ∧
      (restartCircuits s).counters = s.counters := by simp [restartCircuits]

@[simp] theorem restartEngine_frame (s : State) :
    (restartEngine s).pending = s.pending ∧
      (restartEngine s).now = s.now ∧
      (restartEngine s).node = s.node ∧
      (restartEngine s).ports = s.ports ∧
      (restartEngine s).tribs = s.tribs ∧
      (restartEngine s).map = s.map ∧
      (restartEngine s).notices = s.notices ∧
      (restartEngine s).table = s.table ∧
      (restartEngine s).switch = s.switch ∧
      (restartEngine s).mgmt = s.mgmt ∧
      (restartEngine s).reports = s.reports := by simp [restartEngine]

@[simp] theorem clearLatches_frame (s : State) :
    (clearLatches s).pending = s.pending ∧
      (clearLatches s).now = s.now ∧
      (clearLatches s).node = s.node ∧
      (clearLatches s).tribs = s.tribs ∧
      (clearLatches s).map = s.map ∧
      (clearLatches s).notices = s.notices ∧
      (clearLatches s).table = s.table ∧
      (clearLatches s).engine = s.engine ∧
      (clearLatches s).plans = s.plans ∧
      (clearLatches s).switch = s.switch ∧
      (clearLatches s).mgmt = s.mgmt ∧
      (clearLatches s).reports = s.reports ∧
      (clearLatches s).counters = s.counters := ⟨rfl, rfl, rfl, rfl, rfl, rfl, rfl, rfl, rfl, rfl, rfl, rfl, rfl⟩

@[simp] theorem restartNotices_frame (s : State) :
    (restartNotices s).pending = s.pending ∧
      (restartNotices s).now = s.now ∧
      (restartNotices s).node = s.node ∧
      (restartNotices s).tribs = s.tribs ∧
      (restartNotices s).map = s.map ∧
      (restartNotices s).table = s.table ∧
      (restartNotices s).engine = s.engine ∧
      (restartNotices s).plans = s.plans ∧
      (restartNotices s).switch = s.switch ∧
      (restartNotices s).mgmt = s.mgmt ∧
      (restartNotices s).reports = s.reports ∧
      (restartNotices s).counters = s.counters := by simp [restartNotices]

@[simp] theorem restartNode_frame (s : State) :
    (restartNode s).pending = s.pending ∧
      (restartNode s).now = s.now ∧
      (restartNode s).ports = s.ports ∧
      (restartNode s).tribs = s.tribs ∧
      (restartNode s).map = s.map ∧
      (restartNode s).table = s.table ∧
      (restartNode s).engine = s.engine ∧
      (restartNode s).plans = s.plans ∧
      (restartNode s).mgmt = s.mgmt ∧
      (restartNode s).counters = s.counters := by
  unfold restartNode; split <;> simp

@[simp] theorem restart_frame (s : State) :
    (restart s).pending = s.pending ∧
      (restart s).now = s.now ∧
      (restart s).tribs = s.tribs ∧
      (restart s).mgmt = s.mgmt := by
  unfold restart; split <;> simp

@[simp] theorem deliverService_frame (s : State) (c : Nat) :
    (deliverService c s).pending = s.pending ∧
      (deliverService c s).now = s.now ∧
      (deliverService c s).node = s.node ∧
      (deliverService c s).ports = s.ports ∧
      (deliverService c s).tribs = s.tribs ∧
      (deliverService c s).map = s.map ∧
      (deliverService c s).mgmt = s.mgmt := by simp [deliverService]

@[simp] theorem bringIn_frame (s : State) (c : Nat) (f : CircuitFields) (a : Option Attachment) :
    (bringIn c f a s).pending = s.pending ∧
      (bringIn c f a s).now = s.now ∧
      (bringIn c f a s).node = s.node ∧
      (bringIn c f a s).ports = s.ports ∧
      (bringIn c f a s).tribs = s.tribs ∧
      (bringIn c f a s).map = s.map ∧
      (bringIn c f a s).mgmt = s.mgmt := by simp [bringIn]

@[simp] theorem takeOut_frame (s : State) (c : Nat) (f : CircuitFields) (a : Option Attachment) :
    (takeOut c f a s).pending = s.pending ∧
      (takeOut c f a s).now = s.now ∧
      (takeOut c f a s).node = s.node ∧
      (takeOut c f a s).ports = s.ports ∧
      (takeOut c f a s).tribs = s.tribs ∧
      (takeOut c f a s).map = s.map ∧
      (takeOut c f a s).mgmt = s.mgmt := by simp [takeOut]

@[simp] theorem serviceIn_frame (s : State) (c : Nat) :
    (serviceIn c s).1.pending = s.pending ∧
      (serviceIn c s).1.now = s.now ∧
      (serviceIn c s).1.node = s.node ∧
      (serviceIn c s).1.ports = s.ports ∧
      (serviceIn c s).1.tribs = s.tribs ∧
      (serviceIn c s).1.map = s.map ∧
      (serviceIn c s).1.mgmt = s.mgmt := by
  unfold serviceIn; split <;> simp

@[simp] theorem serviceOut_frame (s : State) (c : Nat) :
    (serviceOut c s).1.pending = s.pending ∧
      (serviceOut c s).1.now = s.now ∧
      (serviceOut c s).1.node = s.node ∧
      (serviceOut c s).1.ports = s.ports ∧
      (serviceOut c s).1.tribs = s.tribs ∧
      (serviceOut c s).1.map = s.map ∧
      (serviceOut c s).1.mgmt = s.mgmt := by
  unfold serviceOut; split <;> simp

@[simp] theorem service_frame (s : State) (action : ServiceAction) (c : Nat) :
    (service action c s).1.pending = s.pending ∧
      (service action c s).1.now = s.now ∧
      (service action c s).1.node = s.node ∧
      (service action c s).1.ports = s.ports ∧
      (service action c s).1.tribs = s.tribs ∧
      (service action c s).1.map = s.map ∧
      (service action c s).1.mgmt = s.mgmt := by
  unfold service; split <;> simp

@[simp] theorem deliverOrientation_frame (s : State) (before : Settings) :
    (deliverOrientation before s).pending = s.pending ∧
      (deliverOrientation before s).now = s.now ∧
      (deliverOrientation before s).node = s.node ∧
      (deliverOrientation before s).ports = s.ports ∧
      (deliverOrientation before s).tribs = s.tribs ∧
      (deliverOrientation before s).mgmt = s.mgmt := by
  unfold deliverOrientation; split <;> simp

@[simp] theorem deliverActOnDegrade_frame (s : State) (before : Settings) :
    (deliverActOnDegrade before s).pending = s.pending ∧
      (deliverActOnDegrade before s).now = s.now ∧
      (deliverActOnDegrade before s).node = s.node ∧
      (deliverActOnDegrade before s).ports = s.ports ∧
      (deliverActOnDegrade before s).tribs = s.tribs ∧
      (deliverActOnDegrade before s).mgmt = s.mgmt := by
  unfold deliverActOnDegrade; split <;> simp

@[simp] theorem deliverThreshold_frame (s : State) :
    (deliverThreshold s).pending = s.pending ∧
      (deliverThreshold s).now = s.now ∧
      (deliverThreshold s).node = s.node ∧
      (deliverThreshold s).tribs = s.tribs ∧
      (deliverThreshold s).mgmt = s.mgmt := by
  unfold deliverThreshold; split <;> simp

@[simp] theorem storeSettings_frame (s : State) (g : Settings) :
    (storeSettings g s).pending = s.pending ∧
      (storeSettings g s).now = s.now ∧
      (storeSettings g s).node = s.node ∧
      (storeSettings g s).tribs = s.tribs ∧
      (storeSettings g s).mgmt = s.mgmt := by simp [storeSettings]

@[simp] theorem setCursor_frame (s : State) (t : TableId) (i : Nat) :
    (setCursor t i s).pending = s.pending ∧
      (setCursor t i s).now = s.now ∧
      (setCursor t i s).node = s.node ∧
      (setCursor t i s).ports = s.ports ∧
      (setCursor t i s).tribs = s.tribs ∧
      (setCursor t i s).map = s.map ∧
      (setCursor t i s).notices = s.notices ∧
      (setCursor t i s).table = s.table ∧
      (setCursor t i s).engine = s.engine ∧
      (setCursor t i s).plans = s.plans ∧
      (setCursor t i s).switch = s.switch ∧
      (setCursor t i s).reports = s.reports ∧
      (setCursor t i s).counters = s.counters := ⟨rfl, rfl, rfl, rfl, rfl, rfl, rfl, rfl, rfl, rfl, rfl, rfl, rfl⟩

@[simp] theorem advanceCursor_frame (s : State) :
    (advanceCursor s).pending = s.pending ∧
      (advanceCursor s).now = s.now ∧
      (advanceCursor s).node = s.node ∧
      (advanceCursor s).ports = s.ports ∧
      (advanceCursor s).tribs = s.tribs ∧
      (advanceCursor s).map = s.map ∧
      (advanceCursor s).notices = s.notices ∧
      (advanceCursor s).table = s.table ∧
      (advanceCursor s).engine = s.engine ∧
      (advanceCursor s).plans = s.plans ∧
      (advanceCursor s).switch = s.switch ∧
      (advanceCursor s).reports = s.reports ∧
      (advanceCursor s).counters = s.counters := ⟨rfl, rfl, rfl, rfl, rfl, rfl, rfl, rfl, rfl, rfl, rfl, rfl, rfl⟩

@[simp] theorem doSelect_frame (s : State) (table index : Nat) :
    (doSelect table index s).state.pending = s.pending ∧
      (doSelect table index s).state.now = s.now ∧
      (doSelect table index s).state.node = s.node ∧
      (doSelect table index s).state.ports = s.ports ∧
      (doSelect table index s).state.tribs = s.tribs ∧
      (doSelect table index s).state.map = s.map ∧
      (doSelect table index s).state.notices = s.notices ∧
      (doSelect table index s).state.table = s.table ∧
      (doSelect table index s).state.engine = s.engine ∧
      (doSelect table index s).state.plans = s.plans ∧
      (doSelect table index s).state.switch = s.switch ∧
      (doSelect table index s).state.reports = s.reports ∧
      (doSelect table index s).state.counters = s.counters := by
  unfold doSelect; repeat' split
  all_goals simp

/-- What a LOAD's writing of one image leaves as it was. -/
def KeepsBesideTables (write : List Byte → State → Except ResultCode State) : Prop :=
  ∀ image s t, write image s = .ok t → t.pending = s.pending ∧ t.now = s.now ∧ t.node = s.node ∧ t.ports = s.ports ∧ t.tribs = s.tribs ∧ t.map = s.map ∧ t.notices = s.notices ∧ t.engine = s.engine ∧ t.plans = s.plans ∧ t.switch = s.switch ∧ t.reports = s.reports ∧ t.counters = s.counters

theorem writeCircuit_frame : KeepsBesideTables writeCircuit := by
  intro image s t h
  unfold writeCircuit at h
  dsimp only at h
  repeat' split at h
  all_goals cases h
  all_goals simp

theorem writeRing_frame : KeepsBesideTables writeRing := by
  intro image s t h
  unfold writeRing at h
  dsimp only at h
  split at h <;> cases h
  simp

theorem loadImages_frame (write : List Byte → State → Except ResultCode State) (hw : KeepsBesideTables write)
    (records : Nat) (l : List (List Byte)) (n : Nat) (s : State) :
    (loadImages write records l n s).state.pending = s.pending ∧
      (loadImages write records l n s).state.now = s.now ∧
      (loadImages write records l n s).state.node = s.node ∧
      (loadImages write records l n s).state.ports = s.ports ∧
      (loadImages write records l n s).state.tribs = s.tribs ∧
      (loadImages write records l n s).state.map = s.map ∧
      (loadImages write records l n s).state.notices = s.notices ∧
      (loadImages write records l n s).state.engine = s.engine ∧
      (loadImages write records l n s).state.plans = s.plans ∧
      (loadImages write records l n s).state.switch = s.switch ∧
      (loadImages write records l n s).state.reports = s.reports ∧
      (loadImages write records l n s).state.counters = s.counters := by
  induction l generalizing n s with
  | nil => simp [loadImages]
  | cons image rest ih =>
    unfold loadImages
    split
    · simp
    · split
      · simp
      · rename_i t ht
        simpa [hw image s t ht] using ih (n + 1) (advanceCursor t)

@[simp] theorem loadCircuits_frame (s : State) (bulk : List Byte) :
    (loadCircuits bulk s).state.pending = s.pending ∧
      (loadCircuits bulk s).state.now = s.now ∧
      (loadCircuits bulk s).state.node = s.node ∧
      (loadCircuits bulk s).state.ports = s.ports ∧
      (loadCircuits bulk s).state.tribs = s.tribs ∧
      (loadCircuits bulk s).state.map = s.map ∧
      (loadCircuits bulk s).state.notices = s.notices ∧
      (loadCircuits bulk s).state.engine = s.engine ∧
      (loadCircuits bulk s).state.plans = s.plans ∧
      (loadCircuits bulk s).state.switch = s.switch ∧
      (loadCircuits bulk s).state.reports = s.reports ∧
      (loadCircuits bulk s).state.counters = s.counters := by
  simpa [loadCircuits] using loadImages_frame writeCircuit writeCircuit_frame _ _ 0 s

@[simp] theorem loadRing_frame (s : State) (bulk : List Byte) :
    (loadRing bulk s).state.pending = s.pending ∧
      (loadRing bulk s).state.now = s.now ∧
      (loadRing bulk s).state.ports = s.ports ∧
      (loadRing bulk s).state.tribs = s.tribs := by
  have h := loadImages_frame writeRing writeRing_frame TableId.ring.records (imagesOf 1 bulk) 0 s
  unfold loadRing
  split <;> simp [h]

@[simp] theorem loadSettings_frame (s : State) (bulk : List Byte) :
    (loadSettings bulk s).state.pending = s.pending ∧
      (loadSettings bulk s).state.now = s.now ∧
      (loadSettings bulk s).state.node = s.node ∧
      (loadSettings bulk s).state.tribs = s.tribs := by
  unfold loadSettings; repeat' split
  all_goals simp

@[simp] theorem doLoad_frame (s : State) (bulk : List Byte) :
    (doLoad bulk s).state.pending = s.pending ∧
      (doLoad bulk s).state.now = s.now ∧
      (doLoad bulk s).state.tribs = s.tribs := by
  unfold doLoad; split <;> simp

@[simp] theorem doOperator_frame (s : State) (side value : Nat) :
    (doOperator side value s).state.pending = s.pending ∧
      (doOperator side value s).state.now = s.now ∧
      (doOperator side value s).state.node = s.node ∧
      (doOperator side value s).state.ports = s.ports ∧
      (doOperator side value s).state.tribs = s.tribs ∧
      (doOperator side value s).state.mgmt = s.mgmt := by
  unfold doOperator; repeat' split
  all_goals simp

@[simp] theorem doCapture_frame (s : State) (flag : Nat) :
    (doCapture flag s).state.pending = s.pending ∧
      (doCapture flag s).state.now = s.now ∧
      (doCapture flag s).state.node = s.node ∧
      (doCapture flag s).state.ports = s.ports ∧
      (doCapture flag s).state.tribs = s.tribs ∧
      (doCapture flag s).state.map = s.map ∧
      (doCapture flag s).state.notices = s.notices ∧
      (doCapture flag s).state.table = s.table ∧
      (doCapture flag s).state.engine = s.engine ∧
      (doCapture flag s).state.plans = s.plans ∧
      (doCapture flag s).state.switch = s.switch ∧
      (doCapture flag s).state.mgmt = s.mgmt := by
  unfold doCapture; split <;> simp

@[simp] theorem setExecution_frame (s : State) (e : Execution) :
    (setExecution e s).pending = s.pending ∧
      (setExecution e s).now = s.now ∧
      (setExecution e s).node = s.node ∧
      (setExecution e s).ports = s.ports ∧
      (setExecution e s).tribs = s.tribs ∧
      (setExecution e s).map = s.map ∧
      (setExecution e s).notices = s.notices ∧
      (setExecution e s).table = s.table ∧
      (setExecution e s).engine = s.engine ∧
      (setExecution e s).plans = s.plans ∧
      (setExecution e s).switch = s.switch ∧
      (setExecution e s).reports = s.reports ∧
      (setExecution e s).counters = s.counters := ⟨rfl, rfl, rfl, rfl, rfl, rfl, rfl, rfl, rfl, rfl, rfl, rfl, rfl⟩

@[simp] theorem sendReply_frame (s : State) (c : Chain) :
    (sendReply c s).pending = s.pending ∧
      (sendReply c s).now = s.now ∧
      (sendReply c s).node = s.node ∧
      (sendReply c s).ports = s.ports ∧
      (sendReply c s).tribs = s.tribs ∧
      (sendReply c s).map = s.map ∧
      (sendReply c s).notices = s.notices ∧
      (sendReply c s).table = s.table ∧
      (sendReply c s).engine = s.engine ∧
      (sendReply c s).plans = s.plans ∧
      (sendReply c s).switch = s.switch ∧
      (sendReply c s).reports = s.reports := by
  unfold sendReply; split <;> simp

@[simp] theorem endChain_frame (s : State) (c : Chain) :
    (endChain c s).pending = s.pending ∧
      (endChain c s).now = s.now ∧
      (endChain c s).tribs = s.tribs := by
  unfold endChain; split <;> simp

@[simp] theorem answer_frame (s : State) (c : Chain) (more : Bool) (code : ResultCode) (count : Nat) :
    (answer c more code count s).pending = s.pending ∧
      (answer c more code count s).now = s.now ∧
      (answer c more code count s).tribs = s.tribs := by
  unfold answer; split <;> simp

@[simp] theorem takeService_frame (s : State) (c : Chain) (more : Bool) (action : ServiceAction) (circuit : Nat) :
    (takeService c more action circuit s).pending = s.pending ∧
      (takeService c more action circuit s).now = s.now ∧
      (takeService c more action circuit s).tribs = s.tribs := by
  unfold takeService; split <;> simp

@[simp] theorem takeDirective_frame (s : State) (c : Chain) (more : Bool) (d : Directive) :
    (takeDirective c more d s).pending = s.pending ∧
      (takeDirective c more d s).now = s.now ∧
      (takeDirective c more d s).tribs = s.tribs := by
  unfold takeDirective; repeat' split
  all_goals simp

@[simp] theorem readRecord_frame (s : State) (c : Chain) (r : Reading) :
    (readRecord c r s).pending = s.pending ∧
      (readRecord c r s).now = s.now ∧
      (readRecord c r s).tribs = s.tribs := by
  unfold readRecord; dsimp only; repeat' split
  all_goals simp

@[simp] theorem chainStep_frame (s : State) (c : Chain) :
    (chainStep c s).pending = s.pending ∧
      (chainStep c s).now = s.now ∧
      (chainStep c s).tribs = s.tribs := by
  unfold chainStep; repeat' split
  all_goals simp

@[simp] theorem runChain_frame (s : State) (n : Nat) :
    (runChain n s).pending = s.pending ∧
      (runChain n s).now = s.now ∧
      (runChain n s).tribs = s.tribs := by
  induction n generalizing s with
  | zero => simp [runChain]
  | succ n ih =>
    unfold runChain
    split <;> simp [ih]

@[simp] theorem runPaused_frame (s : State) (pause : Option Nat) :
    (runPaused pause s).pending = s.pending ∧
      (runPaused pause s).now = s.now ∧
      (runPaused pause s).tribs = s.tribs := by
  unfold runPaused; split <;> simp

@[simp] theorem startRequest_frame (s : State) :
    (startRequest s).pending = s.pending ∧
      (startRequest s).now = s.now ∧
      (startRequest s).node = s.node ∧
      (startRequest s).ports = s.ports ∧
      (startRequest s).tribs = s.tribs ∧
      (startRequest s).map = s.map ∧
      (startRequest s).notices = s.notices ∧
      (startRequest s).table = s.table ∧
      (startRequest s).engine = s.engine ∧
      (startRequest s).plans = s.plans ∧
      (startRequest s).switch = s.switch ∧
      (startRequest s).reports = s.reports ∧
      (startRequest s).counters = s.counters := by
  unfold startRequest; split <;> simp

@[simp] theorem executeRequest_frame (s : State) (pause : Option Nat) :
    (executeRequest pause s).pending = s.pending ∧
      (executeRequest pause s).now = s.now ∧
      (executeRequest pause s).tribs = s.tribs := by
  unfold executeRequest; repeat' split
  all_goals simp

@[simp] theorem holdTimerExpiry_frame (s : State) :
    (holdTimerExpiry s).pending = s.pending ∧
      (holdTimerExpiry s).tribs = s.tribs := by
  unfold holdTimerExpiry; split <;> simp

@[simp] theorem heldServiceRelease_frame (s : State) :
    (heldServiceRelease s).pending = s.pending ∧
      (heldServiceRelease s).now = s.now ∧
      (heldServiceRelease s).tribs = s.tribs := by
  unfold heldServiceRelease; repeat' split
  all_goals simp

@[simp] theorem directive_frame (s : State) (d : Directive) :
    (directive d s).pending = s.pending ∧
      (directive d s).now = s.now ∧
      (directive d s).tribs = s.tribs := by
  unfold directive; repeat' split
  all_goals simp

@[simp] theorem reportEmission_frame (s : State) :
    (reportEmission s).pending = s.pending ∧
      (reportEmission s).now = s.now ∧
      (reportEmission s).node = s.node ∧
      (reportEmission s).ports = s.ports ∧
      (reportEmission s).tribs = s.tribs ∧
      (reportEmission s).map = s.map ∧
      (reportEmission s).notices = s.notices ∧
      (reportEmission s).table = s.table ∧
      (reportEmission s).engine = s.engine ∧
      (reportEmission s).plans = s.plans ∧
      (reportEmission s).switch = s.switch := by
  unfold reportEmission; repeat' split
  all_goals simp

end Sys2Proof.Machine
end

