-- ==== Sys2Proof/Laws/Table.lean ====
section
/-! SUPPORT. Laws of sparse tables: reading after a write, and the canonical form that every write keeps (log 22). -/

namespace Sys2Proof.Machine

variable {α : Type}

@[simp] theorem look_nil (d : α) (k : Nat) : look d [] k = d := rfl

theorem look_cons (d : α) (j : Nat) (v : α) (t : Table α) (k : Nat) :
    look d ((j, v) :: t) k = if j = k then v else look d t k := rfl

theorem look_of_not_mem {d : α} {t : Table α} {k : Nat} (h : ∀ e ∈ t, e.1 ≠ k) : look d t k = d := by
  induction t with
  | nil => rfl
  | cons e rest ih =>
    rw [look_cons, if_neg (h e (by simp))]
    exact ih (fun x hx => h x (by simp [hx]))

theorem erase_cons (k : Nat) (e : Nat × α) (t : Table α) :
    erase k (e :: t) = if e.1 = k then erase k t else e :: erase k t := by
  unfold erase; rw [List.filter_cons]; by_cases h : e.1 = k <;> simp [h]

theorem erase_keys {t : Table α} {k : Nat} : ∀ e ∈ erase k t, e.1 ≠ k := by
  intro e he; unfold erase at he; simpa using (List.mem_filter.mp he).2

theorem look_erase_same (d : α) (t : Table α) (k : Nat) : look d (erase k t) k = d := look_of_not_mem erase_keys

theorem look_erase_other (d : α) (t : Table α) {k j : Nat} (h : j ≠ k) : look d (erase k t) j = look d t j := by
  induction t with
  | nil => rfl
  | cons e rest ih =>
    rw [erase_cons, look_cons]
    by_cases hk : e.1 = k
    · rw [if_pos hk, if_neg (by omega), ih]
    · rw [if_neg hk, look_cons, ih]

theorem look_insertKey_same (d : α) (t : Table α) {k : Nat} {v : α} (h : ∀ e ∈ t, e.1 ≠ k) :
    look d (insertKey k v t) k = v := by
  induction t with
  | nil => simp [insertKey, look_cons]
  | cons e rest ih =>
    unfold insertKey
    split
    · simp [look_cons]
    · rw [look_cons, if_neg (h e (by simp)), ih (fun x hx => h x (by simp [hx]))]

theorem look_insertKey_other (d : α) (t : Table α) {k j : Nat} {v : α} (h : j ≠ k) :
    look d (insertKey k v t) j = look d t j := by
  induction t with
  | nil => simp [insertKey, look_cons, Ne.symm h]
  | cons e rest ih =>
    unfold insertKey
    split
    · rw [look_cons, if_neg (Ne.symm h)]
    · rw [look_cons, look_cons, ih]

variable [DecidableEq α]

/-- What a write to a table does: the key written reads as the value, every other key as before. -/
theorem look_put (d : α) (t : Table α) (k j : Nat) (v : α) :
    look d (put d t k v) j = if j = k then v else look d t j := by
  unfold put
  by_cases hv : v = d <;> by_cases hj : j = k
  · subst hj; simp [hv, look_erase_same]
  · simp [hv, hj, look_erase_other d t hj]
  · subst hj; simp [hv, look_insertKey_same d _ erase_keys]
  · simp [hv, hj, look_insertKey_other d _ hj, look_erase_other d t hj]

@[simp] theorem look_put_same (d : α) (t : Table α) (k : Nat) (v : α) : look d (put d t k v) k = v := by
  simp [look_put]

theorem look_put_other (d : α) (t : Table α) {k j : Nat} (v : α) (h : j ≠ k) :
    look d (put d t k v) j = look d t j := by simp [look_put, h]

theorem tableWf_cons (d : α) (e : Nat × α) (t : Table α) :
    tableWf d (e :: t) = true ↔ e.2 ≠ d ∧ (∀ x ∈ t, e.1 < x.1) ∧ tableWf d t = true := by
  simp [tableWf, and_assoc]

theorem tableWf_erase {d : α} {t : Table α} (k : Nat) (h : tableWf d t = true) : tableWf d (erase k t) = true := by
  induction t with
  | nil => rfl
  | cons e rest ih =>
    obtain ⟨hv, hk, hr⟩ := (tableWf_cons d e rest).mp h
    rw [erase_cons]
    split
    · exact ih hr
    · exact (tableWf_cons _ _ _).mpr ⟨hv, fun x hx => hk x (List.mem_of_mem_filter hx), ih hr⟩

theorem mem_insertKey {t : Table α} {k : Nat} {v : α} {x : Nat × α} :
    x ∈ insertKey k v t ↔ x = (k, v) ∨ x ∈ t := by
  induction t with
  | nil => simp [insertKey]
  | cons e rest ih =>
    unfold insertKey
    split
    · simp
    · simp only [List.mem_cons, ih]; tauto

theorem tableWf_insertKey {d : α} {t : Table α} {k : Nat} {v : α} (hv : v ≠ d) (hk : ∀ e ∈ t, e.1 ≠ k)
    (h : tableWf d t = true) : tableWf d (insertKey k v t) = true := by
  induction t with
  | nil => simp [insertKey, tableWf, hv]
  | cons e rest ih =>
    obtain ⟨he, hb, hr⟩ := (tableWf_cons d e rest).mp h
    have hne := hk e (by simp)
    unfold insertKey
    split
    · rename_i hlt
      refine (tableWf_cons _ _ _).mpr ⟨hv, ?_, h⟩
      rintro x hx
      rcases List.mem_cons.mp hx with rfl | hx
      · exact hlt
      · exact lt_trans hlt (hb x hx)
    · rename_i hlt
      refine (tableWf_cons _ _ _).mpr ⟨he, ?_, ih (fun x hx => hk x (by simp [hx])) hr⟩
      intro x hx
      rcases mem_insertKey.mp hx with rfl | hx
      · simp only; omega
      · exact hb x hx

/-- Every write keeps the canonical form. -/
theorem tableWf_put {d : α} {t : Table α} (k : Nat) (v : α) (h : tableWf d t = true) :
    tableWf d (put d t k v) = true := by
  unfold put
  split
  · exact tableWf_erase k h
  · exact tableWf_insertKey (by assumption) erase_keys (tableWf_erase k h)

/-- Replacing values but no keys, none by the default, keeps the canonical form. -/
theorem tableWf_map {d : α} {t : Table α} (g : Nat × α → Nat × α) (hk : ∀ e, (g e).1 = e.1)
    (hv : ∀ e, e.2 ≠ d → (g e).2 ≠ d) (h : tableWf d t = true) : tableWf d (t.map g) = true := by
  induction t with
  | nil => rfl
  | cons e rest ih =>
    obtain ⟨he, hb, hr⟩ := (tableWf_cons d e rest).mp h
    refine (tableWf_cons _ _ _).mpr ⟨hv e he, ?_, ih hr⟩
    intro x hx
    obtain ⟨y, hy, rfl⟩ := List.mem_map.mp hx
    rw [hk, hk]; exact hb y hy

omit [DecidableEq α] in
/-- Reading a table whose values have been replaced, key by key. -/
theorem look_map (d : α) (t : Table α) (g : Nat → α → α) (k : Nat) (h : g k d = d) :
    look d (t.map (fun e => (e.1, g e.1 e.2))) k = g k (look d t k) := by
  induction t with
  | nil => simp [h]
  | cons e rest ih =>
    obtain ⟨j, v⟩ := e
    simp only [List.map_cons, look_cons, ih]
    split
    · subst_vars; rfl
    · rfl

end Sys2Proof.Machine
end

