-- ==== Sys2Proof/Laws/Ops.lean ====
section
/-! SUPPORT. One law for each shared operation: all that it can do to the block it writes. -/

namespace Sys2Proof.Machine

/-! ### Accessors -/

@[simp] theorem port_setPort (s : State) (p r : Side) (v : LinePort) :
    (s.setPort p v).port r = if r = p then v else s.port r := Pair.get_set _ _ _ _

theorem band_setBand (s : State) (p r : Side) (v : Band) {b c : Nat} (hb : b < 4) (hc : c < 4) :
    (s.setBand p b v).band r c = if r = p ∧ c = b then v else s.band r c := by
  unfold State.setBand State.band
  rw [port_setPort]
  by_cases hr : r = p
  · subst hr; simp only [true_and, if_true]; exact Quad.get_set _ hb hc _
  · simp [hr]

theorem circuit_setCircuit (s : State) (c d : Nat) (r : CircuitRecord) :
    (s.setCircuit c r).circuit d = if d = c then r else s.circuit d := look_put _ _ _ _ _

theorem record_setRecord (s : State) (q j : Nat) (r : NoticeRecord) :
    (s.setRecord q r).record j = if j = q then r else s.record j := look_put _ _ _ _ _

theorem plan_setPlan (s : State) (k j : Nat) (v : Plan) :
    (s.setPlan k v).plan j = if j = k then v else s.plan j := look_put _ _ _ _ _

/-! ### Counters, reports, time -/

/-- What counting an event does: that counter moves on, every other keeps its value. -/
theorem counter_bump (n m : Nat) (s : State) :
    (bump n s).counter m = if m = n then saturate (s.counter n) else s.counter m := look_put _ _ _ _ _

/-- What a raise does: with the category on, the subject is in the list, at the tail when it was not there before; with
the category off nothing changes. The report number and the snapshot stay. -/
theorem raise_reports (x : Subject) (s : State) :
    (raise x s).reports = s.reports ∨
      (s.settings.enabled x = true ∧ x ∉ s.reports.subjects ∧
        (raise x s).reports = { s.reports with subjects := s.reports.subjects ++ [x] }) := by
  unfold raise
  split
  · rename_i h
    simp only [Bool.and_eq_true, Bool.not_eq_eq_eq_not, Bool.not_true, List.contains_eq_mem, decide_eq_false_iff_not] at h
    exact Or.inr ⟨h.1, h.2, rfl⟩
  · exact Or.inl rfl

theorem mem_raise (x : Subject) (s : State) (h : s.settings.enabled x = true) : x ∈ (raise x s).reports.subjects := by
  unfold raise
  by_cases hx : x ∈ s.reports.subjects <;> simp [h, hx]

theorem nodup_raise (x : Subject) (s : State) (h : s.reports.subjects.Nodup) :
    (raise x s).reports.subjects.Nodup := by
  rcases raise_reports x s with hr | ⟨_, hn, hr⟩ <;> rw [hr]
  · exact h
  · exact List.nodup_append.mpr ⟨h, by simp, by
      simp only [List.mem_singleton, forall_eq]; intro a ha hax; exact hn (hax ▸ ha)⟩

theorem nodup_raiseAll (xs : List Subject) (s : State) (h : s.reports.subjects.Nodup) :
    (raiseAll xs s).reports.subjects.Nodup := by
  unfold raiseAll
  induction xs generalizing s with
  | nil => exact h
  | cons x xs ih => exact ih _ (nodup_raise x s h)

@[simp] theorem settings_of_table {s t : State} (h : t.table = s.table) : t.settings = s.settings := by
  simp [State.settings, h]

/-! ### The Notice Unit -/

/-- What evaluating convergence does to the Notice Unit: the status becomes the one R79's test gives. -/
theorem evaluateConvergence_notices (s : State) :
    (evaluateConvergence s).notices = { s.notices with convergence := convergenceOf s } := by
  unfold evaluateConvergence
  dsimp only
  split
  · rename_i h; rw [h]
  · simp

/-- What an origination does, in a placed STARTING or ACTIVE node (R74, R76). -/
theorem originate_notices (s : State) {p : Nat} (hr : s.node.state.runs = true) (hp : s.position = some p) :
    (originate s).notices =
      { s.notices with
        queues :=
          { east := offerNotice { notice := ownNotice p s, own := true } s.notices.queues.east
            west := offerNotice { notice := ownNotice p s, own := true } s.notices.queues.west }
        sequence := s.notices.sequence + 1
        refresh := some (s.now + ms s.settings.refresh) } := by
  unfold originate
  rw [hr, hp]
  rfl

/-- Outside STARTING and ACTIVE, or unplaced, nothing is originated (R73). -/
theorem originate_idle (s : State) (h : s.node.state.runs = false ∨ s.position = none) : originate s = s := by
  unfold originate
  rcases h with h | h <;> rw [h]
  split <;> simp_all

/-- Offering a notice leaves the positions of a queue as they were, or appends one that was not there (R71). -/
theorem offerNotice_positions (v : QueuedNotice) (q : List QueuedNotice) :
    (offerNotice v q).map (fun e => e.notice.position) = q.map (fun e => e.notice.position) ∨
      (v.notice.position ∉ q.map (fun e => e.notice.position) ∧ offerNotice v q = q ++ [v]) := by
  have hrep : (replaceNotice v q).map (fun e => e.notice.position) = q.map (fun e => e.notice.position) := by
    unfold replaceNotice
    rw [List.map_map]
    refine List.map_congr_left (fun e _ => ?_)
    dsimp only [Function.comp]
    split
    · rename_i h; exact h.symm
    · rfl
  unfold offerNotice
  split
  · rename_i h
    refine Or.inr ⟨?_, rfl⟩
    rw [List.find?_eq_none] at h
    intro hm
    obtain ⟨e, he, hp⟩ := List.mem_map.mp hm
    exact h e he (by simp [hp])
  · left
    repeat' split
    all_goals first | exact hrep | rfl

/-- An outgoing notice queue keeps at most one notice per origin position (R71). -/
theorem nodup_offerNotice (v : QueuedNotice) (q : List QueuedNotice)
    (h : (q.map (fun e => e.notice.position)).Nodup) :
    ((offerNotice v q).map (fun e => e.notice.position)).Nodup := by
  rcases offerNotice_positions v q with hp | ⟨hn, he⟩
  · rw [hp]; exact h
  · rw [he, List.map_append]
    exact List.nodup_append.mpr ⟨h, by simp, by simpa using fun a ha hav => hn (List.mem_map.mpr ⟨a, ha, hav⟩)⟩

/-! ### The Failure Map -/

theorem look_map_keys {α : Type} (d : α) (g : Nat → α) (l : List Nat) (k : Nat) :
    look d (l.map (fun j => (j, g j))) k = if k ∈ l then g k else d := by
  induction l with
  | nil => simp
  | cons j l ih =>
    rw [List.map_cons, look_cons, ih]
    by_cases h : j = k
    · subst h; simp
    · simp [h, Ne.symm h]

theorem look_range_map {α : Type} (d : α) (g : Nat → α) (n k : Nat) :
    look d ((List.range n).map (fun j => (j, g j))) k = if k < n then g k else d := by
  rw [look_map_keys]; simp

/-- What a derivation leaves at a span: its end records with the conditions, operator state and memberships derived from
them, for a span of the ring; an outside entry otherwise (R43, R56). -/
theorem look_deriveSpans (n : Nat) (aod : Bool) (t : Table SpanEntry) (k : Nat) :
    look .outside (deriveSpans n aod t) k =
      if k < n then
        { look .outside t k with derived := some (deriveSpan aod (look .outside t k)) }
      else .outside := by
  unfold deriveSpans
  exact look_range_map SpanEntry.outside _ n k

/-- A derivation of what has been derived changes nothing. -/
theorem deriveSpans_idem (n : Nat) (aod : Bool) (t : Table SpanEntry) :
    deriveSpans n aod (deriveSpans n aod t) = deriveSpans n aod t := by
  refine List.map_congr_left (fun k hk => ?_)
  have h := look_deriveSpans n aod t k
  rw [if_pos (List.mem_range.mp hk)] at h
  simp only [h]
  rfl

/-- What writing the map leaves: the port copies of the map given and the spans derived afresh. -/
theorem writeMap_map (m : FailureMap) (s : State) :
    (writeMap m s).map =
      { m with spans := deriveSpans (spansOfRing s.table.ring s.node.strap) s.settings.actOnDegrade m.spans } := by
  unfold writeMap
  simp

/-- Every write of the map leaves it derived (R56). -/
theorem writeMap_derived (m : FailureMap) (s : State) :
    (writeMap m s).map.spans =
      deriveSpans (spansOfRing s.table.ring s.node.strap) s.settings.actOnDegrade (writeMap m s).map.spans := by
  rw [writeMap_map]; exact (deriveSpans_idem _ _ _).symm

/-! ### Outgoing frame queues -/

/-- What offering a frame does: appended to a queue with a free place, else discarded and counted (R158). -/
theorem offerFrame_cases (q : MgmtPort) (f : Frame) (s : State) :
    ((s.mgmt.queues.get q).frames.length < Config.frameQueueMax ∧
      offerFrame q f s =
        setQueue q { s.mgmt.queues.get q with frames := (s.mgmt.queues.get q).frames ++ [f] } s) ∨
    (Config.frameQueueMax ≤ (s.mgmt.queues.get q).frames.length ∧ offerFrame q f s = bump (ctrDiscarded q) s) := by
  unfold offerFrame FrameQueue.free
  by_cases h : (s.mgmt.queues.get q).frames.length < Config.frameQueueMax
  · left; simp [h]
  · right; simp [h]; omega

/-- Sending bytes never lengthens a queue (R158). -/
theorem dropSent_length (l : List Frame) (n : Nat) : (dropSent l n).frames.length ≤ l.length := by
  induction l generalizing n with
  | nil => simp [dropSent, FrameQueue.empty]
  | cons f l ih =>
    unfold dropSent
    split
    · exact (ih _).trans (by simp)
    · simp

/-- A field of an outgoing stream is 32 bytes (R158). -/
theorem streamField_length (v : FrameQueue) : (streamField v).length = 32 := by
  unfold streamField
  simp only [List.length_append, List.length_replicate, List.length_take, List.length_drop]
  omega

end Sys2Proof.Machine
end

