-- ==== Sys2Proof/Laws/Channel.lean ====
section
/-! SUPPORT. Laws of the management channel: what a frame and an outgoing stream are, how the steps of a chain add up, and what its
end and a directive's answer do. -/

namespace Sys2Proof.Machine

/-- A frame is sent in as many bytes as its length says (R153). -/
theorem Frame.bytes_length (f : Frame) : f.bytes.length = f.length := by
  simp [Frame.bytes, Frame.unchecked, Frame.length, bytes2]

/-- What sending bytes does to an outgoing queue: the stream goes on after them, the frames left are the last ones of those
held, and of the first of them not every byte has been sent (R158). -/
theorem dropSent_spec (l : List Frame) (n : Nat) :
    (dropSent l n).stream = (l.flatMap Frame.bytes).drop n ∧ (dropSent l n).frames <:+ l ∧
      ∀ g rest, (dropSent l n).frames = g :: rest → (dropSent l n).sent < g.bytes.length := by
  induction l generalizing n with
  | nil => exact ⟨by simp [dropSent, FrameQueue.stream, FrameQueue.empty], List.suffix_rfl, fun g rest h => by cases h⟩
  | cons f l ih =>
    unfold dropSent
    split
    · rename_i hle
      obtain ⟨h1, h2, h3⟩ := ih (n - f.length)
      refine ⟨?_, h2.trans (List.suffix_cons _ _), h3⟩
      have hd : f.bytes.drop n = [] := List.drop_of_length_le (by rw [Frame.bytes_length]; exact hle)
      rw [h1, List.flatMap_cons, List.drop_append, Frame.bytes_length, hd, List.nil_append]
    · rename_i hlt
      refine ⟨rfl, List.suffix_rfl, fun g rest h => ?_⟩
      injection h with h _
      subst h
      rw [Frame.bytes_length]
      exact Nat.lt_of_not_le hlt

/-- A field of an outgoing stream is its next 32 bytes, filled up with zero bytes (R154, R158). -/
theorem streamField_eq (v : FrameQueue) : streamField v = (v.stream ++ List.replicate 32 0).take 32 := by
  unfold streamField FrameQueue.stream
  generalize (v.frames.flatMap Frame.bytes).drop v.sent = l
  dsimp only
  rw [List.take_append, List.take_replicate, List.length_take]
  congr 2
  omega

/-- One step of a chain in execution. -/
theorem runChain_running {c : Chain} {s : State} (n : Nat) (h : s.mgmt.execution = .running c) :
    runChain (n + 1) s = runChain n (chainStep c s) := by
  rw [runChain, h]

/-- With no chain in execution there are no steps. -/
theorem runChain_stopped {s : State} (n : Nat) (h : ∀ c, s.mgmt.execution ≠ .running c) : runChain n s = s := by
  cases n with
  | zero => rfl
  | succ n =>
    rw [runChain]
    cases he : s.mgmt.execution with
    | running c => exact absurd he (h c)
    | _ => rfl

/-- Some steps of a chain and then some more are as many steps at once. -/
theorem runChain_add (m n : Nat) (s : State) : runChain (m + n) s = runChain n (runChain m s) := by
  induction m generalizing s with
  | zero => rw [Nat.zero_add]; rfl
  | succ m ih =>
    rw [Nat.succ_add]
    by_cases h : ∃ c, s.mgmt.execution = .running c
    · obtain ⟨c, hc⟩ := h
      rw [runChain_running _ hc, runChain_running _ hc, ih]
    · have h' : ∀ c, s.mgmt.execution ≠ .running c := fun c hc => h ⟨c, hc⟩
      rw [runChain_stopped _ h', runChain_stopped _ h', runChain_stopped _ h']

/-! ### The end of a chain -/

/-- What the end of a chain does (R162, R172). -/
theorem endChain_eq (c : Chain) (s : State) : endChain c s = s.chainEnded c c.items c.records := by
  unfold endChain State.chainEnded sendReply
  cases c.requester with
  | none => rfl
  | some r =>
    have hm : (sendFrame (replyFrame s r.1 r.2 c.body) s).mgmt.requests = s.mgmt.requests := by
      unfold sendFrame offerFrame
      split
      · dsimp only; split
        · rename_i q _ _; cases q <;> rfl
        · rfl
      · rfl
    dsimp only
    rw [hm]
    rfl

/-- What a directive's answer does to its chain (R160, R161). -/
theorem answer_eq (c : Chain) (more : Bool) (code : ResultCode) (count : Nat) (s : State) :
    answer c more code count s = s.chainAnswered c more code count := by
  unfold answer State.chainAnswered
  by_cases h : more = true ∧ code ∈ [ResultCode.ok, .endOfTable, .truncated]
  · rw [if_pos h, if_neg]
    · rfl
    · obtain ⟨rfl, hc⟩ := h
      cases code <;> simp_all [ResultCode.refuses]
  · rw [if_neg h, if_pos, endChain_eq]
    · rfl
    · cases more
      · simp
      · cases code <;> simp_all [ResultCode.refuses]

end Sys2Proof.Machine
end

