-- ==== Sys2Proof/Laws/Engine.lean ====
section
/-! SUPPORT. Laws of the Restoration Engine: what the fast-path test finds, what an install does, what the engine does at a map
change, what the Failure Map reports, and what a build and its result read. -/

namespace Sys2Proof.Machine

/-! ### The sets W and X -/

theorem Quad.eq_all_iff (q : Quad Bool) : q = allBands ↔ ∀ b : Fin 4, q.get b = true := by
  refine ⟨fun h b => by subst h; revert b; decide, fun h => ?_⟩
  have h0 := h 0; have h1 := h 1; have h2 := h 2; have h3 := h 3
  cases q
  simp only [Quad.get, Fin.isValue, Fin.val_zero, Fin.val_one, Fin.val_two] at h0 h1 h2 h3
  simp_all [allBands]

theorem Quad.eq_none_iff (q : Quad Bool) : q = noBands ↔ ∀ b : Fin 4, q.get b = false := by
  refine ⟨fun h b => by subst h; revert b; decide, fun h => ?_⟩
  have h0 := h 0; have h1 := h 1; have h2 := h 2; have h3 := h 3
  cases q
  simp only [Quad.get, Fin.isValue, Fin.val_zero, Fin.val_one, Fin.val_two] at h0 h1 h2 h3
  simp_all [noBands]

/-- What the fast-path test's fourth condition says of the sets: W and X hold all bands of that span and nothing else (R119). -/
theorem cutSpan_eq_some (m : FailureMap) (k : Nat) :
    m.cutSpan = some k ↔ k < 32 ∧ ∀ j, j < 32 → ∀ b : Fin 4,
      ((m.bandsInW j).get b = true ↔ j = k) ∧ ((m.bandsInX j).get b = true ↔ j = k) := by
  have key : ∀ k, ((List.range Config.ringMax).all (fun j =>
      (m.bandsInW j, m.bandsInX j) == if j = k then (allBands, allBands) else (noBands, noBands))) = true ↔
      ∀ j, j < 32 → ∀ b : Fin 4,
        ((m.bandsInW j).get b = true ↔ j = k) ∧ ((m.bandsInX j).get b = true ↔ j = k) := by
    intro k
    rw [List.all_eq_true]
    refine forall_congr' (fun j => ?_)
    rw [List.mem_range]
    refine imp_congr_right (fun _ => ?_)
    by_cases h : j = k
    · simp only [h, if_true, beq_iff_eq, Prod.mk.injEq, Quad.eq_all_iff, iff_true]
      exact forall_and.symm
    · simp only [h, if_false, beq_iff_eq, Prod.mk.injEq, Quad.eq_none_iff, iff_false, Bool.not_eq_true]
      exact forall_and.symm
  unfold FailureMap.cutSpan
  constructor
  · intro h
    exact ⟨List.mem_range.mp (List.mem_of_find?_eq_some h), (key k).mp (List.find?_some (p := fun k => (List.range Config.ringMax).all (fun j =>
      (m.bandsInW j, m.bandsInX j) == if j = k then (allBands, allBands) else (noBands, noBands))) h)⟩
  · rintro ⟨hk, h⟩
    rw [List.find?_range_eq_some]
    refine ⟨(key k).mpr h, List.mem_range.mpr hk, fun j hj => ?_⟩
    rw [Bool.not_eq_true', ← Bool.not_eq_true]
    intro hj'
    have h1 := (((key j).mp hj') j (by omega) 0).1
    have h2 := (h j (by omega) 0).1
    have h3 := h2.mp (h1.mpr rfl)
    omega

/-! ### The fast path -/

/-- What the fast-path test finds: the lists of the VALID plan of the span cut, with no grant held and CONVERGED (R119). -/
theorem fastPathResult_eq_some (s : State) (r : PassResult) :
    fastPathResult s = some r ↔ s.engine.grants = [] ∧ s.notices.convergence = .converged ∧
      ∃ k g, s.map.cutSpan = some k ∧ s.plan k = .valid g r.grants r.outcomes := by
  unfold fastPathResult
  by_cases h : s.engine.grants = [] ∧ s.notices.convergence = .converged
  · rw [if_pos h]
    obtain ⟨h1, h2⟩ := h
    simp only [h1, h2, true_and]
    cases hc : s.map.cutSpan with
    | none => simp
    | some k =>
      simp only [Option.some.injEq, exists_and_left]
      cases hp : s.plan k with
      | valid g l o =>
        constructor
        · intro h; injection h with h; subst h; exact ⟨k, rfl, g, hp⟩
        · rintro ⟨k', hk, g', h⟩
          subst hk; rw [hp] at h; cases h; rfl
      | _ =>
        simp only [reduceCtorEq, false_iff]
        rintro ⟨k', hk, g', h⟩
        subst hk; rw [hp] at h; cases h
  · rw [if_neg h]
    simp only [reduceCtorEq, false_iff]
    rintro ⟨h1, h2, _⟩
    exact h ⟨h1, h2⟩

/-! ### Installing a result -/

theorem mem_raiseAll (xs : List Subject) (s : State) {x : Subject} (hx : x ∈ xs) (h : s.settings.enabled x = true) :
    x ∈ (raiseAll xs s).reports.subjects := by
  have keeps : ∀ (ys : List Subject) (u : State), x ∈ u.reports.subjects → x ∈ (raiseAll ys u).reports.subjects := by
    intro ys
    induction ys with
    | nil => exact fun _ h => h
    | cons y ys ih =>
      intro u hu
      refine ih _ ?_
      rcases raise_reports y u with hr | ⟨_, _, hr⟩ <;> rw [hr]
      · exact hu
      · exact List.mem_append_left _ hu
  induction xs generalizing s with
  | nil => cases hx
  | cons y ys ih =>
    rcases List.mem_cons.mp hx with rfl | hm
    · exact keeps ys _ (mem_raise x s h)
    · exact ih (raise y s) hm (by rw [settings_of_table (s := s) (by simp)]; exact h)

/-- A circuit record after an install: an in-service record with its state from the list, any other as it was (R106). -/
theorem look_installRecords (outcomes : List Outcome) (t : Table CircuitRecord) (c : Nat) :
    look .absent (installRecords outcomes t) c =
      match look .absent t c with
      | .inService f a r k => .inService f a (restorationIn outcomes c r) k
      | x => x := by
  have h := look_map .absent t (fun c x => match x with
      | .inService f a r k => CircuitRecord.inService f a (restorationIn outcomes c r) k
      | x => x) c rfl
  rw [← h]
  unfold installRecords
  congr 1
  refine List.map_congr_left (fun e _ => ?_)
  obtain ⟨j, v⟩ := e
  cases v <;> rfl

theorem mem_of_look {α : Type} {d v : α} {t : Table α} {k : Nat} (h : look d t k = v) (hv : v ≠ d) : (k, v) ∈ t := by
  induction t with
  | nil => exact absurd h.symm hv
  | cons e rest ih =>
    obtain ⟨j, w⟩ := e
    rw [look_cons] at h
    split at h
    · subst_vars; exact List.mem_cons_self
    · exact List.mem_cons_of_mem _ (ih h)

/-- What an install does: the grants and states of the result as one change, the result number moved on, a target derived, the
result and each circuit it changed reported (R106, R180). -/
theorem install_spec (r : PassResult) (s : State) :
    (install r s).engine = { s.engine with grants := r.grants, resultNumber := s.engine.resultNumber + 1 } ∧
    (install r s).table = { s.table with circuits := installRecords r.outcomes s.table.circuits } ∧
    (install r s).switch = { s.switch with target := some (targetOf (install r s)) } ∧
    reported .node (install r s) ∧
    ∀ c f a x k, s.circuit c = .inService f a x k → restorationIn r.outcomes c x ≠ x →
      reported (.circuit c) (install r s) := by
  refine ⟨by simp [install, deriveTarget], by simp [install, deriveTarget], ?_, ?_, ?_⟩
  · unfold install
    dsimp only
    rw [(raise_frame _ _).2.2.2.2.2.2.2.2.2.2.1, (raiseAll_frame _ _).2.2.2.2.2.2.2.2.2.2.1]
    unfold deriveTarget
    dsimp only
    congr 2
    unfold targetOf State.position State.ringSize State.settings
    simp
  · intro h
    refine mem_raise _ _ ?_
    rw [← h]; simp [install, State.settings]
  · intro c f a x k hc hne h
    have hm : Subject.circuit c ∈ (changedByInstall r.outcomes s.table.circuits).map Subject.circuit := by
      refine List.mem_map_of_mem ?_
      unfold changedByInstall
      rw [List.mem_filterMap]
      exact ⟨(c, .inService f a x k), mem_of_look hc (by simp), by simp [hne]⟩
    unfold install
    dsimp only
    have h1 := mem_raiseAll _ (deriveTarget { s with
      engine := { s.engine with grants := r.grants, resultNumber := s.engine.resultNumber + 1 }
      table := { s.table with circuits := installRecords r.outcomes s.table.circuits } }) hm (by
        rw [← h]; simp [install, State.settings])
    rcases raise_reports Subject.node (raiseAll ((changedByInstall r.outcomes s.table.circuits).map Subject.circuit)
      (deriveTarget { s with
        engine := { s.engine with grants := r.grants, resultNumber := s.engine.resultNumber + 1 }
        table := { s.table with circuits := installRecords r.outcomes s.table.circuits } })) with hr | ⟨_, _, hr⟩ <;>
      rw [hr]
    · exact h1
    · exact List.mem_append_left _ h1

/-- What applying a plan's result in an IDLE engine does (R120). -/
theorem applyPlan_applied (r : PassResult) (s : State) (hi : s.engine.state = .idle) :
    planApplied s (applyPlan r s) r.grants r.outcomes := by
  obtain ⟨he, ht, hsw, hn, hc⟩ := install_spec r s
  have hcir : ∀ c, (applyPlan r s).circuit c = match s.circuit c with
      | .inService f a x k => .inService f a (restorationIn r.outcomes c x) k
      | x => x := by
    intro c
    have : (applyPlan r s).circuit c = look .absent (install r s).table.circuits c := rfl
    rw [this, ht]
    exact look_installRecords _ _ _
  refine ⟨?_, ?_, ?_, ?_, ?_, ?_, ?_⟩
  · show (install r s).engine = _
    rw [he]
    dsimp only
    rw [hi]
  · exact hsw
  · unfold applyPlan
    rw [counter_bump]
    simp [ctrFastPath, State.counter]
  · intro n hne
    unfold applyPlan
    rw [counter_bump, if_neg (by simpa [ctrFastPath] using hne)]
    simp [State.counter]
  · exact hn
  · intro c f a x k h
    refine ⟨restorationIn r.outcomes c x, by rw [hcir, h], ?_, ?_, fun hne => hc c f a x k h hne⟩
    · intro o ho; simp [restorationIn, ho]
    · intro hn
      have : r.outcomes.find? (fun o => o.circuit == c) = none := by
        rw [List.find?_eq_none]
        intro o ho hoc
        exact hn (List.mem_map.mpr ⟨o, ho, by simpa using hoc⟩)
      simp [restorationIn, this]
  · intro c h
    rw [hcir]
    cases hx : s.circuit c with
    | inService f a x k => exact absurd hx (h f a x k)
    | _ => rfl

/-! ### Map changes -/

/-- An ACTIVE engine in IDLE answers a map change with the plan that the fast-path test finds, or with a gather (R85). -/
theorem answerMapChange_cases (s : State) :
    (∃ r, fastPathResult s = some r ∧ answerMapChange s = applyPlan r s) ∨
      (fastPathResult s = none ∧ answerMapChange s = startGather s) := by
  unfold answerMapChange
  cases h : fastPathResult s with
  | none => exact .inr ⟨rfl, rfl⟩
  | some r => exact .inl ⟨r, rfl, rfl⟩

/-- When the state before a map change and the state `u` whose plan is applied agree on the grants, and on the plans but for one
in BUILD, the test of `u` finds exactly the lists that the statements' `fastPathNames` names (R119). -/
theorem fastPathNames_iff {s u t : State} (hg : u.engine.grants = s.engine.grants) (hm : t.map = u.map)
    (hn : t.notices = u.notices)
    (hp : ∀ k g l o, u.plan k = .valid g l o ↔ (∀ i, s.engine.state ≠ .build k i) ∧ s.plan k = .valid g l o)
    (l : List Grant) (o : List Outcome) :
    (∃ k, fastPathNames s t k l o) ↔ fastPathResult u = some { grants := l, outcomes := o } := by
  rw [fastPathResult_eq_some]
  unfold fastPathNames
  rw [hg, hm, hn]
  constructor
  · rintro ⟨k, h1, h2, h3, h4, h5, g, h6⟩
    exact ⟨h1, h2, k, g, (cutSpan_eq_some _ _).mpr ⟨h3, h4⟩, (hp _ _ _ _).mpr ⟨h5, h6⟩⟩
  · rintro ⟨h1, h2, k, g, h3, h4⟩
    obtain ⟨h5, h6⟩ := (hp _ _ _ _).mp h4
    obtain ⟨h7, h8⟩ := (cutSpan_eq_some _ _).mp h3
    exact ⟨k, h1, h2, h7, h8, h5, g, h6⟩

/-- What an abandoned build leaves: the plan STALE, the engine IDLE with grants and result number kept (R117). -/
theorem abandonBuild_spec {s : State} {k : Nat} {i : PassInputs} (h : s.engine.state = .build k i) :
    (abandonBuild s).engine = { s.engine with state := .idle } ∧ (abandonBuild s).plan k = .stale ∧
      ∀ j, j ≠ k → (abandonBuild s).plan j = s.plan j := by
  have he : abandonBuild s = setEngine .idle (s.setPlan k .stale) := by unfold abandonBuild; rw [h]
  rw [he]
  exact ⟨rfl, (plan_setPlan s k k .stale).trans (by simp), fun j hj => (plan_setPlan s k j .stale).trans (by simp [hj])⟩

/-- What an ACTIVE engine does at a map change that finds it in IDLE, or in a build that it abandons (R85, R119, R120); `u` is
the state in which the test is made. -/
theorem answerMapChange_answers {s u : State} (hi : u.engine = { s.engine with state := .idle }) (ht : u.table = s.table)
    (hsw : u.switch = s.switch) (hc : u.counters = s.counters)
    (hp : ∀ k g l o, u.plan k = .valid g l o ↔ (∀ i, s.engine.state ≠ .build k i) ∧ s.plan k = .valid g l o) :
    let t := answerMapChange u
    (∀ k l o, fastPathNames s t k l o → planApplied s t l o) ∧
      ((∀ k l o, ¬fastPathNames s t k l o) →
        t.engine = { s.engine with state := .gather (t.now + 10 * t.settings.gatherDelay) } ∧ nothingInstalled s t s.switch) := by
  have key := fun l o => fastPathNames_iff (s := s) (u := u) (t := answerMapChange u) (by rw [hi]) (by simp) (by simp) hp l o
  dsimp only
  rcases answerMapChange_cases u with ⟨r, hr, ha⟩ | ⟨hr, ha⟩
  · refine ⟨fun k l o hk => ?_, fun hno => ?_⟩
    · have hlo := (key l o).mp ⟨k, hk⟩
      rw [hr] at hlo
      injection hlo with hlo
      subst hlo
      rw [ha]
      have hap := applyPlan_applied { grants := l, outcomes := o } u (by rw [hi])
      have hcir : ∀ c, u.circuit c = s.circuit c := fun c => by unfold State.circuit; rw [ht]
      have hctr : ∀ n, u.counter n = s.counter n := fun n => by unfold State.counter; rw [hc]
      unfold planApplied at hap ⊢
      simp only [hcir, hctr, hsw] at hap
      rw [hi] at hap
      exact hap
    · obtain ⟨k, hk⟩ := (key r.grants r.outcomes).mpr hr
      exact absurd hk (hno _ _ _)
  · refine ⟨fun k l o hk => ?_, fun _ => ?_⟩
    · have hlo := (key l o).mp ⟨k, hk⟩
      rw [hr] at hlo
      cases hlo
    · rw [ha]
      refine ⟨?_, ht, hsw, hc⟩
      show ({ u.engine with state := .gather (u.now + ms u.settings.gatherDelay) } : Engine) = _
      rw [hi, ms, Nat.mul_comm]
      rfl

/-- What the engine does at a map change, in every node and engine state (R85, R86, R88, R92, R119, R120). -/
theorem mapChange_answers (s : State) : answersMapChange s (mapChange s) s.switch := by
  unfold answersMapChange
  rw [show (mapChange s).node = s.node by simp]
  cases hn : s.node.state with
  | active =>
    cases he : s.engine.state with
    | gather e =>
      have : mapChange s = s := by unfold mapChange; rw [hn]; dsimp only; rw [he]
      rw [this]
      exact ⟨rfl, rfl, rfl, rfl, rfl⟩
    | pass i =>
      have : mapChange s = restartPass s := by unfold mapChange; rw [hn]; dsimp only; rw [he]
      rw [this]
      refine ⟨rfl, rfl, rfl, rfl, ?_, fun n hne => ?_⟩
      · exact (counter_bump ctrPassesAbandoned 1 s).trans (by simp [ctrPassesAbandoned])
      · exact (counter_bump ctrPassesAbandoned n s).trans (by simp [ctrPassesAbandoned, hne])
    | idle =>
      have : mapChange s = answerMapChange s := by unfold mapChange; rw [hn]; dsimp only; rw [he]
      rw [this]
      refine ⟨fun j _ => ?_, fun j i h => ?_, ?_⟩
      · unfold State.plan; simp
      · cases h
      · exact answerMapChange_answers (by rw [← he]) rfl rfl rfl (fun k g l o => by simp [he])
    | build k i =>
      have : mapChange s = answerMapChange (abandonBuild s) := by unfold mapChange; rw [hn]; dsimp only; rw [he]
      rw [this]
      obtain ⟨h1, h2, h3⟩ := abandonBuild_spec he
      have hpl : ∀ j, (answerMapChange (abandonBuild s)).plan j = (abandonBuild s).plan j := fun j => by
        unfold State.plan; simp
      refine ⟨fun j hj => ?_, fun j i' h => ?_, ?_⟩
      · rw [hpl]; exact h3 j (fun e => hj i (by rw [e]))
      · injection h with h _; subst h; rw [hpl]; exact h2
      · refine answerMapChange_answers h1 (by simp) (by simp) (by simp) (fun j g l o => ?_)
        rw [he]
        by_cases hj : j = k
        · subst hj; rw [h2]; simp
        · rw [h3 j hj]; simp [Ne.symm hj]
  | starting e =>
    have : mapChange s = abandonBuild s := by unfold mapChange; rw [hn]
    rw [this]
    cases he : s.engine.state with
    | build k i =>
      obtain ⟨h1, h2, h3⟩ := abandonBuild_spec he
      exact ⟨h1, h2, h3, by simp, by simp, by simp⟩
    | _ =>
      have : abandonBuild s = s := by unfold abandonBuild; rw [he]
      rw [this]
      exact ⟨rfl, rfl, rfl, rfl, rfl⟩
  | _ =>
    have : mapChange s = s := by unfold mapChange; rw [hn]
    rw [this]
    exact ⟨rfl, rfl, rfl, rfl, rfl⟩

/-! ### The answer, carried from the operation to the command -/

/-- The answer reads of the state before it only the engine, the plans, the table, the switch and the counters. -/
theorem answersMapChange_congr {s u t : State} {sw : SlotSwitch} (he : u.engine = s.engine) (hp : u.plans = s.plans)
    (ht : u.table = s.table) (hs : u.switch = s.switch) (hc : u.counters = s.counters) :
    answersMapChange u t sw ↔ answersMapChange s t sw := by
  obtain ⟨_, _, _, _, _, _, _, _, _, _, _, _, _, _⟩ := s
  obtain ⟨_, _, _, _, _, _, _, _, _, _, _, _, _, _⟩ := u
  subst he hp ht hs hc
  exact Iff.rfl

/-- The answer goes on to hold while its map, notices and engine stay and no pending report goes away. -/
theorem answersMapChange_keeps {s t u : State} {sw : SlotSwitch} (h : answersMapChange s t sw) (hnow : u.now = t.now)
    (hnode : u.node = t.node) (hmap : u.map = t.map) (hconv : u.notices.convergence = t.notices.convergence)
    (ht : u.table = t.table) (he : u.engine = t.engine) (hp : u.plans = t.plans) (hs : u.switch = t.switch)
    (hc : u.counters = t.counters) (hr : ∀ x ∈ t.reports.subjects, x ∈ u.reports.subjects) :
    answersMapChange s u sw := by
  have hrep : ∀ x, reported x t → reported x u := fun x hx hen => hr x (hx (by
    rw [settings_of_table ht] at hen; exact hen))
  have htgt : targetOf u = targetOf t := by
    unfold targetOf State.position State.ringSize State.settings; rw [hnode, ht]
  have hsnap : takeSnapshot u = takeSnapshot t := by
    unfold takeSnapshot State.ringSize; rw [hmap, ht, he]
  have hpl : ∀ l o, planApplied s t l o → planApplied s u l o := by
    rintro l o ⟨h1, h2, h3, h4, h5, h6, h7⟩
    refine ⟨he.trans h1, ?_, ?_, fun n hn => ?_, hrep _ h5, fun c f a r k hc' => ?_, fun c hc' => ?_⟩
    · rw [hs, htgt]; exact h2
    · unfold State.counter; rw [hc]; exact h3
    · unfold State.counter; rw [hc]; exact h4 n hn
    · obtain ⟨r', hr', ha, hb, hd⟩ := h6 c f a r k hc'
      exact ⟨r', by unfold State.circuit; rw [ht]; exact hr', ha, hb, fun hne => hrep _ (hd hne)⟩
    · unfold State.circuit; rw [ht]; exact h7 c hc'
  have hfp : ∀ k l o, fastPathNames s u k l o ↔ fastPathNames s t k l o := by
    intro k l o; unfold fastPathNames; rw [hmap, hconv]
  have hni : nothingInstalled s t sw → nothingInstalled s u sw := fun ⟨h1, h2, h3⟩ =>
    ⟨ht.trans h1, hs.trans h2, hc.trans h3⟩
  have hpn : ∀ j, u.plan j = t.plan j := fun j => by unfold State.plan; rw [hp]
  have hcn : ∀ n, u.counter n = t.counter n := fun n => by unfold State.counter; rw [hc]
  unfold answersMapChange at h ⊢
  rw [hnode]
  split at h
  · exact ⟨he.trans h.1, hp.trans h.2.1, hni h.2.2⟩
  · obtain ⟨h1, h2, h3, h4, h5, h6⟩ := h
    refine ⟨?_, hp.trans h2, ht.trans h3, hs.trans h4, (hcn 1).trans h5, fun n hn => (hcn n).trans (h6 n hn)⟩
    rw [he, h1, hsnap]
  · obtain ⟨h1, h2, h3, h4⟩ := h
    refine ⟨fun j hj => (hpn j).trans (h1 j hj), fun j i hj => (hpn j).trans (h2 j i hj),
      fun k l o hk => hpl l o (h3 k l o ((hfp k l o).mp hk)), fun hno => ?_⟩
    obtain ⟨h5, h6⟩ := h4 (fun k l o hk => hno k l o ((hfp k l o).mpr hk))
    refine ⟨?_, hni h6⟩
    rw [he, hnow, settings_of_table ht]; exact h5
  · exact ⟨he.trans h.1, (hpn _).trans h.2.1, fun j hj => (hpn j).trans (h.2.2.1 j hj), hni h.2.2.2⟩
  · exact ⟨he.trans h.1, hp.trans h.2.1, hni h.2.2⟩

/-- What delivering a map change does, from the state `s` before the write to the state `u` with the map written (R56). -/
theorem deliverMapChange_answers {s u : State} (he : u.engine = s.engine) (hp : u.plans = s.plans) (ht : u.table = s.table)
    (hs : u.switch = s.switch) (hc : u.counters = s.counters) : engineAnswers s (deliverMapChange s.map u) := by
  unfold engineAnswers
  rw [show (deliverMapChange s.map u).map = u.map by simp]
  unfold deliverMapChange
  constructor
  · intro h
    rw [if_pos h.symm]
    exact ⟨he, hp, hs, ht, hc⟩
  · intro h
    rw [if_neg (Ne.symm h), ← hs]
    exact (answersMapChange_congr he hp ht hs hc).mp (mapChange_answers u)

/-! ### What a build and its result read -/

/-- The inputs of a build read of the state only the ring map, the in-service circuits and the occupancy (R115). -/
theorem buildInputs_congr {s t : State} (k : Nat) (hr : t.table.ring = s.table.ring)
    (hc : inServiceOf t.table.circuits = inServiceOf s.table.circuits) (ho : t.table.occupancy = s.table.occupancy) :
    buildInputs k t = buildInputs k s := by
  unfold buildInputs inServiceFields State.ringSize
  rw [hr, hc, ho]

/-- The state list holds for each circuit of the inputs what R105's table gives it, and nothing else. -/
theorem mem_outcomes (i : PassInputs) (c : Nat) (r : Restoration) :
    { circuit := c, restoration := r } ∈ (computePass i).outcomes ↔
      ∃ f, (c, f) ∈ i.circuits ∧ r = restorationOf i (placeAll i) c f := by
  unfold computePass
  simp only [List.mem_map, Outcome.mk.injEq, Prod.exists]
  constructor
  · rintro ⟨_, f, hm, rfl, rfl⟩; exact ⟨f, hm, rfl⟩
  · rintro ⟨f, hm, rfl⟩; exact ⟨c, f, hm, rfl, rfl⟩

/-- The grant list holds for each circuit of the inputs the start it was placed at, and nothing else (R103, R105). -/
theorem mem_grants (i : PassInputs) (c x : Nat) :
    { circuit := c, start := x } ∈ (computePass i).grants ↔
      (∃ f, (c, f) ∈ i.circuits) ∧ (placeAll i).grants.lookup c = some x := by
  unfold computePass
  simp only [List.mem_filterMap, Option.map_eq_some_iff, Grant.mk.injEq, Prod.exists]
  constructor
  · rintro ⟨_, f, hm, _, hl, rfl, rfl⟩; exact ⟨⟨f, hm⟩, hl⟩
  · rintro ⟨⟨f, hm⟩, hl⟩; exact ⟨c, f, hm, x, hl, rfl, rfl⟩

/-! ### Reports of the map -/

theorem raise_prefix (x : Subject) (s : State) : s.reports.subjects <+: (raise x s).reports.subjects := by
  rcases raise_reports x s with h | ⟨_, _, h⟩ <;> rw [h]
  exact List.prefix_append _ _

theorem raiseAll_prefix (xs : List Subject) (s : State) : s.reports.subjects <+: (raiseAll xs s).reports.subjects := by
  induction xs generalizing s with
  | nil => exact List.prefix_refl _
  | cons x xs ih => exact (raise_prefix x s).trans (ih _)

/-- No report goes away at a map change. -/
theorem mapChange_prefix (s : State) : s.reports.subjects <+: (mapChange s).reports.subjects := by
  have happly : ∀ r u, u.reports.subjects <+: (applyPlan r u).reports.subjects := fun r u => by
    unfold applyPlan install
    dsimp only
    refine List.IsPrefix.trans ?_ (raise_prefix _ _)
    refine List.IsPrefix.trans ?_ (raiseAll_prefix _ _)
    simp
  have hans : ∀ u, u.reports.subjects <+: (answerMapChange u).reports.subjects := fun u => by
    unfold answerMapChange; split
    · exact happly _ _
    · exact List.prefix_refl _
  have hab : (abandonBuild s).reports = s.reports := by simp
  unfold mapChange
  repeat' split
  · exact hans s
  · rw [← hab]; exact hans _
  · exact List.prefix_refl _
  · exact List.prefix_refl _
  · rw [hab]
  · exact List.prefix_refl _

theorem deliverMapChange_prefix (m : FailureMap) (s : State) :
    s.reports.subjects <+: (deliverMapChange m s).reports.subjects := by
  unfold deliverMapChange; split
  · exact List.prefix_refl _
  · exact mapChange_prefix s

/-- What writing the map reports: every span whose conditions, operator state or place in the ring it changes (R58). -/
theorem writeMap_reported (m : FailureMap) (s : State) : mapReported s (writeMap m s) := by
  refine ⟨by unfold writeMap; dsimp only; refine List.IsPrefix.trans ?_ (raiseAll_prefix _ _); exact List.prefix_refl _,
    fun k hk hne hen => ?_⟩
  have hm := writeMap_map m s
  unfold State.span at hne
  rw [hm] at hne
  unfold writeMap
  dsimp only
  refine mem_raiseAll _ _ (List.mem_map_of_mem ?_) ?_
  · unfold changedSpans
    rw [List.mem_filter]
    exact ⟨List.mem_range.mpr hk, by simpa using Ne.symm hne⟩
  · rw [settings_of_table (s := s) (by simp)] at hen; exact hen

/-- The reports of a write go on to be pending while its map and settings stay and no pending report goes away. -/
theorem mapReported_keeps {s t u : State} (h : mapReported s t) (hm : u.map = t.map) (hs : u.settings = t.settings)
    (hr : t.reports.subjects <+: u.reports.subjects) : mapReported s u := by
  refine ⟨h.1.trans hr, fun k hk hne hen => hr.subset (h.2 k hk ?_ (hs ▸ hen))⟩
  unfold State.span at hne ⊢
  rw [← hm]; exact hne

end Sys2Proof.Machine
end

