-- ==== Sys2Proof/Laws/Ends.lean ====
section
/-! SUPPORT. Laws of the span ends and of what is handed on: what each write of the Failure Map leaves in the end records
(R45, R47, R48, R50), and what an origination leaves (R74). -/

namespace Sys2Proof.Machine

/-! ### One end -/

theorem look_setLowEnd (k : Nat) (views : Option (Quad View)) (r : OperatorRequest) (t : Table SpanEntry) (j : Nat) :
    look .outside (setLowEnd k views r t) j =
      if j = k then { look .outside t k with lowViews := views, lowRequest := r } else look .outside t j := look_put ..

theorem look_setHighEnd (k : Nat) (views : Option (Quad View)) (r : OperatorRequest) (t : Table SpanEntry) (j : Nat) :
    look .outside (setHighEnd k views r t) j =
      if j = k then { look .outside t k with highViews := views, highRequest := r } else look .outside t j := look_put ..

/-! ### Both ends of a span of a map -/

/-- The low and the high end of span `k` of a map that is not in place yet. -/
def FailureMap.ends (m : FailureMap) (k : Nat) :
    (Option (Quad View) × OperatorRequest) × (Option (Quad View) × OperatorRequest) :=
  let e := look .outside m.spans k
  ((e.lowViews, e.lowRequest), (e.highViews, e.highRequest))

/-- What one low end that is written leaves in every end of a map. -/
theorem ends_setLowEnd (m : FailureMap) (k : Nat) (v : Option (Quad View)) (r : OperatorRequest) (j : Nat) :
    ({ m with spans := setLowEnd k v r m.spans } : FailureMap).ends j =
      (if j = k then (v, r) else (m.ends j).1, (m.ends j).2) := by
  unfold FailureMap.ends
  simp only [look_setLowEnd]
  by_cases h : j = k <;> simp [h]

/-- What one high end that is written leaves in every end of a map. -/
theorem ends_setHighEnd (m : FailureMap) (k : Nat) (v : Option (Quad View)) (r : OperatorRequest) (j : Nat) :
    ({ m with spans := setHighEnd k v r m.spans } : FailureMap).ends j =
      ((m.ends j).1, if j = k then (v, r) else (m.ends j).2) := by
  unfold FailureMap.ends
  simp only [look_setHighEnd]
  by_cases h : j = k <;> simp [h]

/-- What writing a position's two ends leaves in every end of the map (R47, R48). -/
theorem ends_setEndsOf (n q : Nat) (low high : Option (Quad View)) (lr hr : OperatorRequest) (m : FailureMap) (k : Nat) :
    (setEndsOf n q low high lr hr m).ends k =
      (if k = q then (high, hr) else (m.ends k).1, if k = ringSub n q 1 then (low, lr) else (m.ends k).2) := by
  have h := ends_setLowEnd { m with spans := setHighEnd (ringSub n q 1) low lr m.spans } q high hr k
  unfold setEndsOf
  rw [h, ends_setHighEnd]

/-- What storing one port copy leaves in every end of the map (R45). -/
theorem ends_storeCopy (n p : Nat) (o : Orientation) (m : FailureMap) (side : Side) (k : Nat) :
    (storeCopy n p o m side).ends k =
      (if side = clockwiseSide o ∧ k = p then (m.copies.get side).asEnd else (m.ends k).1,
        if side ≠ clockwiseSide o ∧ k = ringSub n p 1 then (m.copies.get side).asEnd else (m.ends k).2) := by
  unfold storeCopy PortCopy.asEnd
  by_cases h : side = clockwiseSide o
  · simp [h, ends_setLowEnd]
  · simp [h, ends_setHighEnd]

@[simp] theorem storeCopy_copies (n p : Nat) (o : Orientation) (m : FailureMap) (side : Side) :
    (storeCopy n p o m side).copies = m.copies := by
  unfold storeCopy; dsimp only; split <;> rfl

theorem counterSide_ne (o : Orientation) : counterSide o ≠ clockwiseSide o := by cases o <;> decide

/-- What storing both port copies leaves in every end of the map of a placed node (R45). -/
theorem ends_storeOwnEnds (s : State) (m : FailureMap) {p : Nat} (hp : s.position = some p) (k : Nat) :
    (storeOwnEnds s m).ends k =
      (if k = p then (m.copies.get (clockwiseSide s.settings.orientation)).asEnd else (m.ends k).1,
        if k = ringSub s.ringSize p 1 then (m.copies.get (counterSide s.settings.orientation)).asEnd
        else (m.ends k).2) := by
  unfold storeOwnEnds
  simp only [hp, ends_storeCopy, storeCopy_copies]
  simp [counterSide_ne]

@[simp] theorem storeOwnEnds_copies (s : State) (m : FailureMap) : (storeOwnEnds s m).copies = m.copies := by
  unfold storeOwnEnds; split <;> simp

/-! ### The map in place -/

/-- A map that is put in place keeps every end of a span of the ring (R43, R56). -/
theorem writeMap_ends (m : FailureMap) (s : State) {k : Nat} (hk : k < spansOfRing s.table.ring s.node.strap) :
    ((writeMap m s).lowEnd k, (writeMap m s).highEnd k) = m.ends k := by
  unfold State.lowEnd State.highEnd State.span FailureMap.ends
  rw [writeMap_map, look_deriveSpans, if_pos hk]

@[simp] theorem writeMap_copies (m : FailureMap) (s : State) : (writeMap m s).map.copies = m.copies := by
  rw [writeMap_map]

/-! ### Originations -/

/-- An own notice that is offered stands in the queue, and the queued notices of other positions stay (R71). -/
theorem mem_offerNotice_own (v : QueuedNotice) (q : List QueuedNotice) (hv : v.own = true) :
    v ∈ offerNotice v q ∧
      ∀ x : QueuedNotice, x.notice.position ≠ v.notice.position → (x ∈ offerNotice v q ↔ x ∈ q) := by
  unfold offerNotice
  cases hf : q.find? (fun e => e.notice.position == v.notice.position) with
  | none => exact ⟨by simp, fun x hx => by simp; rintro rfl; exact absurd rfl hx⟩
  | some e =>
    have he : e.notice.position = v.notice.position := by simpa using List.find?_some hf
    simp only [hv, if_true]
    unfold replaceNotice
    refine ⟨List.mem_map.mpr ⟨e, List.mem_of_find?_eq_some hf, if_pos he⟩, fun x hx => ⟨fun hm => ?_, fun hm => ?_⟩⟩
    · obtain ⟨y, hy, hxy⟩ := List.mem_map.mp hm
      split at hxy
      · exact absurd (hxy ▸ rfl) hx
      · exact hxy ▸ hy
    · exact List.mem_map.mpr ⟨x, hm, if_neg hx⟩

/-- An origination of a STARTING or ACTIVE node is one notice of what the node holds (R74). -/
theorem originate_originated (s : State) (hr : s.node.state.runs = true) : originated s (originate s) := by
  intro own hp
  have hn := originate_notices s hr hp
  have hf : (originate s).noticeAt own s.notices.sequence = ownNotice own s := by
    unfold State.noticeAt ownNotice originate
    rw [hr, hp]
    simp only [bne, beq_eq_decide, decide_not]
    rfl
  rw [hf, hn]
  have hm := fun q => mem_offerNotice_own { notice := ownNotice own s, own := true } q rfl
  refine ⟨fun p => ?_, rfl, ?_, fun p v hv => ?_⟩
  · rw [hn]; cases p <;> exact (hm _).1
  · have ht : (originate s).now = s.now ∧ (originate s).settings = s.settings := by unfold State.settings; simp
    rw [ht.1, ht.2]; simp [ms, Config.periodsPerMs, Nat.mul_comm]
  · cases p <;> exact (hm _).2 v hv

end Sys2Proof.Machine
end

