-- ==== Sys2Proof/WellFormed.lean ====
section
/-! DEFINITION. WellFormed: what the frames and the bulk data of a command must satisfy to be something the
connections of the part can carry. -/

namespace Sys2Proof

/-- A band frame holds
16 slots and 32 management bytes (02, "Band receivers"). -/
def BandFrame.wellFormed (f : BandFrame) : Bool :=
  f.slots.length == 16 && f.management.length == 32

/-- A tributary frame holds 16 slots and 32 management bytes (R126, R127). -/
def TributaryFrame.wellFormed (f : TributaryFrame) : Bool :=
  f.slots.length == 16 && f.management.length == 32

/-- A management frame's size lies in 12..1024 bytes (R153). -/
def frameSizeOk (bytes : List Byte) : Bool :=
  12 ≤ bytes.length && bytes.length ≤ 1024

/-- The bulk data of a LOAD lies in one request body of at most 1014 bytes, after the LOAD's own byte (R165). -/
def bulkSizeOk (bulk : List Byte) : Bool :=
  bulk.length ≤ 1013

/-- A command the part's connections can carry. -/
def Instr.wellFormed : Instr → Bool
  | .powerReset _ => true
  | .bandFrame _ _ f => f.wellFormed
  | .bandEntryIntoLost _ _ => true
  | .bandEntryIntoAligned _ _ f => f.wellFormed
  | .degradeIntervalEnd _ _ f => f.wellFormed
  | .holdOffExpiry _ _ => true
  | .returnTimerExpiry _ _ => true
  | .bandFrameTransmit _ => true
  | .tributaryFrame _ f => f.wellFormed
  | .tributaryAlignmentChange _ f => f.wellFormed
  | .tributaryFrameTransmit _ => true
  | .switchFrameBoundary => true
  | .tagCheckStateChange _ => true
  | .noticeTaken => true
  | .stalenessExpiry _ => true
  | .refreshTimerExpiry => true
  | .gatherExpiry => true
  | .passCompletion => true
  | .buildStart => true
  | .buildEnd => true
  | .listenExpiry => true
  | .managementFrameFromLine _ bytes => frameSizeOk bytes
  | .managementFrameFromTributary bytes => frameSizeOk bytes
  | .executeRequest _ => true
  | .select _ _ => true
  | .load bulk => bulkSizeOk bulk
  | .read _ => true
  | .serviceIn _ => true
  | .serviceOut _ => true
  | .holdTimerExpiry => true
  | .heldServiceRelease => true
  | .operator _ _ => true
  | .capture _ => true
  | .restart => true
  | .reportEmission => true

end Sys2Proof
end

