-- ==== Sys2Proof/Tests/Slice0.lean ====
section
/-! SUPPORT. Tests: what WellFormed refuses, the manual's worked examples, and for every statement with hypotheses a witness
that meets them, each clause at a boundary of its range. -/

namespace Sys2Proof.Tests

open Sys2Proof.Machine

-- One theorem at a time: the kernel evaluates the states of many of them.
set_option Elab.async false

/-! ### States the tests build on -/

/-- The ring of the worked cases: IDs 11..16. -/
def ring6 : Table Byte := [(0, 11), (1, 12), (2, 13), (3, 14), (4, 15), (5, 16)]

/-- Static fields, in the order of the worked case's table. -/
def circuitOf (cls : CircuitClass) (w start a b : Nat) : CircuitFields :=
  { cls := cls, width := w, start := start, endA := a, endB := b, direction := .cw }

/-- The six circuits of the worked case (05, "Worked case: one span cut"). -/
def worked : List (Nat × CircuitFields) :=
  [(3, circuitOf .standard 16 48 4 0), (5, circuitOf .premium 12 0 1 4), (6, circuitOf .basic 4 30 2 3),
    (7, circuitOf .extra 16 0 4 1), (8, circuitOf .standard 16 16 0 1), (9, circuitOf .unguarded 16 32 5 1)]

/-- The attachments of position 0 (01, "Example: taking a circuit into service"). -/
def attachmentOf (c : Nat) : Option Attachment :=
  if c = 3 then some { port := 1, start := 0 } else if c = 8 then some { port := 2, start := 0 } else none

/-- The occupancy of the worked case, span by span in the order of the ranges' starts. -/
def occupancy6 : Table Occupant :=
  let byStart := [5, 7, 8, 6, 9, 3].filterMap (fun c => worked.find? (fun e => e.1 == c))
  (List.range 6).flatMap (fun k =>
    (byStart.filter (fun e => (e.2.workingRoute 6).contains k)).flatMap (fun e =>
      (rangeSlots e.2.start e.2.width).map (fun u => (slotKey k u, occupantOf e.1 e.2))))

/-- Own ID 11, UNPLACED. -/
def unplaced : State := State.powerOn 11

/-- Position 0 of the six-node ring, ACTIVE, with no circuit. -/
def bare : State :=
  restartMap { unplaced with
    node := { strap := 11, state := .active }
    table := { unplaced.table with ring := ring6 } }

/-- The same with the worked case's circuits in service. -/
def full : State :=
  { bare with table := { bare.table with
    circuits := worked.map (fun e => (e.1, .inService e.2 (attachmentOf e.1) .normal
      ((attachmentOf e.1).map (fun _ => TagCheck.initial))))
    occupancy := occupancy6 } }

/-- The inputs of the worked case's pass: span 2 cut. -/
def cut2 : PassInputs := buildInputs 2 full

/-- A state with one command waiting. -/
def waiting (c : Instr) (s : State) : State := { s with pending := [c] }

/-- An ALIGNED band at a position of its degrade interval. -/
def alignedBand (run position : Nat) (view : View) : Band :=
  { alignment := .aligned, run := run, slots := []
    supervisor :=
      { holdOff := none, holdOffExpired := false, firstAlignment := false, position := position, errored := 0
        touched := false, rawDegrade := false, returnTimer := none, view := view } }

/-- A LOST band at the last position but one, with a return delay to come. -/
def lostBand (run : Nat) (view : View) (raw : Bool) : Band :=
  { alignedBand run 9998 view with
    alignment := .lost
    supervisor := { (alignedBand run 9998 view).supervisor with holdOff := some 7, rawDegrade := raw } }

/-- A good frame with a notice field. -/
def goodFrame (notice : NoticeField) : BandFrame :=
  { alignmentWord := true, payloadGood := true, slots := List.replicate 16 { content := .data 5, tag := 9 }
    notice := notice, management := List.replicate 32 0 }

/-- A notice of origin position `q` of the six-node ring. -/
def noticeFrom (q : Nat) (id sequence : Byte) (hops : Nat) : Notice :=
  { position := q, id := id, sequence := sequence, hops := hops, starting := false
    lowViews := Quad.all .clear, highViews := Quad.all .failed, lowRequest := .none, highRequest := .force
    digest := 23633 }

/-- A state with a notice in the East latch. -/
def withNotice (v : Notice) (s : State) : State :=
  s.setPort .east { s.port .east with latch := .held .clean (fieldOf v) }

/-- A state whose East and West band 0 are as given. -/
def withBand (v : Band) (s : State) : State := s.setBand .east 0 v

/-- A state with another engine state. -/
def withEngine (e : EngineState) (s : State) : State := setEngine e s

/-- A state with a cursor. -/
def atCursor (t : TableId) (i : Nat) (s : State) : State := setCursor t i s

/-- Part of the worked case's result: its grants, and the states of c5, c6 and c7. -/
def grants2 : List Grant := [{ circuit := 5, start := 0 }, { circuit := 6, start := 12 }]

def outcomes2 : List Outcome :=
  [{ circuit := 5, restoration := .restored 0 }, { circuit := 6, restoration := .restored 12 },
    { circuit := 7, restoration := .preempted }]

/-- The worked case's circuits with every span CLEAR and all other nodes agreeing, and plan 2 VALID. -/
def readyState : State :=
  let clear : Option (Quad View) := some (Quad.all .clear)
  { full with
    table := { full.table with digest := 23633 }
    map := { full.map with
      spans := deriveSpans 6 false
        ((List.range 6).map (fun k => (k, { SpanEntry.outside with lowViews := clear, highViews := clear }))) }
    notices := { full.notices with
      convergence := .converged
      records := (List.range 5).map (fun k => (k + 1, .fresh ((noticeFrom (k + 1) 0 250 2).contents .west) 3500)) }
    plans := [(2, .valid 0 grants2 outcomes2)] }

/-! ### WellFormed refuses -/

theorem test_ill_band_slots : Instr.wellFormed (.bandFrame .east 0 { goodFrame 0 with slots := [] }) = false := by decide

theorem test_ill_band_management :
    Instr.wellFormed (.bandEntryIntoAligned .east 0 { goodFrame 0 with management := [] }) = false := by decide

theorem test_ill_tributary_slots :
    Instr.wellFormed (.tributaryFrame 0
      { alignmentWord := true, slots := [], management := List.replicate 32 0 }) = false := by decide

theorem test_ill_tributary_management :
    Instr.wellFormed (.tributaryAlignmentChange 0
      { alignmentWord := true, slots := (goodFrame 0).slots, management := [] }) = false := by decide

theorem test_ill_short_frame : Instr.wellFormed (.managementFrameFromLine .east (List.replicate 11 0)) = false := by decide

theorem test_ill_long_frame :
    Instr.wellFormed (.managementFrameFromTributary (List.replicate 1025 0)) = false := by decide +kernel

theorem test_ill_bulk : Instr.wellFormed (.load (List.replicate 1014 0)) = false := by decide +kernel

theorem test_well_formed_frame : Instr.wellFormed (.degradeIntervalEnd .west 3 (goodFrame 0)) = true := by decide

/-! ### The manual's worked examples -/

/-- 05, "Worked case": the occupancy has an entry for each slot of each working range on each span of its route, at its first
and its last among them. -/
theorem test_occupancy :
    occupancy6.length = (worked.map (fun e => (e.2.workingRoute 6).length * e.2.width)).sum ∧
    ∀ e ∈ worked, ∀ k ∈ e.2.workingRoute 6, ∀ u ∈ [e.2.start, e.2.start + e.2.width - 1],
      look .none occupancy6 (64 * k + u) = occupantOf e.1 e.2 := by decide +kernel

/-- 01, "Example: evaluating ring maps": the rows' sizes and own positions, for the own ID 13. -/
theorem test_ring_maps :
    (ringSizeOf ring6, ownPositionOf ring6 13) = (6, some 2) ∧
    ownPositionOf [(0, 11), (1, 12), (2, 14), (3, 15)] 13 = none ∧ ownPositionOf [(0, 13)] 13 = none ∧
    ownPositionOf [(0, 11), (1, 13), (2, 12), (3, 13)] 13 = none ∧
    ownPositionOf [(0, 11), (1, 12), (2, 11), (3, 13)] 13 = none ∧
    (ringSizeOf [(0, 11), (1, 13), (3, 14)], ownPositionOf [(0, 11), (1, 13), (3, 14)] 13) = (2, none) := by
  decide +kernel

/-- 05, "Worked case": the routes of c7 and of c6. -/
theorem test_routes :
    (circuitOf .extra 16 0 4 1).workingRoute 6 = [4, 5, 0] ∧
    (circuitOf .extra 16 0 4 1).restorationRoute 6 = [3, 2, 1] ∧
    (circuitOf .basic 4 30 2 3).restorationRoute 6 = [1, 0, 5, 4, 3] := by decide

/-- 01, "Example: computing the digest": 22119 with c5 in service, 23633 without. -/
theorem test_digest :
    digestOf { bare.table with
      circuits := [(5, .inService (circuitOf .premium 12 0 1 4) none .normal none)] } = 22119 ∧
    digestOf bare.table = 23633 := by decide +kernel

/-- 01, "Example: taking a circuit into service": the four attempts on c10. -/
theorem test_service_in_checks :
    let c10 (start port tstart : Nat) : State :=
      full.setCircuit 10 (.defined { circuitOf .standard 8 start 0 2 with endA := 0 }
        (some { port := port, start := tstart }))
    serviceInCode (c10 8 1 8) 10 = .attachment ∧ serviceInCode (c10 8 3 0) 10 = .conflict ∧
    serviceInCode (c10 40 3 0) 10 = .conflict ∧ serviceInCode (c10 48 3 0) 10 = .ok := by decide +kernel

/-- 05, "Worked case": the pass grants c5 start 0 and c6 start 12 and preempts c7. -/
theorem test_worked_pass :
    (computePass cut2).grants = [{ circuit := 5, start := 0 }, { circuit := 6, start := 12 }] ∧
    (computePass cut2).outcomes.map (fun o => o.restoration) =
      [.normal, .restored 0, .restored 12, .preempted, .normal, .normal] := by decide +kernel

/-- R41's examples: what loads of hold-off 1,234 ms and 55 ms, of set 100 with clear 150, and of set 20,000 store. -/
theorem test_settings_limits :
    let stored (g : Settings) : Settings := settingsImage (settingsRecord g)
    (stored { Settings.default with holdOff := 1234 }).holdOff = 1000 ∧
    (stored { Settings.default with holdOff := 55 }).holdOff = 50 ∧
    (stored { Settings.default with degradeSet := 100, degradeClear := 150 }).degradeClear = 100 ∧
    (stored { Settings.default with degradeSet := 20000 }).degradeSet = 10000 := by decide +kernel

/-- 02, "Example: degrade thresholds": raw degrade after the five intervals. -/
theorem test_degrade_rows :
    let after (raw touched : Bool) (errored : Nat) : Bool :=
      rawDegradeAfter 100 10 { (alignedBand 0 0 .clear).supervisor with rawDegrade := raw, touched := touched, errored := errored }
    after false false 120 = true ∧ after true false 40 = true ∧ after true true 2 = true ∧ after true false 9 = false ∧
    after false false 0 = false := by decide

/-- 04, "Example: the acceptance window": the differences 2, 0, 255, 7 and 197. -/
theorem test_window :
    ahead 252 250 = true ∧ ahead 252 252 = false ∧ ahead 251 252 = false ∧ ahead 3 252 = true ∧ ahead 200 3 = false := by
  decide

/-- 04, "Example: an outgoing queue": events 1, 2, 4, 5 and 6. -/
theorem test_outgoing_queue :
    let item (q : Nat) (id sequence : Byte) (hops : Nat) (own : Bool) : QueuedNotice :=
      { notice := noticeFrom q id sequence hops, own := own }
    let q0 := [item 3 14 10 3 false, item 4 15 7 2 false, item 0 11 100 5 true]
    let q1 := [item 3 14 10 3 false, item 4 15 8 2 false, item 0 11 100 5 true]
    let q3 := [item 4 15 8 2 false, item 0 11 101 5 true]
    offerNotice (item 4 15 8 2 false) q0 = q1 ∧
    (offerNotice (item 0 11 101 5 true) q1).tail = q3 ∧
    offerNotice (item 3 14 9 2 false) q3 = q3 ++ [item 3 14 9 2 false] ∧
    offerNotice (item 4 15 7 2 false) q3 = q3 ∧ offerNotice (item 0 99 1 4 false) q3 = q3 := by decide

/-- R185: the first code values, and how many there are; 12, "Example: an empty field and one corrected notice": that of data
bit 24, and the sequence restored. -/
theorem test_check_code :
    codeValues.take 5 = [3, 5, 6, 7, 9] ∧ codeValues.length = 120 ∧ codeValues[24]? = some 30 ∧
    readField 0 = none ∧
    checkField (flipBit (fieldOf (noticeFrom 3 14 10 3)) 24) = (.corrected, fieldOf (noticeFrom 3 14 10 3)) ∧
    (checkField (flipBit (flipBit (fieldOf (noticeFrom 3 14 10 3)) 24) 25)).1 = .uncorrectable := by decide +kernel

/-- R52 and R54, R55: RETURN_WAIT is worse than DEGRADED, in W and not in X. -/
theorem test_conditions :
    worse .returnWait .degraded = .returnWait ∧ inWorkingBlocked false .none .returnWait = true ∧
    inRestorationBarred false .none .returnWait = false := by decide

/-- R75: an orientation change originates a notice when the own ends differ by it, and none when both ports' views are alike. -/
theorem test_orientation_notice :
    let after (s : State) : State := storeSettings { s.settings with orientation := .reversed } s
    (after bare).notices.sequence = 0 ∧ (after (viewsDelivered .east (Quad.all .clear) bare)).notices.sequence = 2 := by
  decide +kernel

/-- 09, "Example: reading the circuit table": READ 40 at CIRCUIT 1020 returns 4 records and END_OF_TABLE. -/
theorem test_read_end :
    (directive (.read 40) (atCursor .circuit 1020 bare)).mgmt.lastItems =
      [{ index := 0, code := .endOfTable, count := 4 }] := by decide +kernel

/-- R136: three mismatching frames enter MISMATCH. -/
theorem test_tag_check :
    let k : TagCheck := { TagCheck.initial with begun := true }
    (k.frame false).run = 1 ∧ ((k.frame false).frame false).state = .match_ ∧
    (((k.frame false).frame false).frame false).state = .mismatch ∧ ((k.frame false).frame true).run = 0 := by decide

/-! ### Witnesses: the queue, the invariants, the whole machine -/

theorem witness_StepExecutesTheFrontCommand :
    (waiting .buildStart full).pending = [.buildStart] ∧ full.pending = [] := by decide +kernel

/-- A state every invariant but the pass's is witnessed at: the worked ring with reports pending and a command waiting. -/
def invariantState : State := waiting .switchFrameBoundary (raise .node bare)

theorem witness_StepsKeepTablesCanonical :
    invariantState.tablesWf = true ∧ ∃ t, step invariantState = .next t := ⟨by decide +kernel, _, rfl⟩

theorem witness_StepsKeepQueueBounds :
    invariantState.queuesBounded = true ∧ ∃ t, step invariantState = .next t := ⟨by decide +kernel, _, rfl⟩

theorem witness_StepsKeepListsUnique :
    invariantState.listsUnique ∧ ∃ t, step invariantState = .next t :=
  ⟨⟨by decide +kernel, fun p => by cases p <;> decide +kernel⟩, _, rfl⟩

theorem witness_StepsKeepTheMapDerived :
    invariantState.mapDerived ∧ ∃ t, step invariantState = .next t :=
  ⟨by unfold State.mapDerived; decide +kernel, _, rfl⟩

/-- The worked ring with position 4's notice applied: one record FRESH, and its two ends present. -/
def heard : State := applyNotice .west (noticeFrom 4 15 250 2) bare

/-- The invariants of the ends hold with a record FRESH, and with its staleness expiry to come; position 5's ends are ABSENT. -/
theorem witness_StepsKeepTheMapDerived_ends :
    let s := waiting (.stalenessExpiry 4) heard
    s.mapDerived ∧ s.stateAllows ∧ s.endsHeld ∧ s.lowEnd 4 = (some (Quad.all .failed), .force) ∧
    s.highEnd 3 = (some (Quad.all .clear), .none) ∧ s.lowEnd 5 = absentEnd ∧ ∃ t, step s = .next t := by
  have hp : heard.position = some 0 := by decide +kernel
  have hn : heard.ringSize = 6 := by decide +kernel
  have hr : ∀ e ∈ heard.notices.records, e.1 = 4 := by decide +kernel
  refine ⟨by unfold State.mapDerived; decide +kernel,
    ⟨by decide +kernel, fun h => absurd h (by decide +kernel), fun h => absurd (by decide +kernel) h⟩,
    ⟨fun p => by cases p <;> decide +kernel, fun q hq => look_of_not_mem (fun e he h => ?_), fun own ho => ?_⟩,
    by decide +kernel, by decide +kernel, by decide +kernel, _, rfl⟩
  · rw [hr e he] at h
    subst h
    exact absurd hq (show ¬(heard.position = none ∨ heard.position = some 4 ∨ heard.ringSize ≤ 4) by rw [hp, hn]; decide)
  · obtain rfl : 0 = own := Option.some.inj (hp.symm.trans ho)
    refine ⟨by decide +kernel, by decide +kernel, fun q hq h0 => ?_⟩
    have hall : ∀ q ∈ List.range 6, q ≠ 0 →
        (heard.lowEnd q, heard.highEnd (ringSub heard.ringSize q 1)) = (heard.record q).ends := by decide +kernel
    exact hall q (List.mem_range.mpr (hn ▸ hq)) h0

/-- The worked ring with its digest. -/
def digestState : State :=
  { invariantState with table := { invariantState.table with digest := 23633 } }

theorem witness_StepsKeepTheDigestFresh :
    digestState.digestFresh ∧ ∃ t, step digestState = .next t :=
  ⟨by unfold State.digestFresh; decide +kernel, _, rfl⟩

theorem witness_StepsKeepConvergenceFresh :
    invariantState.convergenceFresh ∧ ∃ t, step invariantState = .next t :=
  ⟨by unfold State.convergenceFresh; decide +kernel, _, rfl⟩

theorem witness_StepsKeepPlansCurrent :
    ({ invariantState with plans := [(5, .valid 0 [] [])] } : State).plansCurrent ∧
      ∃ t, step { invariantState with plans := [(5, .valid 0 [] [])] } = .next t := by
  refine ⟨⟨fun k g l o h => ?_, fun k i h => by cases h⟩, _, rfl⟩
  by_cases hk : (5 : Nat) = k
  · subst hk
    simp only [State.plan, look, if_pos] at h
    injection h with hg
    exact ⟨hg.symm, by decide +kernel⟩
  · simp [State.plan, look, hk] at h

/-- A VALID plan with the lists of its build, and the build of another on the inputs of its generation: one change of the generation
since its start, and none. -/
theorem witness_StepsKeepPlansCurrent_computed :
    let s : State := withEngine (.build 4 (buildInputs 4 invariantState))
      { invariantState with plans := [(4, .building 0), (5, .valid 0 [] [])] }
    let moved : State := { s with table := { s.table with generation := 1 } }
    s.tablesWf = true ∧ s.plansComputed ∧ s.buildCurrent ∧ moved.buildCurrent ∧ s.settings.maxReply ≤ 1024 ∧
    (∀ k i g, s.engine.state = .build k i → s.plan k = .building g → g = s.table.generation) ∧
    (∃ t, step s = .next t) ∧ (moved.table.generation - 0).toNat + 256 < 4294967296 ∧
    (s.table.generation - 0).toNat = 0 := by
  intro s moved
  have hb : ∀ k i, s.engine.state = .build k i → k = 4 ∧ i = buildInputs 4 invariantState := by
    intro k i h; injection h with hk hi; exact ⟨hk.symm, hi.symm⟩
  refine ⟨by decide +kernel, fun k g l o h => ?_, fun k i g h _ _ => ?_, fun k i g h hp hg => ?_, by decide +kernel,
    fun k i g h hp => ?_, ⟨_, rfl⟩, by decide +kernel, by decide +kernel⟩
  · by_cases hk : k = 5
    · subst hk
      have : s.plan 5 = .valid 0 [] [] := by decide +kernel
      rw [this] at h
      injection h with _ hl ho
      subst hl; subst ho
      exact ⟨by decide +kernel, by decide +kernel⟩
    · by_cases hk' : k = 4
      · subst hk'
        have : s.plan 4 = .building 0 := by decide +kernel
        rw [this] at h; cases h
      · have h4 : ¬(4 = k) := fun e => hk' e.symm
        have h5 : ¬(5 = k) := fun e => hk e.symm
        simp [s, State.plan, withEngine, setEngine, look, h4, h5] at h
  · obtain ⟨rfl, rfl⟩ := hb k i h
    decide +kernel
  · obtain ⟨rfl, rfl⟩ := hb k i h
    have : moved.plan 4 = .building 0 := by decide +kernel
    rw [this] at hp
    injection hp with hp
    exact absurd (hp.trans hg) (by decide +kernel)
  · obtain ⟨rfl, rfl⟩ := hb k i h
    have : s.plan 4 = .building 0 := by decide +kernel
    rw [this] at hp
    injection hp with hp
    exact hp.symm

theorem witness_StepsKeepEngineWithinNodeState :
    invariantState.stateAllows ∧ ∃ t, step invariantState = .next t := by
  refine ⟨⟨by decide +kernel, fun h => ?_, fun h => absurd rfl h⟩, _, rfl⟩
  exact absurd h (by decide +kernel)

/-- The worked case in PASS. -/
def passState : State := withEngine (.pass (takeSnapshot full)) full

theorem witness_StepsKeepPassesOnCurrentInputs :
    passState.tablesWf = true ∧ passState.mapDerived ∧ passState.stateAllows ∧ passState.passCurrent ∧
      ∃ t, step (waiting .passCompletion passState) = .next t := by
  refine ⟨by decide +kernel, by unfold State.mapDerived; decide +kernel,
    ⟨by decide +kernel, fun h => absurd h (by decide +kernel), fun h => absurd rfl h⟩, fun i h => ?_, _, rfl⟩
  injection h with h
  exact h.symm

theorem witness_UnaddressedHasNoExit :
    (State.powerOn 255).node.state = .unaddressed ∧ (State.powerOn 255).mgmt.execution = .idle ∧
      (∃ t, exec .restart (State.powerOn 255) = .next t) ∧ ∀ strap, Instr.restart ≠ .powerReset strap :=
  ⟨by decide, by decide, ⟨_, rfl⟩, fun _ h => by cases h⟩

theorem witness_RingAndOrientationStayWhileInService :
    (frameBoundary full).anyInService = true ∧ exec .switchFrameBoundary full = .next (frameBoundary full) :=
  ⟨by decide +kernel, rfl⟩

/-! ### Witnesses: line ports -/

theorem witness_BandFrameMovesTheReceiver :
    ((withBand (alignedBand 2 9998 .clear) bare).band .east 0).supervisor.position < 9999 := by decide +kernel

/-- East bands 0 and 1 ALIGNED, the port streaming. -/
def alignedEast : State :=
  let s := (withBand (alignedBand 0 9998 .clear) bare).setBand .east 1 (alignedBand 0 9998 .clear)
  s.setPort .east { s.port .east with streaming := true }

theorem witness_GoodFrameDeliversSlotsAndNotice :
    (alignedEast.band .east (1 : Fin 4)).alignment = .aligned ∧ (alignedEast.band .east (0 : Fin 4)).alignment = .aligned ∧
    (goodFrame 0).alignmentWord = true ∧ (goodFrame 0).payloadGood = true ∧
    (alignedEast.band .east (1 : Fin 4)).supervisor.position < 9999 ∧
    (∃ c : Fin 4, c < 1 ∧ (alignedEast.band .east c).alignment = .aligned) ∧
    (∀ c : Fin 4, c < 0 → (alignedEast.band .east c).alignment = .lost) ∧ (alignedEast.port .east).streaming = true ∧
    alignedEast.mgmt.assemblers.get (.line .east) = .hunt ∧ (goodFrame 0).management = List.replicate 32 0 ∧
    (checkField 0).1 = .clean ∧ (checkField (flipBit 0 0)).1 = .corrected ∧
    (checkField (flipBit (flipBit 0 0) 127)).1 = .uncorrectable := by decide +kernel

/-- An errored frame by its payload check, and one without a good word that leaves the band ALIGNED by one: the source band's notice
is read all the same, and the frame is counted. -/
theorem witness_GoodFrameDeliversSlotsAndNotice_errored :
    let s := withBand (alignedBand 1 9998 .clear) alignedEast
    let bad : BandFrame := { goodFrame (fieldOf (noticeFrom 2 13 251 1)) with payloadGood := false }
    let missing : BandFrame := { bad with alignmentWord := false, payloadGood := true }
    (s.band .east (0 : Fin 4)).run = 1 ∧ bad.alignmentWord = true ∧ (s.band .east (0 : Fin 4)).run < 2 ∧
    (∀ f ∈ [bad, missing], let t := bandFrame .east 0 f s;
      (t.port .east).latch = .held .clean (fieldOf (noticeFrom 2 13 251 1)) ∧ t.counter (ctrErrored .east 0) = 1 ∧
        (t.band .east 0).supervisor.errored = 1) ∧
    ((bandFrame .east 0 bad s).band .east 0).run = 0 ∧ ((bandFrame .east 0 missing s).band .east 0).run = 2 := by
  decide +kernel

/-- East band 0 two missing words into a loss, with hold-off 0. -/
def losing : State := withBand (alignedBand 2 9998 .clear) bare

theorem witness_EntryIntoLostStartsHoldOff :
    (losing.band .east (0 : Fin 4)).alignment = .aligned ∧ (losing.band .east (0 : Fin 4)).run = 2 ∧
    (losing.band .east (0 : Fin 4)).supervisor.position < 9999 ∧ losing.settings.holdOff = 0 ∧
    { losing with table := { losing.table with settings := { losing.settings with holdOff := 10 } } }.settings.holdOff ≠ 0 := by
  decide +kernel

/-- Every span of the ring CLEAR, one band's view as given, East band 0 as given and the engine in a given state. -/
def viewed (b : Band) (e : EngineState) : State := withEngine e (withBand b readyState)

/-- A view that moves the sets, with the engine in each of its states: a gather starts, goes on, or takes over from a build, and a
pass is counted as abandoned. -/
theorem witness_EntryIntoLostStartsHoldOff_mapChange :
    let s (e : EngineState) : State := viewed (alignedBand 2 9998 .clear) e
    let after (e : EngineState) : State := bandEntryIntoLost .east 0 (s e)
    (after .idle).map.sets ≠ (s .idle).map.sets ∧ (after .idle).engine.state = .gather 50 ∧
    (after (.gather 9)).engine.state = .gather 9 ∧ (after (.build 2 cut2)).plan 2 = .stale ∧
    (after (.pass cut2)).counter 1 = 1 ∧ Subject.span 0 ∈ (after .idle).reports.subjects := by decide +kernel

/-- A view that moves is in the port copy, in the own end, and in one notice on each port: East's at the low end of span 0; with
the orientation reversed, at the high end of span 5. -/
theorem witness_EntryIntoLostStartsHoldOff_handedOn :
    let s (o : Orientation) : State :=
      let v := viewed (alignedBand 2 9998 .clear) .idle
      { v with table := { v.table with settings := { v.settings with orientation := o } } }
    let t (o : Orientation) : State := bandEntryIntoLost .east 0 (s o)
    ((t .normal).band .east 0).supervisor.view ≠ ((s .normal).band .east 0).supervisor.view ∧
    (t .normal).lowEnd 0 = ((t .normal).map.copies.get .east).asEnd ∧ (t .normal).lowEnd 0 ≠ (s .normal).lowEnd 0 ∧
    (t .normal).highEnd 5 = (s .normal).highEnd 5 ∧
    (t .reversed).highEnd 5 = ((t .reversed).map.copies.get .east).asEnd ∧ (t .reversed).lowEnd 0 = (s .reversed).lowEnd 0 ∧
    (t .normal).notices.sequence = (s .normal).notices.sequence + 1 ∧
    (t .normal).notices.queues.get .west =
      [{ notice := (t .normal).noticeAt 0 (s .normal).notices.sequence, own := true }] := by decide +kernel

theorem witness_EntryIntoAlignedDerivesTheView :
    let s (view : View) (raw : Bool) : State := withBand (lostBand 1 view raw) bare
    ((s .failed true).band .east (0 : Fin 4)).alignment = .lost ∧ ((s .failed true).band .east (0 : Fin 4)).run = 1 ∧
    (goodFrame 0).alignmentWord = true ∧ ((s .failed true).band .east (0 : Fin 4)).supervisor.position < 9999 ∧
    ((s .failed true).band .east (0 : Fin 4)).supervisor.rawDegrade = true ∧
    ((s .failed false).band .east (0 : Fin 4)).supervisor.view = .failed ∧
    ((s .failed false).band .east (0 : Fin 4)).supervisor.firstAlignment = false ∧
    (s .failed false).settings.returnDelay ≠ 0 ∧
    ((s .clear false).band .east (0 : Fin 4)).supervisor.view = .clear := by decide +kernel

/-- Raw degrade makes the view DEGRADED, which moves X; a build in STARTING is abandoned by it. -/
theorem witness_EntryIntoAlignedDerivesTheView_mapChange :
    let s (e : EngineState) : State := viewed (lostBand 1 .clear true) e
    let after (e : EngineState) : State := bandEntryIntoAligned .east 0 (goodFrame 0) (s e)
    let starting := bandEntryIntoAligned .east 0 (goodFrame 0) (setNodeState (.starting 9) (s (.build 2 cut2)))
    (after .idle).map.sets ≠ (s .idle).map.sets ∧ (after .idle).engine.state = .gather 50 ∧
    Subject.span 0 ∈ (after .idle).reports.subjects ∧ starting.engine.state = .idle ∧ starting.plan 2 = .stale := by
  decide +kernel

theorem witness_DegradeIntervalEndSetsRawDegrade :
    let s (raw : Bool) (view : View) (errored : Nat) : State :=
      withBand { alignedBand 0 9999 view with supervisor :=
        { (alignedBand 0 9999 view).supervisor with rawDegrade := raw, errored := errored } } bare
    ((s false .clear 100).band .east (0 : Fin 4)).supervisor.position = 9999 ∧
    ((s false .clear 100).band .east (0 : Fin 4)).alignment = .aligned ∧ (goodFrame 0).alignmentWord = true ∧
    ((degradeIntervalEnd .east 0 (goodFrame 0) (s false .clear 100)).band .east 0).supervisor.rawDegrade = true ∧
    ((degradeIntervalEnd .east 0 (goodFrame 0) (s false .clear 99)).band .east 0).supervisor.rawDegrade = false ∧
    ((degradeIntervalEnd .east 0 (goodFrame 0) (s true .degraded 9)).band .east 0).supervisor.rawDegrade = false ∧
    ((degradeIntervalEnd .east 0 (goodFrame 0) (s true .degraded 10)).band .east 0).supervisor.rawDegrade = true ∧
    ((s true .degraded 9).band .east (0 : Fin 4)).supervisor.firstAlignment = false ∧
    (s true .degraded 9).settings.returnDelay ≠ 0 := by decide +kernel

/-- An interval whose errored frames set raw degrade moves X; its last frame may lack a good word and leave the band ALIGNED; and a
band stays LOST, or enters LOST, with it. -/
theorem witness_DegradeIntervalEndSetsRawDegrade_mapChange :
    let v := alignedBand 1 9999 .clear
    let s : State := viewed { v with supervisor := { v.supervisor with errored := 99 } } .idle
    let t := degradeIntervalEnd .east 0 noSignal s
    (s.band .east (0 : Fin 4)).alignment = .aligned ∧ (t.band .east (0 : Fin 4)).alignment = .aligned ∧
    (t.band .east (0 : Fin 4)).supervisor.view = .degraded ∧ t.map.sets ≠ s.map.sets ∧ t.engine.state = .gather 50 ∧
    ((degradeIntervalEnd .east 0 noSignal (viewed { v with run := 2 } .idle)).band .east (0 : Fin 4)).alignment = .lost ∧
    ((degradeIntervalEnd .east 0 noSignal (viewed { v with alignment := .lost } .idle)).band .east (0 : Fin 4)).alignment =
      .lost := by decide +kernel

theorem witness_HoldOffExpiryMakesTheViewFailed :
    let s (view : View) (base : State) : State := withBand (lostBand 0 view false) base
    ((s .clear bare).band .east (0 : Fin 4)).supervisor.holdOff = some 7 ∧
    ((s .clear bare).band .east (0 : Fin 4)).alignment = .lost ∧
    ((s .clear bare).band .east (0 : Fin 4)).supervisor.view ≠ .failed ∧ (s .clear bare).position = some 0 ∧
    Side.east = clockwiseSide (s .clear bare).settings.orientation ∧
    Side.west = counterSide (s .clear bare).settings.orientation ∧ (s .clear bare).node.state.runs = true ∧
    ((s .failed bare).band .east (0 : Fin 4)).supervisor.view = .failed ∧
    (s .clear unplaced).position = none := by decide +kernel

/-- The FAILED view moves W and X; each state of the engine answers. -/
theorem witness_HoldOffExpiryMakesTheViewFailed_mapChange :
    let s (e : EngineState) : State := viewed (lostBand 0 .clear false) e
    let after (e : EngineState) : State := holdOffExpiry .east 0 (s e)
    (after .idle).map.sets ≠ (s .idle).map.sets ∧ (after .idle).engine.state = .gather 57 ∧
    (after (.gather 9)).engine.state = .gather 9 ∧ (after (.build 2 cut2)).plan 2 = .stale ∧
    (after (.pass cut2)).counter 1 = 1 ∧ Subject.span 0 ∈ (after .idle).reports.subjects := by decide +kernel

theorem witness_ReturnTimerExpiryClearsTheView :
    let v : Band := { alignedBand 0 0 .returnWait with
      supervisor := { (alignedBand 0 0 .returnWait).supervisor with returnTimer := some 0 } }
    let s := withBand v bare
    let lost := withBand { v with alignment := .lost } bare
    (s.band .east (0 : Fin 4)).supervisor.returnTimer = some 0 ∧
    (s.band .east (0 : Fin 4)).supervisor.view = .returnWait ∧
    (s.band .east (0 : Fin 4)).supervisor.rawDegrade = false ∧ (s.band .east (0 : Fin 4)).alignment = .aligned ∧
    (lost.band .east (0 : Fin 4)).supervisor.holdOffExpired = false := by decide +kernel

/-- A span whose end was in RETURN_WAIT leaves X with the expiry, and a gather starts. -/
theorem witness_ReturnTimerExpiryClearsTheView_mapChange :
    let v : Band := { alignedBand 0 0 .clear with
      supervisor := { (alignedBand 0 0 .clear).supervisor with returnTimer := some 0 } }
    let s := withEngine .idle (setSupervisor .east 0 { v.supervisor with view := .returnWait } (withBand v readyState))
    let t := returnTimerExpiry .east 0 s
    (s.band .east (0 : Fin 4)).supervisor.view = .returnWait ∧ t.map.sets ≠ s.map.sets ∧ t.engine.state = .gather 50 := by
  decide +kernel

/-- The CLEAR view stands in the own end and goes out in one notice. -/
theorem witness_ReturnTimerExpiryClearsTheView_handedOn :
    let v : Band := { alignedBand 0 0 .clear with
      supervisor := { (alignedBand 0 0 .clear).supervisor with returnTimer := some 0 } }
    let s := setSupervisor .east 0 { v.supervisor with view := .returnWait } (withBand v readyState)
    let t := returnTimerExpiry .east 0 s
    t.lowEnd 0 = (t.map.copies.get .east).asEnd ∧ t.lowEnd 0 ≠ s.lowEnd 0 ∧ s.position = some 0 ∧
    s.node.state.runs = true ∧ t.notices.sequence = s.notices.sequence + 1 ∧
    t.notices.queues.get .east = [{ notice := t.noticeAt 0 s.notices.sequence, own := true }] := by decide +kernel

/-! ### Witnesses: formats, tributary ports -/

theorem witness_NoticeFieldRoundTrip :
    let v := noticeFrom 255 0 255 1
    let w := noticeFrom 0 255 0 31
    v.position < 256 ∧ 1 ≤ v.hops ∧ v.hops ≤ 31 ∧ w.position < 256 ∧ 1 ≤ w.hops ∧ w.hops ≤ 31 := by decide

theorem witness_CheckCodeCorrectsOneDetectsTwo :
    (checkField (fieldOf (noticeFrom 5 16 7 31))).1 = .clean ∧ 127 < 128 ∧ 0 ≠ 127 := by decide +kernel

/-- Tributary port 0 as given. -/
def withTributary (a : Machine.Alignment) (run : Nat) : State :=
  bare.setTrib 0 { alignment := a, run := run, slots := [], sent := none }

theorem witness_TributaryFrameMovesTheReceiver :
    ((withTributary .lost 1).trib (0 : Fin 4)).alignment = .lost ∧ ((withTributary .lost 1).trib (0 : Fin 4)).run = 1 ∧
    ((withTributary .aligned 2).trib (0 : Fin 4)).alignment = .aligned ∧
    ((withTributary .aligned 2).trib (0 : Fin 4)).run = 2 ∧ (3 : Fin 4) ≠ 0 := by decide +kernel

/-- Port 0 with a frame half collected: a third missing word and a second good one, each in a TRIBUTARY_FRAME, discard it, the second
with its own management bytes collected after; a second missing word and a first good one do not. -/
theorem witness_TributaryFrameMovesTheReceiver_break :
    let at_ (a : Machine.Alignment) (run : Nat) : State := setAssembler .tributary (.header [1]) (withTributary a run)
    let f (word : Bool) : TributaryFrame :=
      { alignmentWord := word, slots := List.replicate 16 { content := .data 5, tag := 9 }, management := List.replicate 32 0 }
    let after (a : Machine.Alignment) (run : Nat) (word : Bool) : State := tributaryFrame 0 (f word) (at_ a run)
    ((at_ .lost 0).trib (0 : Fin 4)).run = 0 ∧ ((at_ .aligned 1).trib (0 : Fin 4)).run = 1 ∧
    (after .aligned 2 false).mgmt.assemblers.tributary = .hunt ∧ (after .aligned 2 false).counter 35 = 1 ∧
    (after .lost 1 true).mgmt.assemblers.tributary = .hunt ∧ (after .lost 1 true).counter 35 = 1 ∧
    (after .lost 0 true).mgmt.assemblers.tributary = .header [1] ∧
    (after .aligned 1 false) ≠ (at_ .aligned 1).setTrib 0 ((after .aligned 1 false).trib 0) := by decide +kernel

/-- Circuit 3 of the worked case alone, with a tag check. -/
def checked (k : TagCheck) : State :=
  { full with table := { full.table with
    circuits := [(3, .inService (circuitOf .standard 16 48 4 0) (attachmentOf 3) .normal (some k))] } }

/-- A check that has begun. -/
def begun (state : MatchState) (run : Nat) : TagCheck :=
  { state := state, run := run, begun := true, counted := false, squelched := state == .mismatch }

theorem witness_TributaryTransmitterSendsOrSquelches :
    (3, CircuitRecord.inService (circuitOf .standard 16 48 4 0) (some { port := 1, start := 0 }) .normal
      (some (begun .mismatch 0))) ∈ (checked (begun .mismatch 0)).table.circuits ∧
    (begun .mismatch 0).squelched = true ∧ 0 ≤ 15 ∧ 15 < 0 + (circuitOf .standard 16 48 4 0).width ∧
    (1 : Fin 4) ≠ 0 := by decide +kernel

/-! ### Witnesses: the Slot Switch -/

theorem witness_FrameBoundarySwingsAndChecksTags :
    let r (k : TagCheck) : CircuitRecord :=
      .inService (circuitOf .standard 16 48 4 0) (some { port := 1, start := 0 }) .normal (some k)
    (checked (begun .match_ 2)).circuit 3 = r (begun .match_ 2) ∧ (checked (begun .match_ 1)).circuit 3 = r (begun .match_ 1) ∧
    (checked TagCheck.initial).circuit 3 = r TagCheck.initial ∧ TagCheck.initial.begun = false ∧
    (supplied bare (bare.connection (128 + 16 * 1 + 0)).source).tag ≠ some 3 ∧
    (deriveTarget full).switch.target ≠ none ∧
    sameSource (full.connection 144).source (look .fill (targetOf full) 144).source = false := by decide +kernel

theorem witness_ThirdFrameChangesTheTagCheck :
    let c3 := (3 : Fin 1024)
    let drop : Table Connection := put .fill [] 144 { source := .tribIn 0 0 3, circuit := some 3 }
    let fed (k : TagCheck) : State :=
      { (checked k).setTrib 0 { alignment := .aligned, run := 0, slots := [], sent := none } with
        switch := { connections := drop, target := none } }
    (checked (begun .match_ 2)).circuit c3 = .inService (circuitOf .standard 16 48 4 0)
      (some { port := 1, start := 0 }) .normal (some (begun .match_ 2)) ∧
    (supplied (checked (begun .match_ 2)) ((checked (begun .match_ 2)).connection 144).source).tag ≠ some 3 ∧
    (fed (begun .mismatch 2)).circuit c3 = .inService (circuitOf .standard 16 48 4 0)
      (some { port := 1, start := 0 }) .normal (some (begun .mismatch 2)) ∧
    (supplied (fed (begun .mismatch 2)) ((fed (begun .mismatch 2)).connection 144).source).tag = some 3 := by
  decide +kernel

/-- One circuit in service, at the top of the slots. -/
def oneCircuit (f : CircuitFields) (a : Option Attachment) (r : Restoration) : State :=
  { bare with table := { bare.table with circuits := [(1023, .inService f a r none)] } }

theorem witness_TargetConnectsEndsAndPassesThrough :
    let c3 := circuitOf .standard 16 48 4 0
    let s := oneCircuit c3 (some { port := 3, start := 0 }) .normal
    s.node.state.runs = true ∧ s.position = some 0 ∧ s.table.circuits.length = 1 ∧ c3.start + c3.width = 64 ∧
    unplaced.node.state.runs = false ∧ unplaced.position = none := by decide +kernel

/-- The last slot of an end, at the node's counter-clockwise-facing port. -/
theorem witness_TargetConnectsEndsAndPassesThrough_end :
    let c3 := circuitOf .standard 16 48 4 0
    let att : Option Attachment := some { port := 3, start := 0 }
    connects (oneCircuit c3 att .normal) 0 (1023, .inService c3 att .normal none) 127
      { source := .tribIn 3 15 1023, circuit := some 1023 } :=
  ⟨_, _, _, _, .cw, 48, 15, rfl, .inl ⟨rfl, rfl, .inr (.inl rfl)⟩, by decide,
    .inl ⟨_, rfl, .inr rfl, .inl ⟨by decide, rfl⟩⟩⟩

/-- The last slot of a grant range that passes through, and the range within the span. -/
theorem witness_TargetConnectsEndsAndPassesThrough_through :
    let c5 := circuitOf .premium 12 0 1 4
    let s := oneCircuit c5 none (.restored 52)
    connects s 0 (1023, .inService c5 none (.restored 52) none) 63 { source := .lineIn .west 63, circuit := some 1023 } ∧
    ∀ c f a r k dir start, (c, CircuitRecord.inService f a r k) ∈ s.table.circuits →
      usesRoute (decide (s.node.state = .active)) f r dir start → start + f.width ≤ 64 := by
  refine ⟨⟨_, _, _, _, .ccw, 52, 11, rfl, .inr ⟨by decide, rfl, rfl⟩, by decide,
    .inr ⟨by decide +kernel, .inl ⟨by decide, rfl⟩⟩⟩, fun c f a r k dir start hm hu => ?_⟩
  cases List.mem_singleton.mp hm
  rcases hu with ⟨_, rfl, _⟩ | ⟨_, _, h⟩
  · decide
  · injection h with h; subst h; decide

/-! ### Witnesses: the Notice Unit -/

theorem witness_DroppedNoticesChangeNothing :
    let s := withNotice (noticeFrom 3 11 1 2) bare
    let both := s.setPort .west { s.port .west with latch := .held .unknownKind 0 }
    (s.port .east).latch = .held .clean (fieldOf (noticeFrom 3 11 1 2)) ∧ (s.port Side.east.other).latch = .empty ∧
    s.ownId = some (noticeOf (fieldOf (noticeFrom 3 11 1 2))).id ∧ both.notices.firstChoice = true ∧
    (both.port .west).latch ≠ .empty ∧ Side.west = { both.notices with lastTaken := Side.east }.lastTaken.other := by
  decide +kernel

/-- A FRESH record of origin position 4 with last sequence 250 (04, "Example: the acceptance window"). -/
def recordState : State :=
  bare.setRecord 4 (.fresh ((noticeFrom 4 15 250 2).contents .west) 3500)

theorem witness_UnappliedNoticesAreForwarded :
    let s (v : Notice) (base : State) : State := withNotice v base
    let v1 := noticeFrom 4 15 250 1
    let v2 := noticeFrom 4 15 122 2
    let v3 := noticeFrom 6 15 1 31
    ((s v1 recordState).port .east).latch = .held .clean (fieldOf v1) ∧ ((s v1 recordState).port .west).latch = .empty ∧
    noticeOf (fieldOf v1) = v1 ∧ noticeOf (fieldOf v2) = v2 ∧ noticeOf (fieldOf v3) = v3 ∧
    (s v1 recordState).ownId ≠ some v1.id ∧ v1.sequence = 250 ∧ v1.hops = 1 ∧
    128 ≤ (v2.sequence - 250).toNat ∧ 1 < v2.hops ∧
    (s v1 recordState).record 4 = .fresh ((noticeFrom 4 15 250 2).contents .west) 3500 ∧
    bare.ringSize ≤ v3.position ∧ unplaced.node.state.runs = false := by decide +kernel

theorem witness_UnappliedNoticesAreForwarded_queues : (withNotice (noticeFrom 6 15 1 31) bare).listsUnique :=
  ⟨by decide +kernel, fun p => by cases p <;> decide +kernel⟩

theorem witness_AcceptedNoticesAreApplied :
    let v := noticeFrom 5 16 1 1
    let w := noticeFrom 4 15 121 2
    ((withNotice v bare).port .east).latch = .held .clean (fieldOf v) ∧
    ((withNotice v bare).port Side.east.other).latch = .empty ∧ bare.node.state.runs = true ∧ bare.position = some 0 ∧
    noticeOf (fieldOf v) = v ∧ bare.ownId ≠ some v.id ∧ v.position < bare.ringSize ∧
    look 0 bare.table.ring v.position = v.id ∧ bare.record 5 = .never ∧
    noticeOf (fieldOf w) = w ∧ (w.sequence - 250).toNat = 127 ∧
    (withNotice w recordState).record 4 = .fresh ((noticeFrom 4 15 250 2).contents .west) 3500 := by decide +kernel

/-- Both latches held: East's notice is taken first, then the other port's, by the port not taken from last. -/
theorem witness_AcceptedNoticesAreApplied_choice :
    let e := withNotice (noticeFrom 5 16 1 1) bare
    let s := e.setPort .west { e.port .west with latch := .held .corrected (fieldOf (noticeFrom 6 15 1 31)) }
    let later (p : Side) : State := { s with notices := { s.notices with firstChoice := false, lastTaken := p } }
    (s.port .west).latch ≠ .empty ∧ s.notices.firstChoice = true ∧ (takeNotice s).notices.firstChoice = false ∧
    ((takeNotice s).port .east).latch = .empty ∧ ((takeNotice s).port .west).latch ≠ .empty ∧
    Side.west = (later .east).notices.lastTaken.other ∧ ((takeNotice (later .east)).port .west).latch = .empty ∧
    ((takeNotice (later .west)).port .east).latch = .empty := by decide +kernel

/-- The notice by which position 2 reports span 2 cut: the sets change, and the fast path names plan 2. -/
theorem witness_AcceptedNoticesAreApplied_mapChange :
    let s := withNotice (noticeFrom 2 13 251 1) readyState
    let t := takeNotice s
    (s.port .east).latch = .held .clean (fieldOf (noticeFrom 2 13 251 1)) ∧ (s.port .west).latch = .empty ∧
    t.map.sets ≠ s.map.sets ∧ t.node.state = .active ∧ t.counter 2 = 1 ∧
    t.engine.grants = grants2 ∧
    (t.circuit 7 = .inService (circuitOf .extra 16 0 4 1) none .preempted none) ∧ Subject.circuit 7 ∈ t.reports.subjects := by
  decide +kernel

/-- With hops above 1 the same notice goes out of the other port as well, at the queue's end, and again in its place when it comes
with its next sequence. -/
theorem witness_AcceptedNoticesAreApplied_queues :
    let s := withNotice (noticeFrom 2 13 251 2) readyState
    let again := withNotice (noticeFrom 2 13 252 31) (takeNotice s)
    let sent (sequence : Byte) (hops : Nat) : QueuedNotice := { notice := noticeFrom 2 13 sequence hops, own := false }
    s.reports.subjects.Nodup ∧ (∀ p, ((s.notices.queues.get p).map (fun e => e.notice.position)).Nodup) ∧
    (takeNotice s).notices.queues.get .west = s.notices.queues.get .west ++ [sent 251 1] ∧
    (∀ p, ((again.notices.queues.get p).map (fun e => e.notice.position)).Nodup) ∧
    sent 252 30 ∈ (takeNotice again).notices.queues.get .west ∧ sent 251 1 ∉ (takeNotice again).notices.queues.get .west ∧
    Subject.span 2 ∈ (takeNotice s).reports.subjects :=
  ⟨by decide +kernel, fun p => by cases p <;> decide +kernel, by decide +kernel, fun p => by cases p <;> decide +kernel,
    by decide +kernel, by decide +kernel, by decide +kernel⟩

/-- A stale digest ends the convergence, and that is reported. -/
theorem witness_AcceptedNoticesAreApplied_convergence :
    let s := withNotice { noticeFrom 2 13 251 1 with digest := 1 } readyState
    (takeNotice s).notices.convergence ≠ s.notices.convergence ∧ Subject.node ∈ (takeNotice s).reports.subjects := by
  decide +kernel

theorem witness_fastPathNames :
    let s := withNotice (noticeFrom 2 13 251 1) readyState
    fastPathNames s (takeNotice s) 2 grants2 outcomes2 := by
  have h := (cutSpan_eq_some (takeNotice (withNotice (noticeFrom 2 13 251 1) readyState)).map 2).mp (by decide +kernel)
  exact ⟨by decide +kernel, by decide +kernel, h.1, h.2, (fun i (h : EngineState.idle = .build 2 i) => by cases h), 0, by decide +kernel⟩

theorem witness_StalenessExpiryWithdrawsTheEnds :
    recordState.record (4 : Fin 32) = .fresh ((noticeFrom 4 15 250 2).contents .west) 3500 ∧
    recordState.position = some 0 ∧ (4 : Fin 32).val < recordState.ringSize := by decide +kernel

/-- The ends of a notice, whose withdrawal changes X, with an engine in each of its states; a gather starts, and a pass counts
as abandoned. -/
theorem witness_StalenessExpiryWithdrawsTheEnds_mapChange :
    let s (e : EngineState) : State := withEngine e (applyNotice .west (noticeFrom 4 15 250 2) bare)
    let after (e : EngineState) : State := stalenessExpiry 4 (s e)
    (s .idle).record (4 : Fin 32) = .fresh ((noticeFrom 4 15 250 2).contents .west) 3500 ∧
    (after .idle).map.sets ≠ (s .idle).map.sets ∧ (after .idle).node.state = .active ∧
    (after .idle).engine.state = .gather 3550 ∧ (after (.gather 9)).engine.state = .gather 9 ∧
    (after (.build 5 cut2)).plan 5 = .stale ∧ (after (.pass cut2)).counter 1 = 1 := by decide +kernel

theorem witness_RefreshExpiryOriginatesANotice :
    (originate bare).notices.refresh = some 1000 ∧ (originate bare).node.state.runs = true ∧
    (originate bare).position = some 0 := by decide +kernel

/-! ### Witnesses: the Failure Map, the engine, the plans -/

theorem witness_SetsFollowTheEndRecords : bare.mapDerived ∧ bare.position = some 0 ∧ 5 < bare.ringSize :=
  ⟨by unfold State.mapDerived; decide +kernel, by decide +kernel, by decide +kernel⟩

theorem witness_GatherExpiryTakesTheSnapshot : (withEngine (.gather 50) full).engine.state = .gather 50 := rfl

theorem witness_PassCompletionInstallsTheResult :
    (withEngine (.pass cut2) full).engine.state = .pass cut2 ∧
    full.circuit 5 = .inService (circuitOf .premium 12 0 1 4) none .normal none ∧
    (computePass cut2).outcomes.find? (fun o => o.circuit == 5) = some { circuit := 5, restoration := .restored 0 } ∧
    full.circuit 1023 = .absent := ⟨rfl, by decide +kernel⟩

/-- Three nodes, span 0 cut and only band 0 open on the others: c1 and c2 are affected, and c3 of class EXTRA holds that band. c2
had a grant at 12. -/
def small : PassInputs :=
  let open0 : Quad Bool := { allBands with b0 := false }
  { w := [(0, allBands)], x := [(0, allBands), (1, open0), (2, open0)], n := 3
    circuits := [(1, circuitOf .premium 11 0 0 1), (2, circuitOf .basic 4 30 0 1), (3, circuitOf .extra 16 0 1 0)]
    occupancy := (rangeKeys [1, 2] 0 16).map (fun k => (k, .extra 3))
    oldGrants := [{ circuit := 2, start := 12 }] }

theorem witness_PassGrantsAreSound :
    2 ≤ small.n ∧ (small.circuits.map Prod.fst).Nodup ∧ (small.circuits.map Prod.fst).Pairwise (· < ·) ∧
    (computePass small).grants = [{ circuit := 1, start := 0 }, { circuit := 2, start := 12 }] ∧
    look .none small.occupancy (64 * 1 + 11) = .extra 3 ∧ { circuit := 3, restoration := .preempted } ∈ (computePass small).outcomes := by
  decide +kernel

/-- Its candidates, each with those before it: c1 is placed in the displacing sweep, c2 then in the free one; with an old grant
at the last start, c2 keeps it. -/
theorem witness_PassGrantsAreSound_choice :
    let c1 := circuitOf .premium 11 0 0 1
    let c2 := circuitOf .basic 4 30 0 1
    let first : Placing := { cap := classifiedMap small, grants := [], preempted := [], unplaced := [] }
    candidates small = [] ++ (1, c1) :: [(2, c2)] ∧ candidates small = [(1, c1)] ++ (2, c2) :: [] ∧
    usable small first.cap false (c1.restorationRoute 3) 11 0 = false ∧
    usable small first.cap true (c1.restorationRoute 3) 11 0 = true ∧
    usable small (placeOne small first (1, c1)).cap false (c2.restorationRoute 3) 4 12 = true ∧
    chosenStart small (placeOne small first (1, c1)).cap 2 c2 = some 12 := by decide +kernel

/-- c3 displaced and so PREEMPTED; without a grant on its slots NORMAL; affected DOWN; and the canonical occupancy. -/
theorem witness_PassGrantsAreSound_states :
    let states (i : PassInputs) : List Restoration := (computePass i).outcomes.map Outcome.restoration
    let c3 := circuitOf .extra 16 0 1 0
    tableWf .none small.occupancy = true ∧ 1 ≤ c3.width ∧ c3.width ≤ 16 ∧ affected small c3 = false ∧
    states small = [.restored 0, .restored 12, .preempted] ∧
    states { small with w := [] } = [.normal, .normal, .normal] ∧
    affected { small with w := [(1, allBands)] } c3 = true ∧
    states { small with w := [(1, allBands)] } = [.normal, .normal, .down] := by decide +kernel

/-- c1 without a usable start: both routes cut, its restoration route alone barred, and working circuits on its restoration
route. -/
theorem witness_PassGrantsAreSound_reasons :
    let one : Quad Bool := { noBands with b0 := true }
    let reason (i : PassInputs) : List Restoration := ((computePass i).outcomes.take 1).map Outcome.restoration
    reason { small with x := [(0, allBands), (1, allBands)] } = [.unrestored .isolated] ∧
    reason { small with w := [(0, one)], x := [(0, one), (1, allBands)] } = [.unrestored .routeBarred] ∧
    reason { small with occupancy := [(64 * 1 + 6, .working 9)] } = [.unrestored .noCapacity] := by decide +kernel

/-- The worked ring with both ends of span 2 FAILED, and nothing else to say. -/
def cutState : State :=
  let clear : Option (Quad View) := some (Quad.all .clear)
  let ends (k : Nat) : SpanEntry :=
    let views := if k = 2 then some (Quad.all .failed) else clear
    { SpanEntry.outside with lowViews := views, highViews := views }
  { full with map := { full.map with
    spans := deriveSpans 6 false ((List.range 6).map (fun k => (k, ends k))) } }

theorem witness_FastPathEqualsThePass :
    cutState.mapDerived ∧ cutState.map.cutSpan = some 2 ∧ cutState.engine.grants = [] :=
  ⟨by unfold State.mapDerived; decide +kernel, by decide +kernel, by decide +kernel⟩

/-- With a VALID plan of span 2 that holds the lists of its build. -/
theorem witness_FastPathEqualsThePass_plan :
    let s : State := { bare with map := cutState.map, plans := [(2, .valid 0 [] [])] }
    s.mapDerived ∧ s.map.cutSpan = some 2 ∧ s.engine.grants = [] ∧ s.plansComputed ∧ s.plan 2 = .valid 0 [] [] := by
  refine ⟨by unfold State.mapDerived; decide +kernel, by decide +kernel, by decide +kernel, fun k g l o h => ?_,
    by decide +kernel⟩
  by_cases hk : 2 = k
  · subst hk
    simp only [State.plan, look, if_pos] at h
    injection h with _ hl ho
    subst hl; subst ho
    exact ⟨by decide +kernel, by decide +kernel⟩
  · simp [State.plan, look, hk] at h

theorem witness_BuildStartTakesTheLowestStalePlan :
    let s : State := { full with plans := [(5, .stale)] }
    s.engine.state = .idle ∧ s.node.state.runs = true ∧ 5 < s.ringSize ∧ s.plan 5 = .stale ∧
    ∀ j, j < 5 → s.plan j ≠ .stale := by decide +kernel

theorem witness_BuildEndMakesThePlanValid :
    let s (g : Word) : State := withEngine (.build 5 cut2) { full with plans := [(5, .building g)] }
    (s 0).engine.state = .build 5 cut2 ∧ (s 0).plan 5 = .building 0 ∧ (s 0).table.generation = 0 ∧
    (s 1).plan 5 = .building 1 := ⟨rfl, by decide +kernel⟩

theorem witness_ListenExpiryEntersActive :
    let s (base : State) : State := setNodeState (.starting 0) base
    (s bare).node.state = .starting 0 ∧ (s bare).position = some 0 ∧ (s bare).map.setsEmpty = false ∧
    (s cutState).engine.state = .idle ∧ (s cutState).engine.grants = [] ∧ (s cutState).map.setsEmpty = false ∧
    (s { cutState with map := { cutState.map with spans := [] } }).map.setsEmpty = true := by decide +kernel

/-- With the Grant Table empty: plan 2 VALID and all nodes agreeing, it is applied; without the plan, and with its build under
way, a gather starts. -/
theorem witness_ListenExpiryEntersActive_answer :
    let s (e : EngineState) (plans : Table Plan) : State :=
      withEngine e (setNodeState (.starting 0) { readyState with map := cutState.map, plans := plans })
    let after (e : EngineState) (plans : Table Plan) : State := listenExpiry (s e plans)
    (s .idle readyState.plans).engine.grants = [] ∧ (after .idle readyState.plans).notices.convergence = .converged ∧
    (after .idle readyState.plans).map.cutSpan = some 2 ∧ (after .idle readyState.plans).counter 2 = 1 ∧
    (after .idle readyState.plans).engine.grants = grants2 ∧
    (after .idle []).engine.state = .gather 50 ∧ (after .idle []).counters = [] ∧
    (after (.build 2 cut2) [(2, .building 0)]).engine.state = .gather 50 ∧
    (after (.build 2 cut2) [(2, .building 0)]).plan 2 = .stale := by decide +kernel

/-! ### Witnesses: the management channel -/

/-- A REQUEST of two body bytes. -/
def requestTo (destination : Byte) : Frame :=
  { kind := 1, destination := destination, origin := 12, hops := 2, tag := 7, body := [1, 0] }

theorem witness_LineFramesAreForwardedOrTaken :
    2 ≤ (requestTo 11).body.length ∧ (requestTo 11).body.length ≤ 1014 ∧ bare.ownId = some (requestTo 11).destination ∧
    bare.ownId ≠ some (requestTo 13).destination ∧ bare.node.state ≠ .unaddressed ∧ bare.mgmt.requests.length < 4 ∧
    4 ≤ ({ bare.mgmt with requests := List.replicate 4 { origin := 12, tag := 7, body := [] } } : Management).requests.length ∧
    namedQueue cutState (requestTo 11).origin = some (.line .east) ∧ frameOf [] = none := by decide +kernel

theorem witness_GatewayRequestsFollowTheOpenPath :
    2 ≤ (requestTo 14).body.length ∧ bare.node.state ≠ .unaddressed ∧ (requestTo 14).kind = 1 ∧
    (requestTo 14).destination ≠ 0 ∧ bare.ownId ≠ some (requestTo 14).destination ∧ bare.position = some 0 ∧
    positionOf bare.table.ring (requestTo 14).destination = some 3 ∧ positionOf bare.table.ring 20 = none ∧
    unplaced.position = none ∧ (3 + 6 - 0) % 6 = 3 ∧ (0 + 6 - 3) % 6 = 3 ∧
    (∀ j, j < 3 → cutState.map.bandsInW ((0 + 6 - 1 - j) % 6) ≠ allBands) ∧ cutState.map.bandsInW 2 = allBands := by
  decide +kernel

theorem witness_RequestsAreExecutedAndAnswered :
    let r (body : List Byte) : Request := { origin := 11, tag := 7, body := body }
    let s (body : List Byte) : State := { bare with mgmt := { bare.mgmt with requests := [r body] } }
    (s []).node.state ≠ .unaddressed ∧ (s []).mgmt.execution = .idle ∧ (s []).mgmt.requests = r [] :: [] ∧
    14 ≤ (s []).settings.maxReply ∧ tableOf 3 = some .circuit ∧ 1023 < TableId.circuit.records ∧
    (r [1, 3, 3, 255]).body = [1, byte 3] ++ bytes2 1023 ++ [] ∧ (8 : Byte).toNat % 128 = 8 ∧
    (128 : Byte).toNat % 128 = 0 := by decide +kernel

/-- A chain left after its first directive, and chains in execution: with room for one more item to the byte, with none, and the
directives that end them or go on. -/
theorem witness_RequestsAreExecutedAndAnswered_chain :
    let r : Request := { origin := 11, tag := 7, body := [129, 3, 0, 0, 1, 3, 3, 255] }
    let s : State := { bare with mgmt := { bare.mgmt with requests := [r] } }
    let c (records : Nat) (body : List Byte) : Chain :=
      { Chain.start (some (11, 7)) body with records := List.replicate records 0 }
    let running (records : Nat) (body : List Byte) : State := setExecution (.running (c records body)) bare
    (executeRequest (some 1) s).mgmt.execution =
      .running { Chain.start (some (11, 7)) [1, 3, 3, 255] with index := 1, items := [{ index := 0, code := .ok, count := 0 }] } ∧
    (running 0 [8]).node.state ≠ .unaddressed ∧ (running 0 [8]).mgmt.execution = .running (c 0 [8]) ∧
    (c 0 [8]).reading = none ∧ (c 0 [8]).requester = some (11, 7) ∧ (c 0 [8]).restartDue = false ∧
    10 + 4 * ((c 242 []).items.length + 1) + (c 242 []).records.length = (running 242 []).settings.maxReply ∧
    ¬10 + 4 * ((c 243 []).items.length + 1) + (c 243 []).records.length ≤ (running 243 []).settings.maxReply ∧
    (135 : Byte).toNat % 128 = 7 ∧ (136 : Byte).toNat % 128 = 8 ∧ (131 : Byte).toNat % 128 = 3 ∧ 128 ≤ (131 : Byte).toNat ∧
    ([3, 3] : List Byte).length < [0, 3, 0, 1, 3, 2, 1, 0].getD 1 0 ∧ tableOf 9 = none ∧ tableOf 3 = some .circuit ∧
    TableId.circuit.records ≤ (4 : Byte).toNat * 256 + (0 : Byte).toNat ∧
    (3 : Byte).toNat * 256 + (255 : Byte).toNat < TableId.circuit.records := by decide +kernel

/-- A chain in execution, for the requester 11. -/
def inChain (body : List Byte) (s : State) : State := setExecution (.running (Chain.start (some (11, 7)) body)) s

/-- Each directive in a chain that it leaves or ends: one taken, one refused, one held with the rest, one of a code that is neither IN
nor OUT; and what each does by itself. -/
theorem witness_RequestsAreExecutedAndAnswered_directives :
    let one (s : State) : State := executeRequest (some 1) s
    let last (s : State) : Option Item := (one s).mgmt.lastItems.getLast?
    let item (code : ResultCode) (count : Nat) : Option Item := some { index := 0, code := code, count := count }
    (132 : Byte).toNat % 128 = 4 ∧ 128 ≤ (132 : Byte).toNat ∧ ((0 : Byte) ++ (9 : Byte) : Half) = 9 ∧
    (directive (.service 9 2) full).mgmt.lastItems = [{ index := 0, code := .ok, count := 0 }] ∧
    (one (inChain [132, 0, 9, 2, 6, 0] full)).circuit 9 = .defined (circuitOf .unguarded 16 32 5 1) none ∧
    (one (inChain [132, 0, 9, 2, 6, 0] full)).mgmt.execution = .running { Chain.start (some (11, 7)) [6, 0] with
      index := 1, items := [{ index := 0, code := .ok, count := 0 }] } ∧
    last (inChain [132, 0, 9, 3, 6, 0] full) = item .range 0 ∧ last (inChain [4, 4, 0, 1] passState) = item .range 0 ∧
    (one (inChain [132, 0, 9, 2, 6, 0] passState)).mgmt.execution =
      .holding (Chain.start (some (11, 7)) [6, 0]) { circuit := 9, action := .out, more := true } 2000 ∧
    last (inChain (2 :: [17]) (atCursor .ring 31 bare)) = item .ok 1 ∧ last (inChain [5, 0, 3] bare) = item .range 0 ∧
    last (inChain [6, 1] bare) = item .ok 0 ∧ last (inChain [3, 0] bare) = item .range 0 := by decide +kernel

/-- The operand bytes of each code. -/
theorem witness_Spells (after : List Byte) :
    Spells 1 (3 :: 3 :: 255 :: after) (.select 3 1023) after ∧ Spells 2 after (.load after) [] ∧
    Spells 3 (255 :: after) (.read 255) after ∧ Spells 4 (3 :: 255 :: 1 :: after) (.serviceIn 1023) after ∧
    Spells 4 (4 :: 0 :: 2 :: after) (.serviceOut 1024) after ∧ Spells 5 (1 :: 2 :: after) (.operator 1 2) after ∧
    Spells 6 (1 :: after) (.capture 1) after ∧ Spells 7 after .restart after :=
  ⟨.select 3 3 255 after, .load after, .read 255 after, .serviceIn 3 255 after, .serviceOut 4 0 after, .operator 1 2 after,
    .capture 1 after, .restart after⟩

/-- A READ in progress: with none left, at the table's end, with a record of 9 bytes that does not fit and one that does. -/
theorem witness_RequestsAreExecutedAndAnswered_read :
    let s (left records : Nat) (table : TableId) (index : Nat) : State :=
      let c : Chain := { Chain.start (some (11, 7)) [] with
        records := List.replicate records 0, reading := some { remaining := left, returned := 2 } }
      executeRequest (some 1) (setExecution (.running c) (atCursor table index bare))
    let n := (recordImage bare .plans 31).length
    (s 0 0 .plans 31).mgmt.lastItems = [{ index := 0, code := .ok, count := 2 }] ∧
    (s 1 0 .plans 32).mgmt.lastItems = [{ index := 0, code := .endOfTable, count := 2 }] ∧
    10 + 4 + (242 - n) + n = bare.settings.maxReply ∧
    (s 1 (243 - n) .plans 31).mgmt.lastItems = [{ index := 0, code := .truncated, count := 2 }] ∧
    (s 1 (242 - n) .plans 31).mgmt.cursor = { table := .plans, index := 32 } := by decide +kernel

/-- A chain refused after its RESTART: the reply of two items is in the outgoing queue, and the node starts afresh. Two RESTART
directives give one restart: the node originates one notice. -/
theorem witness_RequestsAreExecutedAndAnswered_restart :
    let after (body : List Byte) : State := executeRequest none (inChain body bare)
    (after [135, 8]).mgmt.lastItems =
      [{ index := 0, code := .ok, count := 0 }, { index := 1, code := .unknownDirective, count := 0 }] ∧
    (after [135, 8]).mgmt.queues.tributary.frames.length = 1 ∧ (after [135, 8]).node.state = .starting 10000 ∧
    (executeRequest (some 1) (inChain [135, 8] bare)).node.state = .active ∧ (inChain [135, 8] bare).node.state = .active ∧
    (after [135, 7]).notices.sequence = bare.notices.sequence + 1 ∧
    (after [7]).notices.sequence = bare.notices.sequence + 1 := by decide +kernel

/-! ### Witnesses: directives -/

theorem canTake_bare : bare.canTake := ⟨by decide +kernel, by decide +kernel⟩

theorem witness_SelectSetsTheCursor :
    bare.canTake ∧ (1023 : Half).toNat < [1, 1, 32, 1024, 32, 32, 32, 192, 37].getD (3 : Byte).toNat 0 ∧
    [1, 1, 32, 1024, 32, 32, 32, 192, 37].getD (3 : Byte).toNat 0 ≤ (1024 : Half).toNat ∧
    [1, 1, 32, 1024, 32, 32, 32, 192, 37].getD (9 : Byte).toNat 0 ≤ (0 : Half).toNat :=
  ⟨canTake_bare, by decide⟩

theorem witness_LoadDefinesACircuit :
    (atCursor .circuit 1023 full).canTake ∧
    (atCursor .circuit 1023 full).mgmt.cursor = { table := .circuit, index := 1023 } ∧
    (atCursor .circuit 1023 full).circuit 1023 = .absent ∧
    (atCursor .circuit 3 full).circuit 3 = .inService (circuitOf .standard 16 48 4 0) (attachmentOf 3) .normal
      (some TagCheck.initial) ∧
    (atCursor .counters 0 full).canTake ∧ (atCursor .counters 0 full).mgmt.cursor.table = .counters :=
  ⟨⟨by decide +kernel, by decide +kernel⟩, by decide +kernel, by decide +kernel, by decide +kernel,
    ⟨by decide +kernel, by decide +kernel⟩, by decide +kernel⟩

/-- Codes out of range, an image followed by another, and the table's end with 11 and with 12 bytes. -/
theorem witness_LoadDefinesACircuit_images :
    let zeros := List.replicate 12 (0 : Byte)
    let s := atCursor .circuit 1023 full
    1 < byteAt (2 :: zeros.tail) 0 ∧ (2 :: zeros.tail).length = 12 ∧ 4 < byteAt (1 :: 5 :: zeros.drop 2) 1 ∧
    (1 :: 5 :: zeros.drop 2).length = 12 ∧ byteAt (1 :: 5 :: zeros.drop 2) 0 = 1 ∧
    directive (.load zeros) s = (atCursor .circuit 1024 (s.setCircuit 1023 .absent)).answeredWith .ok 1 [] ∧
    (directive (.load (zeros ++ zeros)) s).mgmt.lastItems = [{ index := 0, code := .endOfTable, count := 1 }] ∧
    (atCursor .circuit 1024 full).mgmt.cursor = { table := .circuit, index := 1024 } ∧
    zeros.tail.length = 11 ∧ directive (.load zeros.tail) s = s.answeredWith .ok 0 [] := by decide +kernel

theorem witness_LoadSetsTheRing :
    (atCursor .ring 31 bare).canTake ∧ (atCursor .ring 31 bare).mgmt.cursor = { table := .ring, index := 31 } ∧
    (atCursor .ring 31 bare).anyInService = false ∧ 31 + ([17] : List Byte).length ≤ 32 ∧
    (atCursor .ring 0 full).anyInService = true :=
  ⟨⟨by decide +kernel, by decide +kernel⟩, by decide +kernel, by decide +kernel, by decide, by decide +kernel⟩

/-- A changed map that leaves the node placed, and one that leaves it unplaced, after a notice has been queued. -/
theorem witness_LoadSetsTheRing_placement :
    let s := atCursor .ring 0 (originate bare)
    let after (bulk : List Byte) : State := directive (.load bulk) s
    s.anyInService = false ∧ (∀ p, s.notices.queues.get p ≠ []) ∧ (after [11, 12]).placed = true ∧
    look 0 (after [12, 11]).table.ring 0 ≠ look 0 s.table.ring 0 ∧ (after [12, 11]).placed = true ∧
    (∀ p, ((after [12, 11]).notices.queues.get p).length = 1) ∧ (after [11, 11]).placed = false ∧
    (∀ p, (after [11, 11]).notices.queues.get p = []) :=
  ⟨by decide +kernel, fun p => by cases p <;> decide +kernel, by decide +kernel, by decide +kernel, by decide +kernel,
    fun p => by cases p <;> decide +kernel, by decide +kernel, fun p => by cases p <;> decide +kernel⟩

/-- A node that becomes position 1 of 2: the own ends stand in the low end of span 1 and the high end of span 0, and what position 4
had said and the request are gone. -/
theorem witness_LoadSetsTheRing_ends :
    let s := atCursor .ring 0 (directive (.operator 0 2) heard)
    let t := directive (.load [12, 11, 0, 0, 0, 0]) s
    s.lowEnd 4 ≠ absentEnd ∧ (s.lowEnd 0).2 = .force ∧ t.position = some 1 ∧ t.ringSize = 2 ∧
    t.lowEnd 1 = (some (Quad.all .failed), .none) ∧ t.highEnd 0 = (some (Quad.all .failed), .none) ∧
    t.lowEnd 0 = absentEnd ∧ t.highEnd 1 = absentEnd ∧ t.lowEnd 4 = absentEnd := by decide +kernel

/-- The codes and counts at the table's end and at a byte of 255. -/
theorem witness_LoadSetsTheRing_codes :
    let items (k : Nat) (bulk : List Byte) : List Item := (directive (.load bulk) (atCursor .ring k bare)).mgmt.lastItems
    items 31 [17] = [{ index := 0, code := .ok, count := 1 }] ∧
    items 31 [17, 255] = [{ index := 0, code := .endOfTable, count := 1 }] ∧
    items 32 [17] = [{ index := 0, code := .endOfTable, count := 0 }] ∧ items 32 [] = [{ index := 0, code := .ok, count := 0 }] ∧
    items 30 [17, 255] = [{ index := 0, code := .range, count := 1 }] := by decide +kernel

theorem witness_LoadStoresSettingsWithinLimits :
    let g : Settings := { Settings.default with
      holdOff := 1000, refresh := 1000, staleness := 5000, gatherDelay := 50, listen := 10000, degradeSet := 10000
      degradeClear := 10000, reportDestination := 254, maxReply := 1024, orientation := .reversed }
    (atCursor .settings 0 bare).canTake ∧ (atCursor .settings 0 bare).mgmt.cursor = { table := .settings, index := 0 } ∧
    (g.holdOff ≤ 1000 ∧ g.holdOff % 10 = 0 ∧ g.returnDelay ≤ 3600 ∧ 10 ≤ g.refresh ∧ g.refresh ≤ 1000 ∧
      g.refresh % 10 = 0 ∧ 2 * g.refresh ≤ g.staleness ∧ g.staleness ≤ 5000 ∧ g.staleness % 10 = 0 ∧
      g.gatherDelay ≤ 50 ∧ 100 ≤ g.listen ∧ g.listen ≤ 10000 ∧ g.listen % 100 = 0 ∧ g.degradeSet ≤ 10000 ∧
      g.degradeClear ≤ g.degradeSet ∧ g.reportDestination ≠ 255 ∧ 64 ≤ g.maxReply ∧ g.maxReply ≤ 1024) ∧
    (atCursor .settings 0 bare).anyInService = false ∧ g.orientation ≠ full.settings.orientation ∧
    full.anyInService = true ∧ (List.replicate 24 (0 : Byte)).length = 24 :=
  ⟨⟨by decide +kernel, by decide +kernel⟩, by decide +kernel, by decide, by decide +kernel, by decide +kernel,
    by decide +kernel, by decide⟩

/-- One image followed by 23 and by 24 bytes more, in bounds and in use; less than an image; and the cursor at the table's end. -/
theorem witness_LoadStoresSettingsWithinLimits_images :
    let image := settingsRecord bare.settings
    let turned := settingsRecord { bare.settings with orientation := .reversed }
    let items (k : Nat) (bulk : List Byte) (s : State) : List Item :=
      (directive (.load bulk) (atCursor .settings k s)).mgmt.lastItems
    let item (code : ResultCode) (count : Nat) : List Item := [{ index := 0, code := code, count := count }]
    image.length = 24 ∧ items 0 (image ++ image.tail) bare = item .ok 1 ∧ items 0 (image ++ image) bare = item .endOfTable 1 ∧
    items 0 (turned ++ image) full = item .inUse 0 ∧ image.tail.length < 24 ∧ items 0 image.tail bare = item .ok 0 ∧
    items 1 image.tail bare = item .ok 0 ∧ items 1 image bare = item .endOfTable 0 ∧
    (atCursor .settings 1 bare).mgmt.cursor = { table := .settings, index := 1 } := by decide +kernel

/-- What 24 bytes of 255 and of 0 store; and an orientation change of a placed node without a circuit in service, whose forced request
goes, with the end it stood in. -/
theorem witness_LoadStoresSettingsWithinLimits_stored :
    let after (bulk : List Byte) (s : State) : State := directive (.load bulk) (atCursor .settings 0 s)
    let high := (after (List.replicate 24 255) bare).settings
    let low := (after (List.replicate 24 0) bare).settings
    let forced := directive (.operator 0 2) bare
    let turned := after (settingsRecord { bare.settings with orientation := .reversed }) forced
    (high.holdOff, high.returnDelay, high.refresh, high.staleness) = (1000, 3600, 1000, 5000) ∧
    (high.degradeSet, high.degradeClear, high.reportDestination, high.maxReply) = (10000, 10000, 254, 1024) ∧
    (low.refresh, low.staleness, low.listen, low.degradeClear, low.maxReply) = (10, 20, 100, 0, 64) ∧
    bare.settings.degradeSet ≠ 0 ∧ bare.position = some 0 ∧ 0 < bare.ringSize ∧ forced.anyInService = false ∧
    (forced.span 0).lowRequest = .force ∧ (turned.span 0).lowRequest = .none ∧
    (turned.map.copies.get .east).request = .none := by decide +kernel

/-- A changed act on degrade, with a DEGRADED own view: the digest differs, the sets change, and the engine answers from each of its
states; a changed orientation likewise, with its notice. -/
theorem witness_LoadStoresSettingsWithinLimits_mapChange :
    let base : State := viewed (alignedBand 0 0 .clear) .idle
    let s (e : EngineState) : State := atCursor .settings 0
      (withEngine e (setSupervisor .east 0 { (alignedBand 0 0 .clear).supervisor with view := .degraded } base))
    let g : Settings := { base.settings with actOnDegrade := true }
    let after (e : EngineState) : State := directive (.load (settingsRecord g)) (s e)
    let plain : State := { readyState with table := { readyState.table with circuits := [], occupancy := [] } }
    let turned := directive (.load (settingsRecord { plain.settings with orientation := .reversed })) (atCursor .settings 0 plain)
    g.degradeSet ≠ 0 ∧ g.orientation = base.settings.orientation ∧ g.actOnDegrade ≠ base.settings.actOnDegrade ∧
    (after .idle).table.digest ≠ (s .idle).table.digest ∧ (after .idle).table.digest = digestOf (after .idle).table ∧
    (after .idle).map.sets ≠ (s .idle).map.sets ∧ (after .idle).engine.state = .gather 50 ∧
    (after (.gather 9)).engine.state = .gather 9 ∧ (after (.pass cut2)).counter 1 = 1 ∧
    (after .idle).notices.sequence = (s .idle).notices.sequence + 1 ∧
    plain.anyInService = false ∧ turned.map.sets ≠ plain.map.sets ∧ plain.map.ownEnds 6 0 ≠ turned.map.ownEnds 6 0 ∧
    turned.notices.sequence = plain.notices.sequence + 1 := by decide +kernel

theorem witness_ReadReturnsRecords : bare.canTake ∧ (0 : Byte) = 0 ∧ (255 : Byte) ≠ 0 := ⟨canTake_bare, by decide⟩

/-- The worked case with c10 DEFINED as in attempt 4 of its example. -/
def defined10 : State :=
  full.setCircuit 10 (.defined { circuitOf .standard 8 48 0 2 with endA := 0 } (some { port := 3, start := 8 }))

theorem witness_ServiceInTakesTheCircuit :
    let f := { circuitOf .standard 8 48 0 2 with endA := 0 }
    let a : Attachment := { port := 3, start := 8 }
    defined10.canTake ∧ (10 : Half).toNat < 1024 ∧ defined10.lockHeld = false ∧ defined10.position = some 0 ∧
    defined10.circuit (10 : Half).toNat = .defined f (some a) ∧ f.endA < defined10.ringSize ∧
    f.endB < defined10.ringSize ∧ f.endA ≠ f.endB ∧ f.start + f.width ≤ 64 ∧ 0 = f.endA ∧ a.start + f.width ≤ 16 ∧
    (∀ e ∈ inServiceOf defined10.table.circuits, ∀ y ∈ e.2.2, y.port = a.port →
      ¬(a.start < y.start + e.2.1.width ∧ y.start < a.start + f.width)) ∧
    (∀ k ∈ f.workingRoute defined10.ringSize, ∀ u ∈ rangeSlots f.start f.width,
      look .none defined10.table.occupancy (64 * k + u) = .none) ∧ defined10.engine.grants = [] ∧
    unplaced.position = none ∧ full.circuit 10 = .absent :=
  ⟨⟨by decide +kernel, by decide +kernel⟩, by decide, by decide +kernel⟩

/-- What each refusal needs: a circuit above 1023, an end outside the ring, a range past the port's slots, a tributary range in
use, an occupied slot and a granted one. -/
theorem witness_ServiceInTakesTheCircuit_refusals :
    let f (b start : Nat) : CircuitFields := { circuitOf .standard 8 start 0 b with endA := 0 }
    let s (b start port tstart : Nat) : State :=
      full.setCircuit 10 (.defined (f b start) (some { port := port, start := tstart }))
    let granted : State := { s 2 48 3 8 with engine := { full.engine with grants := [{ circuit := 3, start := 55 }] } }
    1024 ≤ (1024 : Half).toNat ∧ ¬(f 6 48).endB < (s 6 48 3 8).ringSize ∧ serviceInCode (s 6 48 3 8) 10 = .invalidCircuit ∧
    ¬9 + (f 2 48).width ≤ 16 ∧ serviceInCode (s 2 48 3 9) 10 = .attachment ∧
    (15 < 0 + (circuitOf .standard 16 48 4 0).width ∧ 0 < 8 + (f 2 48).width) ∧ serviceInCode (s 2 48 1 8) 10 = .attachment ∧
    look .none full.table.occupancy (64 * 0 + 15) = .extra 7 ∧ serviceInCode (s 2 8 3 8) 10 = .conflict ∧
    (55 ∈ rangeSlots 48 8 ∧ 0 ∈ (circuitOf .standard 16 48 4 0).restorationRoute 6) ∧
    serviceInCode granted 10 = .conflict := by decide +kernel

theorem witness_ServiceOutReleasesTheCircuit :
    full.canTake ∧ (9 : Half).toNat < 1024 ∧ full.lockHeld = false ∧
    full.circuit (9 : Half).toNat = .inService (circuitOf .unguarded 16 32 5 1) none .normal none ∧
    (circuitOf .unguarded 16 32 5 1).start + (circuitOf .unguarded 16 32 5 1).width ≤ 64 ∧
    full.circuit (1023 : Half).toNat = .absent ∧ full.node.state = .active ∧ full.map.setsEmpty = false ∧
    full.engine.state = .idle ∧ 1024 ≤ (1024 : Half).toNat ∧ passState.lockHeld = true ∧
    directive (.service 1024 2) passState = passState.answeredWith .range 0 [] :=
  ⟨⟨by decide +kernel, by decide +kernel⟩, by decide, by decide +kernel⟩

theorem witness_HeldServiceWaitsForTheLock :
    passState.canTake ∧ (1023 : Half).toNat < 1024 ∧ passState.lockHeld = true ∧ full.lockHeld = false ∧
    (directive (.service 9 2) full).mgmt.lastItems = [{ index := 0, code := .ok, count := 0 }] ∧ full.canTake :=
  ⟨⟨by decide +kernel, by decide +kernel⟩, by decide, by decide +kernel, by decide +kernel, by decide +kernel,
    by decide +kernel, by decide +kernel⟩

theorem witness_HoldExpiryAnswersEngineBusy :
    let ch := Chain.start (some (11, 7)) []
    (setExecution (.holding ch { circuit := 30, action := .in_, more := true } 2020) full).mgmt.execution =
      .holding ch { circuit := 30, action := .in_, more := true } 2020 ∧
    ch.requester = some (11, 7) ∧ ch.restartDue = false := ⟨rfl, rfl, rfl⟩

/-- The same with a RESTART taken before: the expiry ends the chain, and the restart acts. -/
theorem witness_HoldExpiryAnswersEngineBusy_restart :
    let ch := { Chain.start (some (11, 7)) [] with restartDue := true }
    let t := holdTimerExpiry (setExecution (.holding ch { circuit := 30, action := .in_, more := true } 2020) bare)
    ch.restartDue = true ∧ t.node.state = .starting 12020 ∧ t.mgmt.queues.tributary.frames.length = 1 := by decide +kernel

theorem witness_OperatorSetsTheOwnRequest :
    bare.canTake ∧ 1 < (2 : Byte).toNat ∧ 2 < (3 : Byte).toNat ∧ (1 : Byte).toNat ≤ 1 ∧ (2 : Byte).toNat ≤ 2 ∧
    bare.position = some 0 ∧ unplaced.position = none ∧ (bare.map.copies.get .west).request ≠ .force :=
  ⟨canTake_bare, by decide +kernel⟩

/-- A lockout of the own span moves X: a notice is queued, the span reported, and the engine answers by its state; the request it
holds already changes nothing. -/
theorem witness_OperatorSetsTheOwnRequest_mapChange :
    let s (e : EngineState) : State := withEngine e readyState
    let after (e : EngineState) : State := directive (.operator 0 1) (s e)
    ((s .idle).map.copies.get .east).request ≠ .lockout ∧ (s .idle).node.state.runs = true ∧
    (after .idle).map.sets ≠ (s .idle).map.sets ∧ (after .idle).engine.state = .gather 50 ∧
    (after (.gather 9)).engine.state = .gather 9 ∧ (after (.build 2 cut2)).plan 2 = .stale ∧
    (after (.pass cut2)).counter 1 = 1 ∧ Subject.span 0 ∈ (after .idle).reports.subjects ∧
    ((after .idle).map.copies.get .east).request = .lockout := by decide +kernel

theorem witness_CaptureCopiesTheCounters : bare.canTake ∧ 1 < (2 : Byte).toNat ∧ (1 : Byte).toNat ≤ 1 :=
  ⟨canTake_bare, by decide⟩

theorem witness_RestartStartsEveryBlockAfresh : passState.canTake ∧ passState.stateAllows ∧ passState.position = some 0 ∧
    passState.lockHeld = true ∧ (restart passState).counter 1 = 1 ∧ full.lockHeld = false ∧
    (restart { passState with notices := { passState.notices with firstChoice := false } }).notices.firstChoice = true :=
  ⟨⟨by decide +kernel, by decide +kernel⟩,
    ⟨by decide +kernel, fun h => absurd h (by decide +kernel), fun h => absurd rfl h⟩, by decide +kernel⟩

/-- With a request set, position 4 heard and a circuit restored: its ends and the request go, the own ends stay, one own notice stands
in each queue, the sequence moves on by two, and the circuit is reported. -/
theorem witness_RestartStartsEveryBlockAfresh_ends :
    let s := { directive (.operator 0 2) heard with
      table := { heard.table with circuits :=
        [(9, .inService (circuitOf .unguarded 16 32 5 1) none .down none)] } }
    let t := restart s
    s.lowEnd 4 ≠ absentEnd ∧ (s.lowEnd 0).2 = .force ∧ s.map.hasRequest = true ∧
    t.lowEnd 0 = (some (Quad.all .failed), .none) ∧ t.highEnd 5 = (some (Quad.all .failed), .none) ∧
    t.lowEnd 4 = absentEnd ∧ t.highEnd 3 = absentEnd ∧
    t.notices.queues.get .east = [{ notice := t.noticeAt 0 (s.notices.sequence + 1), own := true }] ∧
    t.notices.sequence = s.notices.sequence + 2 ∧ t.notices.refresh = some 1000 ∧
    Subject.circuit 9 ∈ t.reports.subjects := by decide +kernel

theorem witness_EmissionTakesUpToSixteenSubjects :
    let on : Settings := { bare.settings with reportDestination := 11 }
    let s (subjects : List Subject) (g : Settings) : State :=
      { bare with table := { bare.table with settings := g }, reports := { bare.reports with subjects := subjects } }
    let many : List Subject := (List.range 17).map .circuit
    (s many on).reports.subjects ≠ [] ∧ (s many on).node.state ≠ .unaddressed ∧ (s many on).settings.reportDestination ≠ 0 ∧
    namedQueue (s many on) 11 = some .tributary ∧ ((s many on).mgmt.queues.get .tributary).frames.length < 8 ∧
    many.filter (s many on).settings.enabled ≠ [] ∧
    many.filter (s many { on with reportCircuit := false }).settings.enabled = [] ∧
    bare.settings.reportDestination = 0 := by decide +kernel

/-! ### Witnesses: the frame assemblers -/

/-- HUNT, HEADER with 6 and with 7 bytes and lengths about their limits, and BODY at its last byte but one and its last. -/
theorem witness_AssemblersCollectFrames :
    let f := requestTo 11
    let q : MgmtPort := .line .east
    let at_ (a : Assembler) : State := setAssembler q a bare
    bare.mgmt.assemblers.get q = .hunt ∧ (at_ (.header (f.bytes.take 7))).mgmt.assemblers.get q = .header (f.bytes.take 7) ∧
    (f.bytes.take 6).length < 7 ∧ (f.bytes.take 7).length = 7 ∧ 0 * 256 + (12 : Byte).toNat = 12 ∧
    ¬12 ≤ 0 * 256 + (11 : Byte).toNat ∧ ¬4 * 256 + (1 : Byte).toNat ≤ 1024 ∧
    (at_ (.body (f.bytes.take 11) 12)).mgmt.assemblers.get q = .body (f.bytes.take 11) 12 ∧
    (f.bytes.take 10).length + 1 < 12 ∧ (f.bytes.take 11).length + 1 = 12 ∧
    (∀ b ∈ f.bytes.drop 11, frameOf (f.bytes.take 11 ++ [b]) = some f ∧ frameOf (f.bytes.take 11 ++ [b + 1]) = none) ∧
    f.kind ≠ 0 ∧ f.body.length = 2 ∧ bare.mgmt.assemblers.get .tributary = .hunt := by decide +kernel

/-- A streaming port whose band 3 alone is ALIGNED and two words into its loss, and one that is about to align its first. -/
theorem witness_AssemblersCollectFrames_break :
    let last := (bare.setBand .east 3 (alignedBand 2 9998 .clear))
    let losing3 := last.setPort .east { last.port .east with streaming := true }
    let first := withBand (lostBand 1 .clear false) bare
    (losing3.port .east).streaming = true ∧ (∀ c : Fin 4, c ≠ 3 → (losing3.band .east c).alignment = .lost) ∧
    (losing3.band .east (3 : Fin 4)).run = 2 ∧ noSignal.alignmentWord = false ∧ (first.port .east).streaming = false ∧
    (∀ c : Fin 4, c ≤ 0 → (first.band .east c).alignment = .lost) ∧ (first.band .east (0 : Fin 4)).run = 1 ∧
    (goodFrame 0).alignmentWord = true ∧ (goodFrame 0).management = List.replicate 32 0 := by decide +kernel

end Sys2Proof.Tests
end

section
/-! PROOF. Circuit tables in canonical form, and the steps that leave the in-service set, the settings, the ring map and the
generation as they are: every event but a power reset, the build events, a tag check's change of state and the directives LOAD,
SERVICE IN and SERVICE OUT. -/

namespace Sys2Proof.Machine

/-! ### Tables in canonical form -/

theorem erase_of_keys_gt {α : Type} {t : Table α} {j k : Nat} (hk : k ≤ j) (h : ∀ x ∈ t, j < x.1) : erase k t = t :=
  List.filter_eq_self.mpr (fun x hx => by have := h x hx; simp only [bne_iff_ne]; omega)

theorem insertKey_of_keys_gt {α : Type} {t : Table α} {k : Nat} (v : α) (h : ∀ x ∈ t, k < x.1) :
    insertKey k v t = (k, v) :: t := by
  cases t with
  | nil => rfl
  | cons e rest => exact if_pos (h e List.mem_cons_self)

/-- A write to a table in canonical form, entry by entry. -/
theorem put_cons {α : Type} [DecidableEq α] {d : α} {e : Nat × α} {t : Table α} (h : tableWf d (e :: t) = true) (k : Nat) (v : α) :
    put d (e :: t) k v =
      if k < e.1 then (if v = d then e :: t else (k, v) :: e :: t)
      else if k = e.1 then (if v = d then t else (k, v) :: t)
      else e :: put d t k v := by
  obtain ⟨_, hb, _⟩ := (tableWf_cons d e t).mp h
  unfold put
  by_cases hlt : k < e.1
  · have he : erase k (e :: t) = e :: t := by rw [erase_cons, if_neg (by omega), erase_of_keys_gt hlt.le hb]
    simp only [he, hlt, if_true]
    rw [show insertKey k v (e :: t) = (k, v) :: e :: t from if_pos hlt]
  · by_cases heq : k = e.1
    · have he : erase k (e :: t) = t := by rw [erase_cons, if_pos heq.symm, erase_of_keys_gt heq.le hb]
      rw [if_neg hlt, if_pos heq, he, insertKey_of_keys_gt v (heq ▸ hb)]
    · have he : erase k (e :: t) = e :: erase k t := by rw [erase_cons, if_neg (Ne.symm heq)]
      simp only [he, hlt, heq, if_false]
      split
      · rfl
      · exact if_neg hlt

/-! ### The in-service records -/

theorem inServiceOf_cons (e : Nat × CircuitRecord) (t : Table CircuitRecord) :
    inServiceOf (e :: t) = inServiceOf [e] ++ inServiceOf t := by
  unfold inServiceOf
  rw [← List.filterMap_append, List.singleton_append]

/-- Records replaced without a change of key, service, fields or attachment leave the in-service set as it was. -/
theorem inServiceOf_map {g : Nat × CircuitRecord → Nat × CircuitRecord} (h : ∀ e, inServiceOf [g e] = inServiceOf [e])
    (t : Table CircuitRecord) : inServiceOf (t.map g) = inServiceOf t := by
  induction t with
  | nil => rfl
  | cons e rest ih => rw [List.map_cons, inServiceOf_cons, h, ih, ← inServiceOf_cons]

/-- One record replaced, in a table in canonical form, without a change of service, fields or attachment leaves the in-service
set as it was. -/
theorem inServiceOf_put {t : Table CircuitRecord} (hwf : tableWf .absent t = true) {c : Nat} {r : CircuitRecord}
    (h : inServiceOf [(c, r)] = inServiceOf [(c, look .absent t c)]) :
    inServiceOf (put .absent t c r) = inServiceOf t := by
  induction t with
  | nil =>
    have hnil : inServiceOf [(c, r)] = [] := h
    unfold put
    split
    · rfl
    · exact hnil
  | cons e rest ih =>
    obtain ⟨_, hb, hwr⟩ := (tableWf_cons _ e rest).mp hwf
    rw [put_cons hwf]
    by_cases hlt : c < e.1
    · have hlook : look .absent (e :: rest) c = .absent := look_of_not_mem (fun x hx => by
        rcases List.mem_cons.mp hx with rfl | hm
        · omega
        · have := hb x hm; omega)
      rw [hlook] at h
      rw [if_pos hlt]
      split
      · rfl
      · rw [inServiceOf_cons, h]; rfl
    · rw [if_neg hlt]
      have hlook : look CircuitRecord.absent (e :: rest) c = if e.1 = c then e.2 else look .absent rest c := rfl
      rw [hlook] at h
      by_cases heq : c = e.1
      · subst heq
        rw [if_pos rfl] at h
        rw [if_pos rfl, inServiceOf_cons e, ← show inServiceOf [(e.1, r)] = inServiceOf [e] from h]
        split
        · subst_vars; rfl
        · rw [inServiceOf_cons]
      · rw [if_neg heq, inServiceOf_cons, ih hwr (by rwa [if_neg (Ne.symm heq)] at h), ← inServiceOf_cons]

theorem anyInService_congr {s t : State} (h : inServiceOf t.table.circuits = inServiceOf s.table.circuits) :
    t.anyInService = s.anyInService := by
  unfold State.anyInService; rw [h]

/-! ### Plans -/

/-- What a change of the tables leaves of each plan: below N a VALID plan is STALE (R113, R122). -/
theorem plan_stalePlans (s : State) (k : Nat) :
    (stalePlans s).plan k = if k < s.ringSize then (s.plan k).staled else s.plan k := by
  have h := look_map Plan.absent s.plans (fun j p => if j < s.ringSize then p.staled else p) k (by split <;> rfl)
  unfold State.plan stalePlans
  rw [← h]
  congr 1
  refine List.map_congr_left (fun e _ => ?_)
  split <;> rfl

theorem staled_eq (p : Plan) : p.staled = p ∨ p.staled = .stale := by cases p <;> simp [Plan.staled]

theorem staled_not_valid (p : Plan) : p.staled.isValid = false := by cases p <;> rfl

/-! ### Steps that leave the in-service set as it is -/

/-- From `s` to `t` the circuit table has changed in restoration states and tag checks alone, plans have at most become STALE,
and no build has begun. -/
structure Undisturbed (s t : State) : Prop where
  table : t.table = { s.table with circuits := t.table.circuits }
  service : inServiceOf t.table.circuits = inServiceOf s.table.circuits
  wf : tableWf .absent s.table.circuits = true → tableWf .absent t.table.circuits = true
  plan : ∀ k, t.plan k = s.plan k ∨ t.plan k = .stale
  build : ∀ k i, t.engine.state = .build k i → s.engine.state = .build k i

namespace Undisturbed

theorem refl (s : State) : Undisturbed s s := ⟨rfl, rfl, id, fun _ => .inl rfl, fun _ _ h => h⟩

theorem trans {s t u : State} (h : Undisturbed s t) (g : Undisturbed t u) : Undisturbed s u where
  table := by rw [g.table, h.table]
  service := g.service.trans h.service
  wf := fun hs => g.wf (h.wf hs)
  plan := fun k => (g.plan k).elim (fun e => e ▸ h.plan k) .inr
  build := fun k i hb => h.build k i (g.build k i hb)

theorem after {s t u : State} (g : Undisturbed t u) (h : Undisturbed s t) : Undisturbed s u := h.trans g

/-- A step that touches neither the circuit table nor the plans, and begins no build. -/
theorem of_table_plans {s t : State} (ht : t.table = s.table) (hp : t.plans = s.plans)
    (hb : ∀ k i, t.engine.state = .build k i → s.engine.state = .build k i) : Undisturbed s t where
  table := by rw [ht]
  service := by rw [ht]
  wf := by rw [ht]; exact id
  plan := fun k => .inl (by unfold State.plan; rw [hp])
  build := hb

/-- A step that touches neither the circuit table nor the plans nor the engine. -/
theorem of_eq {s t : State} (ht : t.table = s.table) (hp : t.plans = s.plans) (he : t.engine = s.engine) : Undisturbed s t :=
  of_table_plans ht hp (fun k i h => by rw [← he]; exact h)

/-- A step that replaces circuit records key by key, keeping service, fields and attachments. -/
theorem of_map {s t : State} (g : Nat × CircuitRecord → Nat × CircuitRecord)
    (ht : t.table = { s.table with circuits := s.table.circuits.map g }) (hp : t.plans = s.plans)
    (hb : t.engine.state = s.engine.state) (hk : ∀ e, (g e).1 = e.1) (hs : ∀ e, inServiceOf [g e] = inServiceOf [e])
    (ha : ∀ e, e.2 ≠ .absent → (g e).2 ≠ .absent) : Undisturbed s t where
  table := by rw [ht]
  service := by rw [ht]; exact inServiceOf_map hs _
  wf := by rw [ht]; exact tableWf_map g hk ha
  plan := fun k => .inl (by unfold State.plan; rw [hp])
  build := fun k i h => hb ▸ h

theorem settings {s t : State} (h : Undisturbed s t) : t.settings = s.settings := by
  unfold State.settings; rw [h.table]

theorem ring {s t : State} (h : Undisturbed s t) : t.table.ring = s.table.ring := by rw [h.table]

theorem ringSize {s t : State} (h : Undisturbed s t) : t.ringSize = s.ringSize := by
  unfold State.ringSize; rw [h.ring]

theorem digestOf {s t : State} (h : Undisturbed s t) : Machine.digestOf t.table = Machine.digestOf s.table := by
  unfold Machine.digestOf; rw [h.service, h.table]

theorem anyInService {s t : State} (h : Undisturbed s t) : t.anyInService = s.anyInService :=
  anyInService_congr h.service

theorem buildInputs {s t : State} (h : Undisturbed s t) (k : Nat) : Machine.buildInputs k t = Machine.buildInputs k s :=
  buildInputs_congr k h.ring h.service (by rw [h.table])

end Undisturbed

/-! ### The Restoration Engine and the Plan Store -/

/-- An install writes restoration states alone (R106). -/
theorem undisturbed_install (r : PassResult) (s : State) : Undisturbed s (install r s) := by
  refine .of_map (fun e => match e.2 with
    | .inService f a x k => (e.1, .inService f a (restorationIn r.outcomes e.1 x) k)
    | _ => e) (install_spec r s).2.1 (by simp) (by rw [(install_spec r s).1]) ?_ ?_ ?_
  all_goals
    rintro ⟨c, rec⟩
    cases rec <;> simp [inServiceOf]

theorem undisturbed_bump (n : Nat) (s : State) : Undisturbed s (bump n s) := .of_eq rfl rfl rfl

theorem undisturbed_raise (x : Subject) (s : State) : Undisturbed s (raise x s) := .of_eq (by simp) (by simp) (by simp)

theorem undisturbed_applyPlan (r : PassResult) (s : State) : Undisturbed s (applyPlan r s) :=
  (undisturbed_install r s).trans (undisturbed_bump _ _)

/-- An engine that enters a state other than BUILD begins no build. -/
theorem undisturbed_setEngine {e : EngineState} (h : ∀ k i, e ≠ .build k i) (s : State) : Undisturbed s (setEngine e s) :=
  .of_table_plans rfl rfl (fun k i hb => absurd hb (h k i))

theorem undisturbed_abandonBuild (s : State) : Undisturbed s (abandonBuild s) := by
  unfold abandonBuild
  split
  · rename_i k i _
    refine (undisturbed_setEngine (by simp) _).after ⟨rfl, rfl, id, fun j => ?_, fun _ _ h => h⟩
    rw [plan_setPlan]
    split
    · exact .inr rfl
    · exact .inl rfl
  · exact .refl s

theorem undisturbed_startGather (s : State) : Undisturbed s (startGather s) :=
  undisturbed_setEngine (by simp) s

theorem undisturbed_restartPass (s : State) : Undisturbed s (restartPass s) :=
  (undisturbed_bump _ s).trans (undisturbed_setEngine (by simp) _)

theorem undisturbed_answerMapChange (s : State) : Undisturbed s (answerMapChange s) := by
  rcases answerMapChange_cases s with ⟨r, _, h⟩ | ⟨_, h⟩ <;> rw [h]
  · exact undisturbed_applyPlan r s
  · exact undisturbed_startGather s

theorem undisturbed_mapChange (s : State) : Undisturbed s (mapChange s) := by
  unfold mapChange
  split
  · split
    · exact undisturbed_answerMapChange s
    · exact (undisturbed_abandonBuild s).trans (undisturbed_answerMapChange _)
    · exact .refl s
    · exact undisturbed_restartPass s
  · exact undisturbed_abandonBuild s
  · exact .refl s

theorem undisturbed_generationChange (s : State) : Undisturbed s (generationChange s) := by
  unfold generationChange
  split
  · split
    · split
      · exact .refl s
      · exact undisturbed_startGather s
    · split
      · exact .refl s
      · exact (undisturbed_abandonBuild s).trans (undisturbed_startGather _)
    · exact .refl s
    · exact undisturbed_restartPass s
  · exact .refl s

theorem undisturbed_endWork (s : State) : Undisturbed s (endWork s) := by
  unfold endWork
  split
  · exact .refl s
  · exact undisturbed_setEngine (by simp) s
  · exact (undisturbed_bump _ s).trans (undisturbed_setEngine (by simp) _)
  · exact undisturbed_abandonBuild s

theorem undisturbed_stalePlans (s : State) : Undisturbed s (stalePlans s) := by
  refine ⟨rfl, rfl, id, fun k => ?_, fun _ _ h => h⟩
  rw [plan_stalePlans]
  split
  · exact staled_eq _
  · exact .inl rfl

theorem undisturbed_gatherExpiry (s : State) : Undisturbed s (gatherExpiry s) := by
  unfold gatherExpiry
  split
  · exact (undisturbed_setEngine (by simp) _).after (.of_eq rfl rfl rfl)
  · exact .refl s

theorem undisturbed_passCompletion (s : State) : Undisturbed s (passCompletion s) := by
  unfold passCompletion
  split
  · exact ((undisturbed_install _ s).trans (undisturbed_bump _ _)).trans (undisturbed_setEngine (by simp) _)
  · exact .refl s

/-! ### The Failure Map, the Notice Unit and the node state -/

theorem undisturbed_deliverMapChange (m : FailureMap) (s : State) : Undisturbed s (deliverMapChange m s) := by
  unfold deliverMapChange
  split
  · exact .refl s
  · exact undisturbed_mapChange s

theorem undisturbed_viewsDelivered (side : Side) (views : Quad View) (s : State) :
    Undisturbed s (viewsDelivered side views s) := by
  unfold viewsDelivered
  dsimp only
  split
  · exact .of_eq rfl rfl rfl
  · exact (undisturbed_deliverMapChange _ _).after (.of_eq (by simp) (by simp) (by simp))

theorem undisturbed_setRequest (p : Nat) (side : Side) (r : OperatorRequest) (s : State) :
    Undisturbed s (setRequest p side r s) := by
  unfold setRequest
  dsimp only
  refine Undisturbed.trans ?_ (undisturbed_deliverMapChange _ _)
  split <;> exact .of_eq (by simp) (by simp) (by simp)

theorem undisturbed_orientationChanged (s : State) : Undisturbed s (orientationChanged s) := by
  unfold orientationChanged
  dsimp only
  split
  · exact (undisturbed_deliverMapChange _ _).after (.of_eq (by simp) (by simp) (by simp))
  · refine Undisturbed.trans ?_ (undisturbed_deliverMapChange _ _)
    split <;> exact .of_eq (by simp) (by simp) (by simp)

theorem undisturbed_actOnDegradeChanged (s : State) : Undisturbed s (actOnDegradeChanged s) :=
  (undisturbed_deliverMapChange _ _).after (.of_eq (by simp) (by simp) (by simp))

theorem undisturbed_handleNotice (p : Side) (v : Notice) (s : State) : Undisturbed s (handleNotice p v s) := by
  unfold handleNotice
  repeat' split
  · exact .refl s
  · exact .of_eq (by simp) (by simp) (by simp)
  · exact .of_eq (by simp) (by simp) (by simp)
  · exact (undisturbed_deliverMapChange _ _).after (.of_eq (by simp) (by simp) (by simp))
  · exact .of_eq (by simp) (by simp) (by simp)

theorem undisturbed_takeNotice (s : State) : Undisturbed s (takeNotice s) := by
  unfold takeNotice
  split
  · exact .refl s
  · split
    · exact .refl s
    · rename_i p chosen _ _ cls f _
      refine Undisturbed.trans (.of_eq (by simp) (by simp) (by simp) : Undisturbed s (takeLatch p chosen s)) ?_
      cases cls
      · exact undisturbed_handleNotice p _ _
      · exact undisturbed_handleNotice p _ _
      · exact .refl _
      · exact .refl _

theorem undisturbed_stalenessExpiry (q : Nat) (s : State) : Undisturbed s (stalenessExpiry q s) := by
  unfold stalenessExpiry
  split
  · exact (undisturbed_deliverMapChange _ _).after (.of_eq (by simp) (by simp) (by simp))
  · exact .refl s

theorem undisturbed_engineEntersActive (s : State) : Undisturbed s (engineEntersActive s) := by
  unfold engineEntersActive
  split
  · exact .refl s
  · exact undisturbed_mapChange s

theorem undisturbed_listenExpiry (s : State) : Undisturbed s (listenExpiry s) := by
  unfold listenExpiry
  split
  · rename_i expiry _
    have h1 : Undisturbed s (evaluateConvergence (originate (setNodeState .active (s.reach expiry)))) :=
      .of_eq (by simp) (by simp) (by simp)
    have h2 := (undisturbed_engineEntersActive _).after h1
    exact h2.trans (.of_eq (by simp) (by simp) (by simp))
  · exact .refl s

/-! ### Line ports -/

theorem undisturbed_setSupervisor (p : Side) (b : Nat) (v : Supervisor) (s : State) :
    Undisturbed s (setSupervisor p b v s) := by
  unfold setSupervisor
  dsimp only
  split
  · exact .of_eq rfl rfl rfl
  · exact (undisturbed_viewsDelivered _ _ _).after (.of_eq (by simp) (by simp) (by simp))

theorem undisturbed_deriveBand (p : Side) (b : Nat) (v : Supervisor) (s : State) : Undisturbed s (deriveBand p b v s) :=
  undisturbed_setSupervisor p b _ s

theorem undisturbed_alignmentChanged (p : Side) (b : Nat) (before : Alignment) (s : State) :
    Undisturbed s (alignmentChanged p b before s) := by
  unfold alignmentChanged
  split
  · unfold enterLost
    dsimp only
    split
    · exact undisturbed_deriveBand p b _ s
    · exact undisturbed_setSupervisor p b _ s
  · exact undisturbed_setSupervisor p b _ s
  · exact .refl s

theorem undisturbed_intervalFrame (p : Side) (b : Nat) (errored : Bool) (s : State) :
    Undisturbed s (intervalFrame p b errored s) := by
  unfold intervalFrame
  dsimp only
  split
  · exact undisturbed_setSupervisor p b _ s
  · split
    · exact undisturbed_setSupervisor p b _ s
    · exact undisturbed_deriveBand p b _ s

theorem undisturbed_clearDegrade (s : State) (e : Side × Nat) : Undisturbed s (clearDegrade s e) := by
  unfold clearDegrade
  dsimp only
  split
  · exact undisturbed_deriveBand _ _ _ s
  · exact .refl s

/-- A fold of undisturbing steps is undisturbing. -/
theorem undisturbed_foldl {α : Type} {f : State → α → State} (h : ∀ s a, Undisturbed s (f s a)) (l : List α) (s : State) :
    Undisturbed s (l.foldl f s) := by
  induction l generalizing s with
  | nil => exact .refl s
  | cons a l ih => exact (h s a).trans (ih _)

theorem undisturbed_deliverThreshold (s : State) : Undisturbed s (deliverThreshold s) := by
  unfold deliverThreshold
  split
  · exact undisturbed_foldl undisturbed_clearDegrade _ s
  · exact .refl s

theorem undisturbed_bandFrame (p : Side) (b : Nat) (f : BandFrame) (s : State) : Undisturbed s (bandFrame p b f s) := by
  have h1 : Undisturbed s (receiveBand p b f s) := .of_eq (by simp) (by simp) (by simp)
  have h2 := h1.trans (undisturbed_alignmentChanged p b (s.band p b).alignment _)
  have h3 : Undisturbed s (portOverhead p b f (alignmentChanged p b (s.band p b).alignment (receiveBand p b f s))) :=
    h2.trans (.of_eq (by simp) (by simp) (by simp))
  exact h3.trans (undisturbed_intervalFrame _ _ _ _)

theorem undisturbed_holdOffExpiry (p : Side) (b : Nat) (s : State) : Undisturbed s (holdOffExpiry p b s) := by
  unfold holdOffExpiry
  dsimp only
  split
  · exact .refl s
  · exact (undisturbed_deriveBand _ _ _ _).after (.of_eq rfl rfl rfl)

theorem undisturbed_returnTimerExpiry (p : Side) (b : Nat) (s : State) : Undisturbed s (returnTimerExpiry p b s) := by
  unfold returnTimerExpiry
  dsimp only
  split
  · exact .refl s
  · exact (undisturbed_deriveBand _ _ _ _).after (.of_eq rfl rfl rfl)

/-! ### The Slot Switch -/

/-- A change of tag checks alone keeps service, fields and attachments. -/
theorem undisturbed_mapChecks {s t : State} (g : Nat → Attachment → TagCheck → TagCheck)
    (ht : t.table = { s.table with circuits := mapChecks g s.table.circuits }) (hp : t.plans = s.plans)
    (he : t.engine = s.engine) : Undisturbed s t := by
  refine .of_map _ ht hp (by rw [he]) ?_ ?_ ?_
  all_goals
    rintro ⟨c, rec⟩
    dsimp only
    split <;> simp_all [inServiceOf]

theorem undisturbed_frameBoundary (s : State) : Undisturbed s (frameBoundary s) := by
  have h1 : Undisturbed s (countFrames s) :=
    undisturbed_mapChecks (countFrame s) (by simp [countFrames]) (by simp) (by simp)
  have h2 : Undisturbed (countFrames s) (swing (countFrames s)) := by
    unfold swing
    split
    · exact .refl _
    · exact undisturbed_mapChecks _ rfl rfl rfl
  exact (h1.trans h2).trans (undisturbed_mapChecks openFrame rfl rfl rfl)

/-! ### RESTART -/

/-- RESTART sets restoration states and tag checks of circuits in service, and nothing else in the circuit table (R24). -/
theorem undisturbed_restartCircuits (s : State) : Undisturbed s (restartCircuits s) := by
  refine .of_map (fun e => (e.1, e.2.restarted)) (by simp [restartCircuits]) (by simp) (by simp) (fun _ => rfl) ?_ ?_
  all_goals
    rintro ⟨c, rec⟩
    cases rec <;> simp [inServiceOf, CircuitRecord.restarted]

theorem undisturbed_restart (s : State) : Undisturbed s (restart s) := by
  have h1 : Undisturbed s (restartEngine s) := (undisturbed_endWork s).trans (.of_table_plans rfl rfl (fun _ _ h => h))
  have h2 := (h1.trans (undisturbed_restartCircuits _)).trans (undisturbed_stalePlans _)
  unfold restart
  dsimp only
  refine h2.trans (.of_eq ?_ ?_ ?_) <;> split <;> simp

/-! ### Chains -/

theorem undisturbed_setExecution (e : Execution) (s : State) : Undisturbed s (setExecution e s) := .of_eq rfl rfl rfl

theorem undisturbed_endChain (c : Chain) (s : State) : Undisturbed s (endChain c s) := by
  unfold endChain
  dsimp only
  split
  · exact (undisturbed_restart _).after (.of_eq (by simp) (by simp) (by simp))
  · exact .of_eq (by simp) (by simp) (by simp)

theorem undisturbed_answer (c : Chain) (more : Bool) (code : ResultCode) (count : Nat) (s : State) :
    Undisturbed s (answer c more code count s) := by
  unfold answer
  split
  · exact undisturbed_endChain _ s
  · exact undisturbed_setExecution _ s

theorem undisturbed_doOperator (side value : Nat) (s : State) : Undisturbed s (doOperator side value s).state := by
  unfold doOperator
  split
  · exact .refl s
  · split
    · exact .refl s
    · exact undisturbed_setRequest _ _ _ s

theorem undisturbed_readRecord (c : Chain) (r : Reading) (s : State) : Undisturbed s (readRecord c r s) := by
  unfold readRecord
  dsimp only
  repeat' split
  · exact undisturbed_answer _ _ _ _ s
  · exact undisturbed_answer _ _ _ _ s
  · exact .of_eq rfl rfl rfl
  · exact undisturbed_answer _ _ _ _ s

end Sys2Proof.Machine
end

section
/-! PROOF. What the directives that change the tables do to them: SERVICE IN and OUT (R18, R19) and LOAD on each table that is
loaded (R165). -/

namespace Sys2Proof.Machine

/-! ### The digest -/

/-- What recomputing the digest does to the circuit table (R23). -/
theorem refreshDigest_table (s : State) : (refreshDigest s).table = { s.table with digest := digestOf s.table } := by
  unfold refreshDigest
  dsimp only
  split
  · rename_i h; rw [h]
  · simp

/-- The state with another digest. -/
def State.withDigest (s : State) (d : Half) : State := { s with table := { s.table with digest := d } }

@[simp] theorem withDigest_table (s : State) (d : Half) : (s.withDigest d).table = { s.table with digest := d } := rfl

@[simp] theorem withDigest_frame (s : State) (d : Half) :
    (s.withDigest d).pending = s.pending ∧ (s.withDigest d).now = s.now ∧ (s.withDigest d).node = s.node ∧
      (s.withDigest d).ports = s.ports ∧ (s.withDigest d).tribs = s.tribs ∧ (s.withDigest d).map = s.map ∧
      (s.withDigest d).notices = s.notices ∧ (s.withDigest d).engine = s.engine ∧ (s.withDigest d).plans = s.plans ∧
      (s.withDigest d).switch = s.switch ∧ (s.withDigest d).mgmt = s.mgmt ∧ (s.withDigest d).reports = s.reports ∧
      (s.withDigest d).counters = s.counters := ⟨rfl, rfl, rfl, rfl, rfl, rfl, rfl, rfl, rfl, rfl, rfl, rfl, rfl⟩

/-- A digest recomputed after an undisturbing step is that of the table before it. -/
theorem undisturbed_refreshDigest {s t : State} (h : Undisturbed s t) :
    Undisturbed (s.withDigest (digestOf s.table)) (refreshDigest t) where
  table := by rw [refreshDigest_table, h.digestOf, h.table, withDigest_table]
  service := by rw [refreshDigest_table]; exact h.service
  wf := by rw [refreshDigest_table]; exact h.wf
  plan := fun k => by
    rw [show (refreshDigest t).plan k = t.plan k by unfold State.plan; simp]
    exact h.plan k
  build := fun k i => by
    rw [(refreshDigest_frame t).2.2.2.2.2.2.1]
    exact h.build k i

theorem Undisturbed.not_valid {s t : State} (h : Undisturbed s t) {k : Nat} (hk : (s.plan k).isValid = false) :
    (t.plan k).isValid = false := by
  rcases h.plan k with e | e <;> rw [e]
  · exact hk
  · rfl

/-! ### SERVICE -/

/-- What a change of the in-service set delivers leaves the table as the change made it, with its digest (R23). -/
theorem undisturbed_deliverService (c : Nat) (s : State) :
    Undisturbed (s.withDigest (digestOf s.table)) (deliverService c s) := by
  have h1 : Undisturbed s (deriveTarget (stalePlans s)) := (undisturbed_stalePlans s).trans (.of_eq rfl rfl rfl)
  exact undisturbed_refreshDigest ((h1.trans (undisturbed_generationChange _)).trans (undisturbed_raise _ _))

/-- A change of the in-service set leaves no plan VALID (R113). -/
theorem deliverService_plan (c : Nat) (s : State) {k : Nat} (hk : k < s.ringSize) :
    ((deliverService c s).plan k).isValid = false := by
  have h0 : ((stalePlans s).plan k).isValid = false := by rw [plan_stalePlans, if_pos hk]; exact staled_not_valid _
  have h1 : Undisturbed (stalePlans s) (deriveTarget (stalePlans s)) := .of_eq rfl rfl rfl
  have h2 := (h1.trans (undisturbed_generationChange _)).trans (undisturbed_raise (.circuit c) _)
  have h3 : (deliverService c s).plan k = (raise (.circuit c) (generationChange (deriveTarget (stalePlans s)))).plan k := by
    unfold State.plan deliverService; simp
  rw [h3]
  exact h2.not_valid h0

/-- What SERVICE IN does: nothing when it is refused, else the DEFINED record comes in. -/
theorem serviceIn_cases (c : Nat) (s : State) :
    (serviceIn c s).1 = s ∨ ∃ f att, s.circuit c = .defined f att ∧ (serviceIn c s).1 = bringIn c f att s := by
  unfold serviceIn
  split <;> dsimp only
  · rename_i f att _ hc; exact .inr ⟨f, att, hc, rfl⟩
  · exact .inl rfl

/-- What SERVICE OUT does: nothing when it is refused, else the record in service goes out. -/
theorem serviceOut_cases (c : Nat) (s : State) :
    (serviceOut c s).1 = s ∨
      ∃ f att r k, s.circuit c = .inService f att r k ∧ (serviceOut c s).1 = takeOut c f att s := by
  unfold serviceOut
  split <;> dsimp only
  · rename_i f att r k hc; exact .inr ⟨f, att, r, k, hc, rfl⟩
  · exact .inl rfl

/-- What a SERVICE directive that is taken leaves of the circuit table and the engine: the record, the occupancy, the generation
moved on and the digest (R18, R19, R23). -/
structure ServiceTaken (s t : State) : Prop where
  table : ∃ circuits occupancy, t.table = { s.table with
    circuits := circuits, occupancy := occupancy, generation := s.table.generation + 1, digest := t.table.digest }
  digest : t.table.digest = digestOf t.table
  wf : tableWf .absent s.table.circuits = true → tableWf .absent t.table.circuits = true
  plan : ∀ k, t.plan k = s.plan k ∨ t.plan k = .stale
  invalid : ∀ k, k < s.ringSize → (t.plan k).isValid = false
  build : ∀ k i, t.engine.state = .build k i → s.engine.state = .build k i

/-- A change of the in-service set that is delivered, with the generation moved on. -/
theorem serviceTaken_deliverService {s u : State} (c c' : Nat) (r : CircuitRecord) (occupancy : Table Occupant)
    (ht : u.table = { s.table with
      circuits := put .absent s.table.circuits c' r, occupancy := occupancy, generation := s.table.generation + 1 })
    (hp : u.plans = s.plans) (he : u.engine.state = s.engine.state) : ServiceTaken s (deliverService c u) := by
  have h := undisturbed_deliverService c u
  refine ⟨⟨(deliverService c u).table.circuits, occupancy, ?_⟩, ?_, fun hs => h.wf ?_, fun k => ?_, fun k hk => ?_,
    fun k i hb => ?_⟩
  · rw [h.table, withDigest_table, ht]
  · rw [h.digestOf, h.table]; rfl
  · rw [withDigest_table, ht]; exact tableWf_put _ _ hs
  · rw [← show u.plan k = s.plan k by unfold State.plan; rw [hp]]; exact h.plan k
  · exact deliverService_plan c u (by unfold State.ringSize; rw [ht]; exact hk)
  · rw [← he]; exact h.build k i hb

/-- A SERVICE directive is refused with nothing changed, or taken. -/
theorem service_taken (a : ServiceAction) (c : Nat) (s : State) :
    (service a c s).1 = s ∨ ServiceTaken s (service a c s).1 := by
  cases a with
  | in_ =>
    refine (serviceIn_cases c s).imp id ?_
    rintro ⟨f, att, _, h⟩
    rw [show (service .in_ c s).1 = bringIn c f att s from h]
    unfold bringIn
    exact serviceTaken_deliverService c c _ _ rfl rfl rfl
  | out =>
    refine (serviceOut_cases c s).imp id ?_
    rintro ⟨f, att, _, _, _, h⟩
    rw [show (service .out c s).1 = takeOut c f att s from h]
    unfold takeOut
    exact serviceTaken_deliverService c c _ _ rfl rfl rfl

/-! ### LOAD -/

/-- What every image written keeps, the whole load keeps. -/
theorem loadImages_keeps {write : List Byte → State → Except ResultCode State} {R : State → Prop} {records : Nat}
    (hw : ∀ image s t, R s → write image s = .ok t → R (advanceCursor t)) (l : List (List Byte)) (n : Nat) {s : State}
    (hs : R s) : R (loadImages write records l n s).state := by
  induction l generalizing n s with
  | nil => exact hs
  | cons image rest ih =>
    unfold loadImages
    split
    · exact hs
    · split
      · exact hs
      · rename_i t ht
        exact ih (n + 1) (hw image s t hs ht)

/-- What writing a CIRCUIT image does: the record at the cursor, which is not in service, becomes DEFINED or ABSENT (R12, R13). -/
theorem writeCircuit_ok {image : List Byte} {s t : State} (h : writeCircuit image s = .ok t) :
    ∃ r, circuitImage image = some r ∧ t = s.setCircuit s.mgmt.cursor.index r ∧
      ∀ f a x k, s.circuit s.mgmt.cursor.index ≠ .inService f a x k := by
  unfold writeCircuit at h
  dsimp only at h
  split at h
  · cases h
  · rename_i hc
    split at h
    · cases h
    · rename_i r hr
      cases h
      exact ⟨r, hr, rfl, hc⟩

/-- A CIRCUIT image defines a record or makes it ABSENT; it never brings one in service (R12, R13). -/
theorem circuitImage_cases {l : List Byte} {r : CircuitRecord} (h : circuitImage l = some r) :
    r = .absent ∨ ∃ f a, r = .defined f a := by
  unfold circuitImage at h
  repeat' split at h
  all_goals cases h
  all_goals simp

theorem inServiceOf_single_of_ne {c : Nat} {r : CircuitRecord} (h : ∀ f a x k, r ≠ .inService f a x k) :
    inServiceOf [(c, r)] = [] := by
  cases r with
  | inService f a x k => exact absurd rfl (h f a x k)
  | _ => rfl

/-- What a LOAD on the CIRCUIT table leaves of the circuit table: records that are not in service (R12, R13). -/
theorem loadCircuits_table (bulk : List Byte) (s : State) :
    (loadCircuits bulk s).state.table = { s.table with circuits := (loadCircuits bulk s).state.table.circuits } ∧
      (tableWf .absent s.table.circuits = true → tableWf .absent (loadCircuits bulk s).state.table.circuits = true ∧
        inServiceOf (loadCircuits bulk s).state.table.circuits = inServiceOf s.table.circuits) := by
  refine loadImages_keeps (R := fun t => t.table = { s.table with circuits := t.table.circuits } ∧
    (tableWf .absent s.table.circuits = true → tableWf .absent t.table.circuits = true ∧
      inServiceOf t.table.circuits = inServiceOf s.table.circuits)) ?_ _ 0 ⟨rfl, fun h => ⟨h, rfl⟩⟩
  rintro image t u ⟨ht, hwf⟩ hu
  obtain ⟨r, hr, rfl, hc⟩ := writeCircuit_ok hu
  refine ⟨?_, fun hs => ?_⟩
  · rw [(advanceCursor_frame _).2.2.2.2.2.2.2.1]
    show { t.table with circuits := put .absent t.table.circuits t.mgmt.cursor.index r } = _
    rw [ht]
    rfl
  · obtain ⟨h1, h2⟩ := hwf hs
    refine ⟨tableWf_put _ _ h1, (inServiceOf_put h1 ?_).trans h2⟩
    rw [show inServiceOf [(t.mgmt.cursor.index, look .absent t.table.circuits t.mgmt.cursor.index)] = [] from
      inServiceOf_single_of_ne hc]
    rcases circuitImage_cases hr with rfl | ⟨f, a, rfl⟩ <;> rfl

/-- What writing the images of a LOAD on the RING table does to the circuit table: the ring map alone changes. -/
theorem loadImages_ring_table (l : List (List Byte)) (n records : Nat) (s : State) :
    (loadImages writeRing records l n s).state.table =
      { s.table with ring := (loadImages writeRing records l n s).state.table.ring } := by
  refine loadImages_keeps (R := fun t => t.table = { s.table with ring := t.table.ring }) ?_ l n rfl
  intro image t u ht hu
  unfold writeRing at hu
  dsimp only at hu
  split at hu
  · cases hu
  · cases hu
    rw [(advanceCursor_frame _).2.2.2.2.2.2.2.1]
    dsimp only
    rw [ht]

/-- A ring map that is evaluated and found the same stays as it is. -/
theorem evaluateRing_same {before : Table Byte} {s : State} (h : sameRing before s.table.ring = true) :
    evaluateRing before s = s := if_pos h

/-- A changed ring map up to the node state's answer: the engine's work ended, the generation moved on, the digest recomputed,
plans, records and map afresh, and a notice originated when the digest has changed (R3, R50, R80, R94, R112). -/
def ringDelivered (s : State) : State :=
  let t := rebuildMap (clearNotices (plansOfRing (countRingChange (endWork s))))
  if t.table.digest = s.table.digest then t else originate t

theorem evaluateRing_changed {before : Table Byte} {s : State} (h : sameRing before s.table.ring = false) :
    evaluateRing before s = nodeAfterRing (ringDelivered s) := by
  unfold evaluateRing ringDelivered
  rw [h]
  rfl

theorem endWork_engine (s : State) : (endWork s).engine = { s.engine with state := .idle } := by
  unfold endWork
  split
  · rename_i h; rw [← h]
  · rfl
  · rfl
  · rename_i h; exact (abandonBuild_spec h).1

/-- What evaluating a changed ring map leaves of the circuit table, the engine and the plans (R3, R94, R112). -/
theorem ringDelivered_tables (s : State) :
    (ringDelivered s).table = { s.table with generation := s.table.generation + 1, digest := digestOf s.table } ∧
      (ringDelivered s).engine = { s.engine with state := .idle } ∧
      (ringDelivered s).plans = (List.range (spansOfRing s.table.ring s.node.strap)).map (fun k => (k, Plan.stale)) := by
  have hc : (countRingChange (endWork s)).table =
      { s.table with generation := s.table.generation + 1, digest := digestOf s.table } := by
    unfold countRingChange; simp
  have hp : (plansOfRing (countRingChange (endWork s))).plans =
      (List.range (spansOfRing s.table.ring s.node.strap)).map (fun k => (k, Plan.stale)) := by
    unfold plansOfRing; simp [hc]
  unfold ringDelivered
  dsimp only
  split <;> simp [hc, hp, endWork_engine]

/-- Two ring maps with the same 32 entries have the same ring size. -/
theorem ringSizeOf_congr {r t : Table Byte} (h : ∀ k, k < 32 → look 0 r k = look 0 t k) : ringSizeOf r = ringSizeOf t := by
  unfold ringSizeOf
  congr 1
  refine List.find?_congr (fun k hk => ?_)
  rw [h k (List.mem_range.mp hk)]

theorem sameRing_iff (r t : Table Byte) : sameRing r t = true ↔ ∀ k, k < 32 → look 0 r k = look 0 t k := by
  unfold sameRing
  simp only [List.all_eq_true, List.mem_range, beq_iff_eq]
  rfl

theorem ringSizeOf_le (r : Table Byte) : ringSizeOf r ≤ 32 := by
  unfold ringSizeOf
  cases h : (List.range Config.ringMax).find? (fun k => look 0 r k == 0) with
  | none => exact le_rfl
  | some k => exact (List.mem_range.mp (List.mem_of_find?_eq_some h)).le

/-- Two ring maps with the same 32 entries hold the same IDs. -/
theorem ringIdsOf_congr {r t : Table Byte} (h : ∀ k, k < 32 → look 0 r k = look 0 t k) : ringIdsOf r = ringIdsOf t := by
  unfold ringIdsOf
  rw [ringSizeOf_congr h]
  refine List.map_congr_left (fun k hk => h k ?_)
  exact (List.mem_range.mp hk).trans_le (ringSizeOf_le t)

/-- The state with another SETTINGS record. -/
def State.withSettings (s : State) (g : Settings) : State := { s with table := { s.table with settings := g } }

@[simp] theorem withSettings_table (s : State) (g : Settings) :
    (s.withSettings g).table = { s.table with settings := g } := rfl

@[simp] theorem withSettings_frame (s : State) (g : Settings) :
    (s.withSettings g).pending = s.pending ∧ (s.withSettings g).now = s.now ∧ (s.withSettings g).node = s.node ∧
      (s.withSettings g).ports = s.ports ∧ (s.withSettings g).tribs = s.tribs ∧ (s.withSettings g).map = s.map ∧
      (s.withSettings g).notices = s.notices ∧ (s.withSettings g).engine = s.engine ∧
      (s.withSettings g).plans = s.plans ∧ (s.withSettings g).switch = s.switch ∧ (s.withSettings g).mgmt = s.mgmt ∧
      (s.withSettings g).reports = s.reports ∧ (s.withSettings g).counters = s.counters :=
  ⟨rfl, rfl, rfl, rfl, rfl, rfl, rfl, rfl, rfl, rfl, rfl, rfl, rfl⟩

@[simp] theorem withSettings_settings (s : State) (g : Settings) : (s.withSettings g).settings = g := rfl

theorem storeSettings_eq (g : Settings) (s : State) :
    storeSettings g s =
      deliverThreshold (deliverActOnDegrade s.settings (deliverOrientation s.settings (s.withSettings g))) := rfl

/-- The digest that a SETTINGS record leaves: recomputed when it changes act on degrade (R6, R23). -/
def digestStored (g : Settings) (s : State) : Half :=
  if g.actOnDegrade = s.settings.actOnDegrade then s.table.digest else digestOf (s.withSettings g).table

theorem undisturbed_deliverOrientation (before : Settings) (s : State) : Undisturbed s (deliverOrientation before s) := by
  unfold deliverOrientation
  split
  · exact .refl s
  · exact (undisturbed_orientationChanged s).trans (.of_eq rfl rfl rfl)

/-- What storing a SETTINGS record leaves of the circuit table: the record and the digest, and no change of the in-service set. -/
theorem undisturbed_storeSettings (g : Settings) (s : State) :
    Undisturbed ((s.withSettings g).withDigest (digestStored g s)) (storeSettings g s) := by
  rw [storeSettings_eq]
  have h := undisturbed_deliverOrientation s.settings (s.withSettings g)
  refine Undisturbed.trans ?_ (undisturbed_deliverThreshold _)
  unfold deliverActOnDegrade digestStored
  rw [h.settings, withSettings_settings]
  split
  · exact h
  · exact (undisturbed_refreshDigest h).trans (undisturbed_actOnDegradeChanged _)

/-- The digest reads of the settings act on degrade alone (R22). -/
theorem digestOf_congr {s t : CircuitTable} (hr : ∀ k, k < 32 → look 0 t.ring k = look 0 s.ring k)
    (ha : t.settings.actOnDegrade = s.settings.actOnDegrade) (hc : inServiceOf t.circuits = inServiceOf s.circuits) :
    digestOf t = digestOf s := by
  unfold digestOf
  rw [ringIdsOf_congr hr, ha, hc]

/-- A LOAD on the SETTINGS table stores nothing, or the record of its first image with the cursor moved on (R166). -/
theorem loadSettings_cases (bulk : List Byte) (s : State) :
    (loadSettings bulk s).state = s ∨
      ∃ image, (loadSettings bulk s).state = storeSettings (settingsImage image) (advanceCursor s) ∧
        orientationInUse (settingsImage image) s = false := by
  unfold loadSettings
  split
  · exact .inl rfl
  · split
    · exact .inl rfl
    · split
      · exact .inl rfl
      · rename_i h; exact .inr ⟨_, rfl, by simpa using h⟩

/-- A LOAD on the RING table is refused with a circuit in service; else its entries are written and evaluated (R2, R3). -/
theorem loadRing_cases (bulk : List Byte) (s : State) :
    (loadRing bulk s).state = s ∨
      (s.anyInService = false ∧ ∃ ring mgmt, (loadRing bulk s).state =
        evaluateRing s.table.ring { s with table := { s.table with ring := ring }, mgmt := mgmt }) := by
  unfold loadRing
  split
  · exact .inl rfl
  · rename_i h
    refine .inr ⟨by simpa using h, _, _, congrArg (evaluateRing s.table.ring) (?_ : _ =
      { s with table := { s.table with ring := (loadImages writeRing TableId.ring.records (imagesOf 1 bulk) 0 s).state.table.ring }
               mgmt := (loadImages writeRing TableId.ring.records (imagesOf 1 bulk) 0 s).state.mgmt })⟩
    have ht := loadImages_ring_table (imagesOf 1 bulk) 0 TableId.ring.records s
    obtain ⟨h1, h2, h3, h4, h5, h6, h7, h8, h9, h10, h11, h12⟩ :=
      loadImages_frame writeRing writeRing_frame TableId.ring.records (imagesOf 1 bulk) 0 s
    generalize (loadImages writeRing TableId.ring.records (imagesOf 1 bulk) 0 s).state = u at *
    obtain ⟨_, _, _, _, _, _, _, _, _, _, _, _, _, _⟩ := u
    subst h1 h2 h3 h4 h5 h6 h7 h8 h9 h10 h11 h12
    dsimp only at ht ⊢
    rw [ht]

/-- The four tables a LOAD can meet: three that are loaded, and any other, which is READ_ONLY (R165). -/
theorem doLoad_cases (bulk : List Byte) (s : State) :
    (doLoad bulk s).state = s ∨ doLoad bulk s = loadSettings bulk s ∨ doLoad bulk s = loadRing bulk s ∨
      doLoad bulk s = loadCircuits bulk s := by
  unfold doLoad
  split
  · exact .inr (.inl rfl)
  · exact .inr (.inr (.inl rfl))
  · exact .inr (.inr (.inr rfl))
  · exact .inl rfl

/-- A LOAD of a ring map that changes it leaves the engine IDLE, every plan STALE or ABSENT, the generation moved on and the
digest recomputed (R3, R94, R112). -/
theorem nodeAfterRing_tables (s : State) :
    (nodeAfterRing (ringDelivered s)).table =
        { s.table with generation := s.table.generation + 1, digest := digestOf s.table } ∧
      (nodeAfterRing (ringDelivered s)).engine = { s.engine with state := .idle } ∧
      (nodeAfterRing (ringDelivered s)).plans =
        (List.range (spansOfRing s.table.ring s.node.strap)).map (fun k => (k, Plan.stale)) := by
  simpa using ringDelivered_tables s

/-- Every plan after a changed ring map: below N STALE, the rest ABSENT (R112). -/
theorem plan_nodeAfterRing (s : State) (k : Nat) :
    (nodeAfterRing (ringDelivered s)).plan k =
      if k < spansOfRing s.table.ring s.node.strap then .stale else .absent := by
  unfold State.plan
  rw [(nodeAfterRing_tables s).2.2]
  exact look_range_map Plan.absent (fun _ => .stale) _ k

end Sys2Proof.Machine
end

section
/-! PROOF. What a command can do: a chain of directives is undisturbing steps, SERVICE directives taken with the lock FREE, each with
an item of the reply, and at most one LOAD, which ends the chain (R160, R161, R165). -/

namespace Sys2Proof.Machine

/-! ### The ends of a chain -/

@[simp] theorem endChain_execution (c : Chain) (s : State) : (endChain c s).mgmt.execution = .idle := by
  unfold endChain
  dsimp only
  split <;> simp

/-- A directive's answer ends the chain, or leaves it in execution with one item more. -/
theorem answer_execution (c : Chain) (more : Bool) (code : ResultCode) (count : Nat) (s : State) :
    (answer c more code count s).mgmt.execution = .idle ∨
      (more = true ∧ (answer c more code count s).mgmt.execution = .running (c.answered code count)) := by
  unfold answer
  split
  · exact .inl (endChain_execution _ s)
  · rename_i h
    refine .inr ⟨?_, rfl⟩
    cases more
    · simp at h
    · rfl

/-- A LOAD is the last directive of its chain (R160). -/
theorem nextDirective_load {body : List Byte} {d : ReadDirective} {bulk : List Byte} (h : nextDirective body = .ok d)
    (hd : d.directive = .load bulk) : d.more = false := by
  unfold nextDirective at h
  split at h
  · cases h
  · dsimp only at h
    repeat' split at h
    all_goals cases h
    all_goals first | rfl | cases hd

/-! ### Steps of a chain -/

/-- How many more directives the chain in execution has room for: 253 items of 4 bytes stand in a reply of 1,024 bytes (R161). -/
def State.itemsLeft (s : State) : Nat :=
  match s.mgmt.execution with
  | .running c => 253 - c.items.length
  | _ => 0

theorem itemsLeft_running {s : State} {c : Chain} (h : s.mgmt.execution = .running c) : s.itemsLeft = 253 - c.items.length := by
  unfold State.itemsLeft; rw [h]

theorem itemsLeft_stopped {s : State} (h : ∀ c, s.mgmt.execution ≠ .running c) : s.itemsLeft = 0 := by
  unfold State.itemsLeft
  split
  · exact absurd ‹_› (h _)
  · rfl

theorem itemsLeft_le (s : State) : s.itemsLeft ≤ 253 := by
  unfold State.itemsLeft
  split <;> omega

theorem itemsLeft_answer (c : Chain) (more : Bool) (code : ResultCode) (count : Nat) (s : State) :
    (answer c more code count s).itemsLeft ≤ 253 - (c.items.length + 1) := by
  rcases answer_execution c more code count s with h | ⟨_, h⟩
  · rw [itemsLeft_stopped (by simp [h])]; omega
  · rw [itemsLeft_running h]; simp [Chain.answered]

/-- From `s` to `t` there are undisturbing steps and `n` SERVICE directives, each taken with the lock FREE. -/
inductive Serviced : Nat → State → State → Prop where
  | rest {s t : State} : Undisturbed s t → Serviced 0 s t
  | service {n : Nat} {s t u : State} (a : ServiceAction) (c : Nat) :
    Undisturbed s t → t.lockHeld = false → Serviced n (service a c t).1 u → Serviced (n + 1) s u

/-- From `s` to `t` there are undisturbing steps, SERVICE directives and at the end at most one LOAD: `n` directives in all. -/
inductive Directed : Nat → State → State → Prop where
  | services {n : Nat} {s t : State} : Serviced n s t → Directed n s t
  | load {n : Nat} {s t u : State} (bulk : List Byte) :
    Serviced n s t → Undisturbed (doLoad bulk t).state u → Directed (n + 1) s u

theorem Serviced.trans {m n : Nat} {s t u : State} (h : Serviced m s t) (g : Serviced n t u) : Serviced (m + n) s u := by
  induction h with
  | rest h =>
    rw [Nat.zero_add]
    cases g with
    | rest g => exact .rest (h.trans g)
    | service a c h' hl g => exact .service a c (h.trans h') hl g
  | service a c h' hl _ ih =>
    rw [Nat.add_right_comm]
    exact .service a c h' hl (ih g)

/-- One SERVICE directive with what follows it. -/
theorem Serviced.one {s t : State} (a : ServiceAction) (c : Nat) (hl : s.lockHeld = false)
    (h : Undisturbed (Machine.service a c s).1 t) : Serviced 1 s t :=
  .service a c (.refl s) hl (.rest h)

theorem Directed.after {m n : Nat} {s t u : State} (g : Directed n t u) (h : Serviced m s t) : Directed (m + n) s u := by
  cases g with
  | services g => exact .services (h.trans g)
  | load bulk g hu => exact .load bulk (h.trans g) hu

theorem Directed.of_undisturbed {s t : State} (h : Undisturbed s t) : Directed 0 s t := .services (.rest h)

/-- A SERVICE directive is held, or taken once with the lock FREE (R168). -/
theorem takeService_serviced (c : Chain) (more : Bool) (a : ServiceAction) (n : Nat) (s : State) :
    (Undisturbed s (takeService c more a n s) ∧ ∀ d, (takeService c more a n s).mgmt.execution ≠ .running d) ∨
      (Serviced 1 s (takeService c more a n s) ∧ (takeService c more a n s).itemsLeft ≤ 253 - (c.items.length + 1)) := by
  unfold takeService
  split
  · exact .inl ⟨undisturbed_setExecution _ s, by simp [setExecution]⟩
  · rename_i h
    exact .inr ⟨.one a n (by simpa using h) (undisturbed_answer _ _ _ _ _), itemsLeft_answer _ _ _ _ _⟩

/-- What taking one directive of a chain does: an undisturbing step that leaves room for no more items than before, a SERVICE, or
a LOAD, after which the chain stands still unless its more flag was set. -/
theorem takeDirective_cases (c : Chain) (more : Bool) (d : Directive) (s : State) :
    let t := takeDirective c more d s
    (Undisturbed s t ∧ t.itemsLeft ≤ 253 - c.items.length) ∨
      (Serviced 1 s t ∧ t.itemsLeft ≤ 253 - (c.items.length + 1)) ∨
      ∃ bulk, d = .load bulk ∧ Undisturbed (doLoad bulk s).state t ∧ (more = false → t.mgmt.execution = .idle) := by
  have answered : ∀ {u : State} (code : ResultCode) (count : Nat), Undisturbed s u →
      Undisturbed s (answer c more code count u) ∧ (answer c more code count u).itemsLeft ≤ 253 - c.items.length :=
    fun code count hu => ⟨hu.trans (undisturbed_answer _ _ _ _ _), (itemsLeft_answer _ _ _ _ _).trans (by omega)⟩
  dsimp only
  cases d with
  | select table index => exact .inl (answered _ _ (.of_eq (by simp) (by simp) (by simp)))
  | load bulk =>
    refine .inr (.inr ⟨bulk, rfl, undisturbed_answer _ _ _ _ _, fun hm => ?_⟩)
    rcases answer_execution c more (doLoad bulk s).code (doLoad bulk s).count (doLoad bulk s).state with h | ⟨h, _⟩
    · exact h
    · rw [hm] at h; cases h
  | read count =>
    unfold takeDirective
    dsimp only
    split
    · exact .inl (answered _ _ (.refl s))
    · exact .inl ⟨undisturbed_setExecution _ s,
        (itemsLeft_running (c := { c with reading := some { remaining := count, returned := 0 } }) rfl).le⟩
  | service circuit action =>
    unfold takeDirective
    dsimp only
    split
    · exact .inl (answered _ _ (.refl s))
    · split
      · exact .inl (answered _ _ (.refl s))
      · rename_i a _
        rcases takeService_serviced c more a circuit s with ⟨h, hn⟩ | h
        · exact .inl ⟨h, by rw [itemsLeft_stopped hn]; omega⟩
        · exact .inr (.inl h)
  | operator side value => exact .inl (answered _ _ (undisturbed_doOperator side value s))
  | capture flag => exact .inl (answered _ _ (.of_eq (by simp) (by simp) (by simp)))
  | restart =>
    exact .inl ⟨undisturbed_answer _ _ _ _ s, (itemsLeft_answer _ _ _ _ _).trans (by dsimp only; omega)⟩

/-- What a step of a READ does: it leaves room for no more items than before. -/
theorem itemsLeft_readRecord (c : Chain) (r : Reading) (s : State) :
    (readRecord c r s).itemsLeft ≤ 253 - c.items.length := by
  have answered : ∀ code count, (answer c false code count s).itemsLeft ≤ 253 - c.items.length :=
    fun code count => (itemsLeft_answer _ _ _ _ _).trans (by omega)
  unfold readRecord
  dsimp only
  repeat' split
  · exact answered _ _
  · exact answered _ _
  · exact (itemsLeft_running (c := { c with
      records := c.records ++ recordImage s s.mgmt.cursor.table s.mgmt.cursor.index
      reading := some { remaining := r.remaining - 1, returned := r.returned + 1 } }) rfl).le
  · exact answered _ _

/-- A chain whose reply has room for an item within 1,024 bytes has fewer than 253 of them (R161). -/
theorem items_lt_of_hasRoom {c : Chain} {s : State} (h : c.hasRoom s = true) (hm : s.settings.maxReply ≤ 1024) :
    c.items.length < 253 := by
  unfold Chain.hasRoom replySize at h
  have := of_decide_eq_true h
  omega

/-- What a step of a chain does: an undisturbing step, a SERVICE that takes the room of one item, or a LOAD, which ends it. -/
theorem chainStep_cases {c : Chain} {s : State} (h : s.mgmt.execution = .running c) :
    let t := chainStep c s
    (Undisturbed s t ∧ t.itemsLeft ≤ s.itemsLeft) ∨
      (Serviced 1 s t ∧ (s.settings.maxReply ≤ 1024 → t.itemsLeft + 1 ≤ s.itemsLeft)) ∨
      ∃ bulk, Undisturbed (doLoad bulk s).state t ∧ t.mgmt.execution = .idle ∧
        (s.settings.maxReply ≤ 1024 → 1 ≤ s.itemsLeft) := by
  rw [itemsLeft_running h]
  unfold chainStep
  dsimp only
  split
  · exact .inl ⟨undisturbed_readRecord _ _ s, itemsLeft_readRecord _ _ s⟩
  · split
    · rename_i hroom
      have hitems := items_lt_of_hasRoom hroom
      split
      · exact .inl ⟨undisturbed_answer _ _ _ _ s, (itemsLeft_answer _ _ _ _ s).trans (by omega)⟩
      · rename_i d hd
        rcases takeDirective_cases { c with rest := d.rest } d.more d.directive s with h1 | ⟨h1, hn⟩ | ⟨bulk, he, h1, hn⟩
        · exact .inl h1
        · exact .inr (.inl ⟨h1, fun hm => by have := hitems hm; dsimp only at hn; omega⟩)
        · exact .inr (.inr ⟨bulk, h1, hn (nextDirective_load hd he), fun hm => by have := hitems hm; omega⟩)
    · exact .inl ⟨undisturbed_endChain c s, by rw [itemsLeft_stopped (by simp)]; omega⟩

/-! ### Commands -/

/-- SERVICE directives keep the ring map and the settings. -/
theorem Serviced.ring_settings {n : Nat} {s t : State} (h : Serviced n s t) :
    t.table.ring = s.table.ring ∧ t.settings = s.settings := by
  induction h with
  | rest h => exact ⟨h.ring, h.settings⟩
  | service a c h _ _ ih =>
    refine ⟨ih.1.trans (Eq.trans ?_ h.ring), ih.2.trans (Eq.trans ?_ h.settings)⟩
    all_goals
      rcases service_taken a c _ with hs | hs
      · rw [hs]
      · obtain ⟨_, _, ht⟩ := hs.table
        first | rw [ht] | (unfold State.settings; rw [ht])

/-- What running a chain does: directives, as many as its reply has room for. -/
theorem runChain_directed (n : Nat) (s : State) :
    ∃ m, Directed m s (runChain n s) ∧ (s.settings.maxReply ≤ 1024 → m ≤ s.itemsLeft) := by
  induction n generalizing s with
  | zero => exact ⟨0, .of_undisturbed (.refl s), fun _ => Nat.zero_le _⟩
  | succ n ih =>
    by_cases hrun : ∃ c, s.mgmt.execution = .running c
    · obtain ⟨c, hc⟩ := hrun
      rw [runChain_running n hc]
      obtain ⟨m, hm, hle⟩ := ih (chainStep c s)
      rcases chainStep_cases hc with ⟨h, hl⟩ | ⟨h, hl⟩ | ⟨bulk, h, hidle, hl⟩
      · exact ⟨0 + m, hm.after (.rest h), fun hs => by have := hle (h.settings ▸ hs); omega⟩
      · exact ⟨1 + m, hm.after h, fun hs => by have := hle (h.ring_settings.2 ▸ hs); have := hl hs; omega⟩
      · rw [runChain_stopped n (by simp [hidle])]
        exact ⟨0 + 1, .load bulk (.rest (.refl s)) h, fun hs => by have := hl hs; omega⟩
    · rw [runChain_stopped _ (fun c hc => hrun ⟨c, hc⟩)]
      exact ⟨0, .of_undisturbed (.refl s), fun _ => Nat.zero_le _⟩

theorem runPaused_directed (pause : Option Nat) (s : State) :
    ∃ m, Directed m s (runPaused pause s) ∧ (s.settings.maxReply ≤ 1024 → m ≤ s.itemsLeft) := by
  unfold runPaused
  split
  · exact runChain_directed _ s
  · exact ⟨0, .of_undisturbed (.refl s), fun _ => Nat.zero_le _⟩

/-- With no chain in execution there is nothing to run. -/
theorem runPaused_stopped {s : State} (pause : Option Nat) (h : s.mgmt.execution = .idle) : runPaused pause s = s := by
  unfold runPaused; rw [h]

/-- A step of directives of which at most 254 may change the generation. -/
def DirectedStep (s t : State) : Prop := ∃ m, Directed m s t ∧ (s.settings.maxReply ≤ 1024 → m ≤ 254)

theorem DirectedStep.of_undisturbed {s t : State} (h : Undisturbed s t) : DirectedStep s t :=
  ⟨0, .of_undisturbed h, fun _ => by omega⟩

theorem DirectedStep.of_serviced {s t : State} (h : Serviced 1 s t) : DirectedStep s t :=
  ⟨1, .services h, fun _ => by omega⟩

theorem executeRequest_directed (pause : Option Nat) (s : State) : DirectedStep s (executeRequest pause s) := by
  unfold executeRequest
  split
  · exact .of_undisturbed (.refl s)
  · split
    · obtain ⟨m, hm, hle⟩ := runPaused_directed pause (startRequest s)
      have h : Undisturbed s (startRequest s) := .of_eq (by simp) (by simp) (by simp)
      exact ⟨0 + m, hm.after (.rest h), fun hs => by
        have := hle (h.settings ▸ hs); have := itemsLeft_le (startRequest s); omega⟩
    · obtain ⟨m, hm, hle⟩ := runPaused_directed pause s
      exact ⟨m, hm, fun hs => by have := hle hs; have := itemsLeft_le s; omega⟩
    · exact .of_undisturbed (.refl s)

/-- A directive taken, and what is left of its chain run on, when it has not ended it. -/
theorem takeDirective_directed (c : Chain) (more : Bool) (d : Directive) (s : State)
    (hmore : ∀ bulk, d = .load bulk → more = false) :
    DirectedStep s (takeDirective c more d s) ∧ DirectedStep s (runPaused none (takeDirective c more d s)) := by
  obtain ⟨m, hm, hle⟩ := runPaused_directed none (takeDirective c more d s)
  have hmax := itemsLeft_le (takeDirective c more d s)
  rcases takeDirective_cases c more d s with ⟨h, _⟩ | ⟨h, _⟩ | ⟨bulk, hd, h, hidle⟩
  · exact ⟨.of_undisturbed h, 0 + m, hm.after (.rest h), fun hs => by have := hle (h.settings ▸ hs); omega⟩
  · exact ⟨.of_serviced h, 1 + m, hm.after h, fun hs => by have := hle (h.ring_settings.2 ▸ hs); omega⟩
  · rw [runPaused_stopped none (hidle (hmore bulk hd))]
    exact and_self_iff.mpr ⟨0 + 1, .load bulk (.rest (.refl s)) h, fun _ => by omega⟩

theorem directive_directed (d : Directive) (s : State) : DirectedStep s (directive d s) := by
  unfold directive
  split
  · exact .of_undisturbed (.refl s)
  · split
    · exact (takeDirective_directed _ false d s (fun _ _ => rfl)).2
    · split
      · rename_i r _ hr
        split
        · rename_i h
          have ht := fun c' => takeDirective_directed c' r.more d s (fun bulk hd => nextDirective_load hr (h.1.trans hd))
          dsimp only
          split
          · exact (ht _).2
          · exact (ht _).1
        · exact .of_undisturbed (.refl s)
      · exact .of_undisturbed (.refl s)
    · exact .of_undisturbed (.refl s)

theorem heldServiceRelease_directed (s : State) : DirectedStep s (heldServiceRelease s) := by
  unfold heldServiceRelease
  split
  · split
    · exact .of_undisturbed (.refl s)
    · rcases takeService_serviced _ _ _ _ s with ⟨h, _⟩ | ⟨h, _⟩
      · exact .of_undisturbed h
      · exact .of_serviced h
  · exact .of_undisturbed (.refl s)

/-- What a command can do to the tables and the engine: a power reset, a build's start or end, the change of state of one tag
check, or else a step of directives. -/
inductive Answered (s : State) : Instr → State → Prop where
  | powerReset (strap : Byte) : Answered s (.powerReset strap) { State.powerOn strap with pending := s.pending }
  | buildStart : Answered s .buildStart (buildStart s)
  | buildEnd : Answered s .buildEnd (buildEnd s)
  | tagCheck (n : Fin 1024) : Answered s (.tagCheckStateChange n) (tagStateChange n s)
  | directed {c : Instr} {t : State} : DirectedStep s t → Answered s c t

theorem exec_answered {c : Instr} {s t : State} (h : exec c s = .next t) : Answered s c t := by
  have step : ∀ {u}, DirectedStep s u → exec c s = .next u → DirectedStep s t := fun hu e => by
    rw [e] at h; cases h; exact hu
  have quiet : ∀ {u}, Undisturbed s u → exec c s = .next u → DirectedStep s t := fun hu => step (.of_undisturbed hu)
  have still : ∀ {u : State}, u.table = s.table → u.plans = s.plans → u.engine = s.engine → exec c s = .next u →
    DirectedStep s t := fun ht hp he => quiet (.of_eq ht hp he)
  cases c with
  | powerReset strap => cases h; exact .powerReset strap
  | buildStart => cases h; exact .buildStart
  | buildEnd => cases h; exact .buildEnd
  | tagCheckStateChange n => cases h; exact .tagCheck n
  | bandFrame p b f => exact .directed (quiet (undisturbed_bandFrame p b f s) rfl)
  | bandEntryIntoLost p b =>
    refine .directed (quiet ?_ rfl)
    unfold bandEntryIntoLost
    split
    · exact undisturbed_bandFrame p b _ s
    · exact .refl s
  | bandEntryIntoAligned p b f =>
    refine .directed (quiet ?_ rfl)
    unfold bandEntryIntoAligned
    split
    · exact undisturbed_bandFrame p b f s
    · exact .refl s
  | degradeIntervalEnd p b f =>
    refine .directed (quiet ?_ rfl)
    unfold degradeIntervalEnd
    split
    · exact undisturbed_bandFrame p b f s
    · exact .refl s
  | holdOffExpiry p b => exact .directed (quiet (undisturbed_holdOffExpiry p b s) rfl)
  | returnTimerExpiry p b => exact .directed (quiet (undisturbed_returnTimerExpiry p b s) rfl)
  | bandFrameTransmit p => exact .directed (still (by simp) (by simp) (by simp) rfl)
  | tributaryFrame n f => exact .directed (still (by simp) (by simp) (by simp) rfl)
  | tributaryAlignmentChange n f => exact .directed (still (by simp) (by simp) (by simp) rfl)
  | tributaryFrameTransmit n => exact .directed (still (by simp) (by simp) (by simp) rfl)
  | switchFrameBoundary => exact .directed (quiet (undisturbed_frameBoundary s) rfl)
  | noticeTaken => exact .directed (quiet (undisturbed_takeNotice s) rfl)
  | stalenessExpiry q => exact .directed (quiet (undisturbed_stalenessExpiry q s) rfl)
  | refreshTimerExpiry => exact .directed (still (by simp) (by simp) (by simp) rfl)
  | gatherExpiry => exact .directed (quiet (undisturbed_gatherExpiry s) rfl)
  | passCompletion => exact .directed (quiet (undisturbed_passCompletion s) rfl)
  | listenExpiry => exact .directed (quiet (undisturbed_listenExpiry s) rfl)
  | managementFrameFromLine p bytes => exact .directed (still (by simp) (by simp) (by simp) rfl)
  | managementFrameFromTributary bytes => exact .directed (still (by simp) (by simp) (by simp) rfl)
  | executeRequest pause => exact .directed (step (executeRequest_directed pause s) rfl)
  | select table index => exact .directed (step (directive_directed _ s) rfl)
  | load bulk => exact .directed (step (directive_directed _ s) rfl)
  | read count => exact .directed (step (directive_directed _ s) rfl)
  | serviceIn n => exact .directed (step (directive_directed _ s) rfl)
  | serviceOut n => exact .directed (step (directive_directed _ s) rfl)
  | holdTimerExpiry =>
    refine .directed (quiet ?_ rfl)
    unfold holdTimerExpiry
    split
    · exact (undisturbed_answer _ _ _ _ _).after (.of_eq rfl rfl rfl)
    · exact .refl s
  | heldServiceRelease => exact .directed (step (heldServiceRelease_directed s) rfl)
  | operator side value => exact .directed (step (directive_directed _ s) rfl)
  | capture flag => exact .directed (step (directive_directed _ s) rfl)
  | restart => exact .directed (step (directive_directed _ s) rfl)
  | reportEmission => exact .directed (still (by simp) (by simp) (by simp) rfl)

end Sys2Proof.Machine
end

section
/-! PROOF. What every step keeps: the digest of its inputs (O9), current plans and builds (O11), the ring map and the orientation
while a circuit is in service (O15); and what a power reset gives (O3, O4). -/

namespace Sys2Proof.Machine

/-! ### The digest -/

theorem digestFresh_undisturbed {s t : State} (h : Undisturbed s t) (hs : s.digestFresh) : t.digestFresh := by
  refine ⟨?_, h.wf hs.2⟩
  rw [h.digestOf, ← hs.1, h.table]

theorem digestFresh_service {a : ServiceAction} {c : Nat} {s : State} (hs : s.digestFresh) :
    (service a c s).1.digestFresh := by
  rcases service_taken a c s with h | h
  · rw [h]; exact hs
  · exact ⟨h.digest, h.wf hs.2⟩

theorem digestFresh_storeSettings (g : Settings) {s : State} (hs : s.digestFresh) : (storeSettings g s).digestFresh := by
  refine digestFresh_undisturbed (undisturbed_storeSettings g s) ⟨?_, hs.2⟩
  show digestStored g s = digestOf (s.withSettings g).table
  unfold digestStored
  split
  · rename_i h
    rw [hs.1]
    exact (digestOf_congr (s := s.table) (t := (s.withSettings g).table) (fun _ _ => rfl) h rfl).symm
  · rfl

/-- A ring map that is evaluated leaves the digest of what it holds, once the digest was that of the entries before (R3). -/
theorem digestFresh_evaluateRing {before : Table Byte} {s : State}
    (hs : State.digestFresh { s with table := { s.table with ring := before } }) : (evaluateRing before s).digestFresh := by
  obtain ⟨hd, hwf⟩ := hs
  cases h : sameRing before s.table.ring with
  | true =>
    rw [evaluateRing_same h]
    refine ⟨?_, hwf⟩
    exact Eq.trans hd (digestOf_congr ((sameRing_iff _ _).mp h) rfl rfl)
  | false =>
    rw [evaluateRing_changed h]
    unfold State.digestFresh
    rw [(nodeAfterRing_tables s).1]
    exact ⟨rfl, hwf⟩

theorem digestFresh_doLoad (bulk : List Byte) {s : State} (hs : s.digestFresh) : (doLoad bulk s).state.digestFresh := by
  rcases doLoad_cases bulk s with h | h | h | h <;> rw [h]
  · exact hs
  · rcases loadSettings_cases bulk s with h | ⟨image, h, _⟩ <;> rw [h]
    · exact hs
    · exact digestFresh_storeSettings _ (s := advanceCursor s) hs
  · rcases loadRing_cases bulk s with h | ⟨_, ring, mgmt, h⟩ <;> rw [h]
    · exact hs
    · exact digestFresh_evaluateRing hs
  · obtain ⟨ht, hwf⟩ := loadCircuits_table bulk s
    obtain ⟨h1, h2⟩ := hwf hs.2
    refine ⟨?_, h1⟩
    rw [digestOf_congr (s := s.table) (fun _ _ => by rw [ht]) (by rw [ht]) h2, ← hs.1, ht]

theorem digestFresh_directed {n : Nat} {s t : State} (h : Directed n s t) (hs : s.digestFresh) : t.digestFresh := by
  have serviced : ∀ {n : Nat} {s t : State}, Serviced n s t → s.digestFresh → t.digestFresh := by
    intro n s t h
    induction h with
    | rest h => exact digestFresh_undisturbed h
    | service a c h _ _ ih => exact fun hs => ih (digestFresh_service (digestFresh_undisturbed h hs))
  cases h with
  | services h => exact serviced h hs
  | load bulk h hu => exact digestFresh_undisturbed hu (digestFresh_doLoad bulk (serviced h hs))

/-- A change of state of one tag check keeps the circuit table but for that check (R136). -/
theorem tagStateChange_table (c : Nat) (s : State) :
    (tagStateChange c s).table = { s.table with circuits := (tagStateChange c s).table.circuits } ∧
      (tableWf .absent s.table.circuits = true → tableWf .absent (tagStateChange c s).table.circuits = true ∧
        inServiceOf (tagStateChange c s).table.circuits = inServiceOf s.table.circuits) := by
  have same : s.table = { s.table with circuits := s.table.circuits } ∧
      (tableWf .absent s.table.circuits = true → tableWf .absent s.table.circuits = true ∧
        inServiceOf s.table.circuits = inServiceOf s.table.circuits) := ⟨rfl, fun h => ⟨h, rfl⟩⟩
  unfold tagStateChange
  split
  · rename_i f a r k hc
    dsimp only
    split
    · exact same
    · rw [(raise_frame _ _).2.2.2.2.2.2.2.1]
      dsimp only [State.setCircuit]
      refine ⟨rfl, fun h => ⟨tableWf_put _ _ h, inServiceOf_put h ?_⟩⟩
      rw [show look .absent s.table.circuits c = .inService f (some a) r (some k) from hc]
      rfl
  · exact same


/-- Settles O9: every step is undisturbing steps, SERVICE directives and a LOAD, and each of them leaves the digest that of its
inputs. -/
theorem stepsKeepTheDigestFresh : Obligations.StepsKeepTheDigestFresh := by
  intro s t hs h
  unfold step at h
  split at h
  · cases h; exact hs
  · rename_i c rest _
    cases exec_answered h with
    | powerReset strap => exact ⟨(by decide : (0 : Half) = digestOf (State.powerOn 0).table), rfl⟩
    | buildStart => exact ⟨by simpa using hs.1, by simpa using hs.2⟩
    | buildEnd => exact ⟨by simpa using hs.1, by simpa using hs.2⟩
    | tagCheck n =>
      obtain ⟨ht, hwf⟩ := tagStateChange_table n { s with pending := rest }
      obtain ⟨h1, h2⟩ := hwf hs.2
      refine ⟨?_, h1⟩
      rw [digestOf_congr (s := s.table) (fun _ _ => by rw [ht]) (by rw [ht]) h2, ← hs.1, ht]
    | directed h =>
      obtain ⟨m, hm, _⟩ := h
      exact digestFresh_directed hm hs


/-! ### Ring map and orientation -/

/-- A LOAD that leaves a circuit in service has changed neither the ring map nor the orientation (R2, R5). -/
theorem doLoad_ring_orientation (bulk : List Byte) (s : State) (h : (doLoad bulk s).state.anyInService = true) :
    (doLoad bulk s).state.table.ring = s.table.ring ∧
      (doLoad bulk s).state.settings.orientation = s.settings.orientation := by
  rcases doLoad_cases bulk s with e | e | e | e <;> rw [e] at h ⊢
  · exact ⟨rfl, rfl⟩
  · rcases loadSettings_cases bulk s with e | ⟨image, e, hin⟩ <;> rw [e] at h ⊢
    · exact ⟨rfl, rfl⟩
    · have hu := undisturbed_storeSettings (settingsImage image) (advanceCursor s)
      have hs : s.anyInService = true := hu.anyInService ▸ h
      refine ⟨hu.ring, ?_⟩
      rw [hu.settings]
      show (settingsImage image).orientation = _
      unfold orientationInUse at hin
      rw [hs, Bool.and_true] at hin
      simpa using hin
  · rcases loadRing_cases bulk s with e | ⟨hno, ring, mgmt, e⟩ <;> rw [e] at h ⊢
    · exact ⟨rfl, rfl⟩
    · exfalso
      rw [anyInService_congr (s := s) ?_, hno] at h
      · cases h
      · cases hsame : sameRing s.table.ring ring with
        | true => rw [evaluateRing_same hsame]
        | false => rw [evaluateRing_changed hsame, (nodeAfterRing_tables _).1]
  · obtain ⟨ht, _⟩ := loadCircuits_table bulk s
    unfold State.settings
    rw [ht]
    exact ⟨rfl, rfl⟩

theorem ring_orientation_directed {n : Nat} {s t : State} (h : Directed n s t) (ht : t.anyInService = true) :
    t.table.ring = s.table.ring ∧ t.settings.orientation = s.settings.orientation := by
  cases h with
  | services h => exact ⟨h.ring_settings.1, by rw [h.ring_settings.2]⟩
  | load bulk h hu =>
    obtain ⟨h1, h2⟩ := doLoad_ring_orientation bulk _ (hu.anyInService ▸ ht)
    obtain ⟨h3, h4⟩ := h.ring_settings
    exact ⟨hu.ring.trans (h1.trans h3), by rw [hu.settings, h2, h4]⟩


/-- Settles O15: of what a command can do to the tables only a LOAD writes the ring map or the orientation, it is refused with a
circuit in service, and it ends its chain. -/
theorem ringAndOrientationStayWhileInService : Obligations.RingAndOrientationStayWhileInService := by
  intro c s t hc h hany
  cases exec_answered h with
  | powerReset strap => exact absurd rfl (hc strap)
  | buildStart => exact ⟨by simp, by simp [State.settings]⟩
  | buildEnd => exact ⟨by simp, by simp [State.settings]⟩
  | tagCheck n =>
    unfold State.settings
    rw [(tagStateChange_table n s).1]
    exact ⟨rfl, rfl⟩
  | directed h =>
    obtain ⟨m, hm, _⟩ := h
    exact ring_orientation_directed hm hany

end Sys2Proof.Machine
end

section
/-! PROOF. Plans and builds over a step (O11): plans are withdrawn whenever the generation moves on, and a step moves it on fewer than
256 times. -/

namespace Sys2Proof.Machine

/-- From `s` to `t` the generation has moved on at most `n` times, plans have at most become STALE or ABSENT, and no build has
begun. Unless the generation has moved on, what a build reads has stayed; if it has, no plan is left VALID. -/
structure Withdrawn (n : Nat) (s t : State) : Prop where
  wf : tableWf .absent s.table.circuits = true → tableWf .absent t.table.circuits = true
  plan : ∀ k, t.plan k = s.plan k ∨ t.plan k = .stale ∨ t.plan k = .absent
  build : ∀ k i, t.engine.state = .build k i → s.engine.state = .build k i ∧ t.ringSize = s.ringSize
  generation : ∃ m, m ≤ n ∧ t.table.generation = s.table.generation + BitVec.ofNat 32 m ∧
    (m = 0 → t.ringSize = s.ringSize ∧
      (tableWf .absent s.table.circuits = true → ∀ k, buildInputs k t = buildInputs k s)) ∧
    (m ≠ 0 → s.plansCurrent → ∀ k, (t.plan k).isValid = false)

namespace Withdrawn

theorem of_undisturbed {s t : State} (h : Undisturbed s t) : Withdrawn 0 s t where
  wf := h.wf
  plan := fun k => (h.plan k).imp id .inl
  build := fun k i hb => ⟨h.build k i hb, h.ringSize⟩
  generation := ⟨0, le_rfl, by rw [h.table]; simp, fun _ => ⟨h.ringSize, fun _ => h.buildInputs⟩, fun h => absurd rfl h⟩

/-- A plan that is VALID after was so before. -/
theorem plan_valid {n : Nat} {s t : State} (h : Withdrawn n s t) {k : Nat} {g : Word} {l : List Grant} {o : List Outcome}
    (hp : t.plan k = .valid g l o) : s.plan k = .valid g l o := by
  rcases h.plan k with e | e | e <;> rw [e] at hp
  · exact hp
  · cases hp
  · cases hp

theorem plan_building {n : Nat} {s t : State} (h : Withdrawn n s t) {k : Nat} {g : Word} (hp : t.plan k = .building g) :
    s.plan k = .building g := by
  rcases h.plan k with e | e | e <;> rw [e] at hp
  · exact hp
  · cases hp
  · cases hp

/-- A VALID plan after the step says that the generation has not moved on, and that what a build reads has stayed. -/
theorem unmoved {n : Nat} {s t : State} (h : Withdrawn n s t) (hs : s.plansCurrent) {k : Nat} {g : Word} {l : List Grant}
    {o : List Outcome} (hp : t.plan k = .valid g l o) :
    t.table.generation = s.table.generation ∧ t.ringSize = s.ringSize ∧
      (tableWf .absent s.table.circuits = true → ∀ k, buildInputs k t = buildInputs k s) := by
  obtain ⟨m, _, hg, hsame, hno⟩ := h.generation
  by_cases hm : m = 0
  · obtain ⟨h1, h2⟩ := hsame hm
    exact ⟨by rw [hg, hm]; simp, h1, h2⟩
  · have := hno hm hs k
    rw [hp] at this
    cases this

theorem plansCurrent {n : Nat} {s t : State} (h : Withdrawn n s t) (hs : s.plansCurrent) : t.plansCurrent := by
  refine ⟨fun k g l o hp => ?_, fun k i hb => ?_⟩
  · obtain ⟨h1, h2, _⟩ := h.unmoved hs hp
    rw [h1, h2]
    exact hs.1 k g l o (h.plan_valid hp)
  · obtain ⟨h1, h2⟩ := h.build k i hb
    rw [h2]
    exact hs.2 k i h1

theorem plansComputed {n : Nat} {s t : State} (h : Withdrawn n s t) (hwf : tableWf .absent s.table.circuits = true)
    (hc : s.plansCurrent) (hs : s.plansComputed) : t.plansComputed := by
  intro k g l o hp
  rw [(h.unmoved hc hp).2.2 hwf k]
  exact hs k g l o (h.plan_valid hp)

/-- A build goes on to be current unless the generation may have come round to its own (R21). -/
theorem buildCurrent {n : Nat} {s t : State} (h : Withdrawn n s t) (hwf : tableWf .absent s.table.circuits = true)
    (hs : s.buildCurrent)
    (hn : ∀ k i g, s.engine.state = .build k i → s.plan k = .building g →
      (s.table.generation - g).toNat + n < 4294967296) : t.buildCurrent := by
  intro k i g hb hp hg
  obtain ⟨m, hm, hgen, hsame, _⟩ := h.generation
  have hb' := (h.build k i hb).1
  have hp' := h.plan_building hp
  have hround := hn k i g hb' hp'
  have hm0 : m = 0 := by
    rw [hg, hgen] at hround
    bv_omega
  rw [(hsame hm0).2 hwf k]
  refine hs k i g hb' hp' ?_
  rw [hg, hgen, hm0]
  simp

theorem trans {m n : Nat} {s t u : State} (h : Withdrawn m s t) (g : Withdrawn n t u) : Withdrawn (m + n) s u where
  wf := fun hs => g.wf (h.wf hs)
  plan := fun k => by
    rcases g.plan k with e | e
    · rw [e]; exact h.plan k
    · exact .inr e
  build := fun k i hb => by
    obtain ⟨h1, h2⟩ := g.build k i hb
    obtain ⟨h3, h4⟩ := h.build k i h1
    exact ⟨h3, h2.trans h4⟩
  generation := by
    obtain ⟨a, ha, hga, hsa, hna⟩ := h.generation
    obtain ⟨b, hb, hgb, hsb, hnb⟩ := g.generation
    refine ⟨a + b, by omega, by rw [hgb, hga, BitVec.ofNat_add, BitVec.add_assoc], fun h0 => ?_, fun h0 hs k => ?_⟩
    · obtain ⟨h1, h2⟩ := hsa (by omega)
      obtain ⟨h3, h4⟩ := hsb (by omega)
      exact ⟨h3.trans h1, fun hwf k => (h4 (h.wf hwf) k).trans (h2 hwf k)⟩
    · by_cases hb0 : b = 0
      · have := hna (by omega) hs k
        rcases g.plan k with e | e | e <;> rw [e]
        · exact this
        · rfl
        · rfl
      · exact hnb hb0 (h.plansCurrent hs) k

theorem mono {m n : Nat} {s t : State} (h : Withdrawn m s t) (hmn : m ≤ n) : Withdrawn n s t where
  wf := h.wf
  plan := h.plan
  build := h.build
  generation := by
    obtain ⟨a, ha, hr⟩ := h.generation
    exact ⟨a, ha.trans hmn, hr⟩

end Withdrawn

/-- A SERVICE directive moves the generation on at most once, and then leaves no plan VALID (R18, R19, R113). -/
theorem withdrawn_service (a : ServiceAction) (c : Nat) (s : State) : Withdrawn 1 s (service a c s).1 := by
  rcases service_taken a c s with h | h
  · rw [h]; exact (Withdrawn.of_undisturbed (.refl s)).mono (by omega)
  · obtain ⟨circuits, occupancy, ht⟩ := h.table
    have hring : (service a c s).1.ringSize = s.ringSize := by unfold State.ringSize; rw [ht]
    refine ⟨h.wf, fun k => (h.plan k).imp id .inl, fun k i hb => ⟨h.build k i hb, hring⟩,
      1, le_rfl, by rw [ht]; rfl, fun h => absurd h (by omega), fun _ hs k => ?_⟩
    by_cases hk : k < s.ringSize
    · exact h.invalid k hk
    · have hnot : (s.plan k).isValid = false := by
        cases hp : s.plan k with
        | valid g l o => exact absurd (hs.1 k g l o hp).2 hk
        | _ => rfl
      rcases h.plan k with e | e <;> rw [e]
      · exact hnot
      · rfl

/-- A step that keeps the generation, the ring size, the plans and the engine, and for a circuit table in canonical form what a
build reads. -/
theorem withdrawn_of_kept {s t : State} (hr : t.ringSize = s.ringSize) (hg : t.table.generation = s.table.generation)
    (ho : t.table.occupancy = s.table.occupancy)
    (hc : tableWf .absent s.table.circuits = true → tableWf .absent t.table.circuits = true ∧
      inServiceOf t.table.circuits = inServiceOf s.table.circuits)
    (hp : ∀ k, t.plan k = s.plan k ∨ t.plan k = .stale) (hb : ∀ k i, t.engine.state = .build k i → s.engine.state = .build k i) :
    Withdrawn 0 s t where
  wf := fun hs => (hc hs).1
  plan := fun k => (hp k).imp id .inl
  build := fun k i h => ⟨hb k i h, hr⟩
  generation := by
    refine ⟨0, le_rfl, by rw [hg]; simp, fun _ => ⟨hr, fun hs k => ?_⟩, fun h => absurd rfl h⟩
    unfold buildInputs inServiceFields
    rw [hr, (hc hs).2, ho]

/-- Evaluating a ring map moves the generation on when the map has changed, and then leaves no plan VALID and no build
(R3, R94, R112). -/
theorem withdrawn_evaluateRing (s : State) (ring : Table Byte) (mgmt : Management) :
    Withdrawn 1 s (evaluateRing s.table.ring { s with table := { s.table with ring := ring }, mgmt := mgmt }) := by
  cases h : sameRing s.table.ring ring with
  | true =>
    rw [evaluateRing_same h]
    exact (withdrawn_of_kept (s := s) (t := { s with table := { s.table with ring := ring }, mgmt := mgmt })
      (ringSizeOf_congr ((sameRing_iff _ _).mp h)).symm rfl rfl (fun h => ⟨h, rfl⟩)
      (fun _ => .inl rfl) (fun _ _ h => h)).mono (by omega)
  | false =>
    rw [evaluateRing_changed h]
    obtain ⟨ht, he, _⟩ := nodeAfterRing_tables { s with table := { s.table with ring := ring }, mgmt := mgmt }
    have hplan := fun k => ite_eq_or_eq (k < spansOfRing ring s.node.strap) Plan.stale Plan.absent
    simp only [← plan_nodeAfterRing { s with table := { s.table with ring := ring }, mgmt := mgmt }] at hplan
    refine ⟨by rw [ht]; exact id, fun k => .inr (hplan k), fun k i hb => ?_, 1, le_rfl, by rw [ht]; rfl,
      fun h => absurd h (by omega), fun _ _ k => ?_⟩
    · rw [he] at hb; cases hb
    · rcases hplan k with e | e <;> rw [e] <;> rfl

theorem withdrawn_doLoad (bulk : List Byte) (s : State) : Withdrawn 1 s (doLoad bulk s).state := by
  have same : Withdrawn 1 s s := (Withdrawn.of_undisturbed (.refl s)).mono (by omega)
  rcases doLoad_cases bulk s with e | e | e | e <;> rw [e]
  · exact same
  · rcases loadSettings_cases bulk s with e | ⟨image, e, _⟩ <;> rw [e]
    · exact same
    · have hu := undisturbed_storeSettings (settingsImage image) (advanceCursor s)
      exact (withdrawn_of_kept (s := s) hu.ringSize (by rw [hu.table]; rfl) (by rw [hu.table]; rfl)
        (fun h => ⟨hu.wf h, hu.service⟩) hu.plan hu.build).mono (by omega)
  · rcases loadRing_cases bulk s with e | ⟨_, ring, mgmt, e⟩ <;> rw [e]
    · exact same
    · exact withdrawn_evaluateRing s ring mgmt
  · obtain ⟨ht, hc⟩ := loadCircuits_table bulk s
    exact (withdrawn_of_kept (by unfold State.ringSize; rw [ht]) (by rw [ht]) (by rw [ht]) hc
      (fun k => .inl (by unfold State.plan; simp)) (fun k i h => by simpa using h)).mono (by omega)

theorem withdrawn_directed {n : Nat} {s t : State} (h : Directed n s t) : Withdrawn n s t := by
  have serviced : ∀ {n : Nat} {s t : State}, Serviced n s t → Withdrawn n s t := by
    intro n s t h
    induction h with
    | rest h => exact .of_undisturbed h
    | @service n _ _ _ a c h _ _ ih =>
      exact (((Withdrawn.of_undisturbed h).trans (withdrawn_service a c _)).trans ih).mono (by omega)
  cases h with
  | services h => exact serviced h
  | load bulk h hu => exact ((serviced h).trans (withdrawn_doLoad bulk _)).trans (.of_undisturbed hu)

/-! ### The reply's size -/

theorem maxReply_settingsImage (l : List Byte) : (settingsImage l).maxReply ≤ 1024 := by
  simp only [settingsImage, clamp]
  omega

/-- No step of directives lets the maximum reply size exceed 1,024 bytes (R166). -/
theorem maxReply_directed {n : Nat} {s t : State} (h : Directed n s t) (hs : s.settings.maxReply ≤ 1024) :
    t.settings.maxReply ≤ 1024 := by
  cases h with
  | services h => rw [h.ring_settings.2]; exact hs
  | @load _ _ u _ bulk h hu =>
    have hu' : u.settings.maxReply ≤ 1024 := by rw [h.ring_settings.2]; exact hs
    rw [hu.settings]
    rcases doLoad_cases bulk u with e | e | e | e <;> rw [e]
    · exact hu'
    · rcases loadSettings_cases bulk u with e | ⟨image, e, _⟩ <;> rw [e]
      · exact hu'
      · rw [(undisturbed_storeSettings _ _).settings]
        exact maxReply_settingsImage image
    · rcases loadRing_cases bulk u with e | ⟨_, ring, mgmt, e⟩ <;> rw [e]
      · exact hu'
      · cases h : sameRing u.table.ring ring with
        | true => rw [evaluateRing_same h]; exact hu'
        | false =>
          rw [evaluateRing_changed h]
          unfold State.settings
          rw [(nodeAfterRing_tables _).1]
          exact hu'
    · unfold State.settings
      rw [(loadCircuits_table bulk u).1]
      exact hu'

/-! ### Builds -/

/-- What the start of a build does: nothing, or the lowest STALE plan is built, from the tables as they stand (R114, R115). -/
theorem buildStart_cases (s : State) :
    buildStart s = s ∨ ∃ k, k < s.ringSize ∧ buildStart s =
      setEngine (.build k (buildInputs k s)) (s.setPlan k (.building s.table.generation)) := by
  unfold buildStart
  split
  · rename_i k _ _ hk
    exact .inr ⟨k, List.mem_range.mp (List.mem_of_find?_eq_some hk), rfl⟩
  · exact .inl rfl

/-- What the end of a build does: nothing, or the engine is IDLE and the plan is what the build has made it (R116). -/
theorem buildEnd_cases (s : State) :
    buildEnd s = s ∨ ∃ k i, s.engine.state = .build k i ∧ (buildEnd s).engine.state = .idle ∧
      ∀ j, (buildEnd s).plan j =
        if j = k then builtPlan s.table.generation (computePass i) (s.plan k) else s.plan j := by
  unfold buildEnd
  split
  · rename_i k i he
    refine .inr ⟨k, i, he, ?_, fun j => ?_⟩
    · dsimp only; split <;> simp [setEngine]
    · rw [← plan_setPlan]
      dsimp only
      unfold State.plan
      split <;> simp
  · exact .inl rfl

/-- A plan is VALID at its build's end when the build is of the current generation, with the lists of the build (R116). -/
theorem builtPlan_eq_valid {generation g : Word} {r : PassResult} {p : Plan} {l : List Grant} {o : List Outcome}
    (h : builtPlan generation r p = .valid g l o) :
    p = .building generation ∧ g = generation ∧ l = r.grants ∧ o = r.outcomes := by
  unfold builtPlan at h
  split at h
  · split at h
    · cases h; subst_vars; exact ⟨rfl, rfl, rfl, rfl⟩
    · cases h
  · cases h

/-- What a build reads stays while the circuit table does. -/
theorem buildInputs_of_table {s t : State} (h : t.table = s.table) (k : Nat) : buildInputs k t = buildInputs k s :=
  buildInputs_congr k (by rw [h]) (by rw [h]) (by rw [h])

theorem plansCurrent_buildStart {s : State} (hs : s.plansCurrent) : (buildStart s).plansCurrent := by
  rcases buildStart_cases s with h | ⟨k, hk, h⟩ <;> rw [h]
  · exact hs
  · refine ⟨fun j g l o hp => ?_, fun j i hb => ?_⟩
    · have hp' : (s.setPlan k (.building s.table.generation)).plan j = .valid g l o := hp
      rw [plan_setPlan] at hp'
      split at hp'
      · cases hp'
      · exact hs.1 j g l o hp'
    · cases hb; exact hk

theorem plansCurrent_buildEnd {s : State} (hs : s.plansCurrent) : (buildEnd s).plansCurrent := by
  rcases buildEnd_cases s with h | ⟨k, i, he, hi, hp⟩
  · rw [h]; exact hs
  · have hr : (buildEnd s).ringSize = s.ringSize := by unfold State.ringSize; simp
    refine ⟨fun j g l o hv => ?_, fun j i hb => by rw [hi] at hb; cases hb⟩
    rw [hr, show (buildEnd s).table = s.table by simp]
    rw [hp] at hv
    split at hv
    · subst_vars
      exact ⟨(builtPlan_eq_valid hv).2.1, hs.2 _ i he⟩
    · exact hs.1 j g l o hv

theorem plansComputed_buildStart {s : State} (hs : s.plansComputed) : (buildStart s).plansComputed := by
  intro j g l o hp
  rw [buildInputs_of_table (s := s) (by simp) j]
  rcases buildStart_cases s with h | ⟨k, _, h⟩ <;> rw [h] at hp
  · exact hs j g l o hp
  · have hp' : (s.setPlan k (.building s.table.generation)).plan j = .valid g l o := hp
    rw [plan_setPlan] at hp'
    split at hp'
    · cases hp'
    · exact hs j g l o hp'

/-- A build that ends current makes its plan VALID with the lists that a build from the tables as they stand gives. -/
theorem plansComputed_buildEnd {s : State} (hb : s.buildCurrent) (hs : s.plansComputed) : (buildEnd s).plansComputed := by
  intro j g l o hv
  rw [buildInputs_of_table (s := s) (by simp) j]
  rcases buildEnd_cases s with h | ⟨k, i, he, _, hp⟩
  · rw [h] at hv; exact hs j g l o hv
  · rw [hp] at hv
    split at hv
    · subst_vars
      obtain ⟨h1, h2, h3, h4⟩ := builtPlan_eq_valid hv
      rw [← hb _ i _ he h1 rfl]
      exact ⟨h3, h4⟩
    · exact hs j g l o hv

theorem buildCurrent_buildStart {s : State} (hs : s.buildCurrent) : (buildStart s).buildCurrent := by
  rcases buildStart_cases s with h | ⟨k, _, h⟩ <;> rw [h]
  · exact hs
  · intro j i g hb _ _
    cases hb
    exact (buildInputs_of_table rfl k).symm

theorem buildCurrent_buildEnd {s : State} (hs : s.buildCurrent) : (buildEnd s).buildCurrent := by
  rcases buildEnd_cases s with h | ⟨k, i, _, hi, _⟩
  · rw [h]; exact hs
  · intro j i' g hb
    rw [hi] at hb
    cases hb

/-- A tag check's change of state leaves plans, builds and what they read. -/
theorem withdrawn_tagStateChange (n : Nat) (s : State) : Withdrawn 0 s (tagStateChange n s) := by
  obtain ⟨ht, hc⟩ := tagStateChange_table n s
  exact withdrawn_of_kept (by unfold State.ringSize; rw [ht]) (by rw [ht]) (by rw [ht]) hc
    (fun k => .inl (by unfold State.plan; simp)) (fun k i h => by simpa using h)

/-- A step withdraws plans, or is the start or the end of a build, or a power reset. -/
theorem step_withdrawn {s t : State} (h : step s = .next t) :
    (t.plans = [] ∧ t.engine.state = .idle ∧ t.settings = .default) ∨
      (∃ u : State, u = { s with pending := u.pending } ∧ (t = buildStart u ∨ t = buildEnd u)) ∨
      ∃ n, Withdrawn n s t ∧ (s.settings.maxReply ≤ 1024 → n ≤ 256 ∧ t.settings.maxReply ≤ 1024) := by
  unfold step at h
  split at h
  · cases h
    exact .inr (.inr ⟨0, .of_undisturbed (.refl s), fun hm => ⟨by omega, hm⟩⟩)
  · rename_i c rest _
    have hpop : Undisturbed s { s with pending := rest } := .of_eq rfl rfl rfl
    cases exec_answered h with
    | powerReset strap => exact .inl ⟨rfl, rfl, rfl⟩
    | buildStart => exact .inr (.inl ⟨{ s with pending := rest }, rfl, .inl rfl⟩)
    | buildEnd => exact .inr (.inl ⟨{ s with pending := rest }, rfl, .inr rfl⟩)
    | tagCheck n =>
      refine .inr (.inr ⟨0 + 0, (Withdrawn.of_undisturbed hpop).trans (withdrawn_tagStateChange n _), fun hm => ⟨by omega, ?_⟩⟩)
      unfold State.settings
      rw [(tagStateChange_table n _).1]
      exact hm
    | directed h =>
      obtain ⟨m, hm, hle⟩ := h
      refine .inr (.inr ⟨0 + m, (Withdrawn.of_undisturbed hpop).trans (withdrawn_directed hm), fun hs => ⟨?_, ?_⟩⟩)
      · have := hle hs; omega
      · exact maxReply_directed hm hs

/-- Settles O11: a step withdraws plans as often as it moves the generation on, which is fewer than 256 times, or starts or ends a
build, whose inputs are then those of the tables as they stand. -/
theorem stepsKeepPlansCurrent : Obligations.StepsKeepPlansCurrent := by
  refine ⟨fun s t hs h => ?_, fun s t hwf hc hb h => ?_⟩
  · rcases step_withdrawn h with ⟨hp, he, _⟩ | ⟨u, hu, rfl | rfl⟩ | ⟨n, hn, _⟩
    · refine ⟨fun k g l o hv => ?_, fun k i hb => by rw [he] at hb; cases hb⟩
      unfold State.plan at hv
      rw [hp] at hv
      cases hv
    · rw [hu]; exact plansCurrent_buildStart hs
    · rw [hu]; exact plansCurrent_buildEnd hs
    · exact hn.plansCurrent hs
  · have hcir : tableWf .absent s.table.circuits = true := by
      unfold State.tablesWf at hwf
      simp only [Bool.and_eq_true] at hwf
      tauto
    rcases step_withdrawn h with ⟨hp, he, hd⟩ | ⟨u, hu, rfl | rfl⟩ | ⟨n, hn, hmax⟩
    · refine ⟨fun _ k g l o hv => ?_, fun _ => ⟨by rw [hd]; decide, fun _ k i g hb => by rw [he] at hb; cases hb⟩⟩
      unfold State.plan at hv
      rw [hp] at hv
      cases hv
    · rw [hu]
      exact ⟨plansComputed_buildStart (s := { s with pending := u.pending }),
        fun hm => ⟨by simpa [State.settings] using hm, fun _ => buildCurrent_buildStart hb⟩⟩
    · rw [hu]
      exact ⟨plansComputed_buildEnd (s := { s with pending := u.pending }) hb,
        fun hm => ⟨by simpa [State.settings] using hm, fun _ => buildCurrent_buildEnd hb⟩⟩
    · refine ⟨hn.plansComputed hcir hc, fun hm => ?_⟩
      obtain ⟨h256, ht⟩ := hmax hm
      refine ⟨ht, fun hround => hn.buildCurrent hcir hb (fun k i g h1 h2 => ?_)⟩
      have := hround k i g h1 h2
      omega

end Sys2Proof.Machine
end

section
/-! PROOF. Power reset (O3, O4): the values it gives, and the conditions that hold right after it. -/

namespace Sys2Proof.Machine

/-- An empty ring map places no node (R1). -/
theorem ownPositionOf_nil (strap : Byte) : ownPositionOf [] strap = none := by
  unfold ownPositionOf
  split
  · rfl
  · exact if_neg (by simp [ringValidOf, show ringSizeOf [] = 0 by decide])

theorem position_powerOn (strap : Byte) : (State.powerOn strap).position = none := ownPositionOf_nil strap

/-- After power reset the node is UNADDRESSED or UNPLACED (R144). -/
theorem runs_powerOn (strap : Byte) : (State.powerOn strap).node.state.runs = false := by
  show (NodeState.reset strap).runs = false
  unfold NodeState.reset
  split <;> rfl

/-- The transparent target connects each line port's slots to the other's, and fills the tributary outputs (R129). -/
theorem look_transparentMap : ∀ i, i < 64 →
    look Connection.fill transparentMap i = { source := .lineIn .west i, circuit := none } ∧
      look Connection.fill transparentMap (64 + i) = { source := .lineIn .east i, circuit := none } ∧
      look Connection.fill transparentMap (128 + i) = .fill := by
  decide +kernel

theorem band_powerOn (strap : Byte) (p : Side) (b : Nat) : (State.powerOn strap).band p b = .reset := by
  cases p
  all_goals
    match b with
    | 0 | 1 | 2 | _ + 3 => rfl

theorem trib_powerOn (strap : Byte) (u : Nat) : (State.powerOn strap).trib u = .reset := by
  match u with
  | 0 | 1 | 2 | _ + 3 => rfl

/-- Settles O3: each block's values are those of `State.powerOn`. -/
theorem powerResetValues : Obligations.PowerResetValues := by
  intro strap s
  refine ⟨{ State.powerOn strap with pending := s.pending }, rfl, rfl, rfl, fun _ => rfl,
    (by decide : ringSizeOf [] = 0), position_powerOn strap, rfl, fun _ => rfl, fun _ => rfl, rfl, rfl, fun p b => ?_, fun p => by cases p <;> rfl,
    fun u => ?_, fun _ => rfl, fun p => by cases p <;> rfl, fun _ => rfl, fun p => by cases p <;> rfl, rfl, rfl, rfl, rfl,
    rfl, fun _ => rfl, look_transparentMap, rfl, fun q => ?_, rfl, rfl, rfl, rfl, rfl, fun _ => rfl, fun _ => rfl⟩
  · have hb : State.band { State.powerOn strap with pending := s.pending } p b = .reset := band_powerOn strap p b
    rw [hb]
    exact ⟨rfl, rfl, rfl⟩
  · have hu : State.trib { State.powerOn strap with pending := s.pending } u = .reset := trib_powerOn strap u
    rw [hu]
    exact ⟨rfl, rfl⟩
  · rcases q with (_ | _) | _ <;> exact ⟨rfl, rfl⟩

/-- Settles O4: after power reset the tables are empty but for the transparent target, and the node is not placed. -/
theorem powerResetMeetsTheInvariants : Obligations.PowerResetMeetsTheInvariants := by
  refine ⟨rfl, fun strap => ?_⟩
  have hpos := position_powerOn strap
  have hruns := runs_powerOn strap
  refine ⟨?tables, ?queues, ⟨?subjects, ?notices⟩, ?map, ⟨?digest, rfl⟩, ?convergence, ⟨?plans, ?builds⟩, ?computed, ?current,
    (by decide : 256 ≤ 1024), ⟨?runs, ?idle, ?engine⟩, ?pass, ?views, ?records, ?ends⟩
  case tables => exact (by decide +kernel : (State.powerOn 0).tablesWf = true)
  case queues => exact (by decide : (State.powerOn 0).queuesBounded = true)
  case subjects => exact List.nodup_nil
  case notices => intro p; cases p <;> exact List.nodup_nil
  case map =>
    unfold State.mapDerived spansOfRing
    rw [show ownPositionOf (State.powerOn strap).table.ring (State.powerOn strap).node.strap = none from hpos]
    rfl
  case digest => exact (by decide : (0 : Half) = digestOf (State.powerOn 0).table)
  case convergence =>
    unfold State.convergenceFresh convergenceOf
    rw [hruns]
    rfl
  case plans => intro k g l o h; cases h
  case builds => intro k i h; cases h
  case computed => intro k g l o h; cases h
  case current => intro k i g h; cases h
  case runs => rw [hruns, State.placed, hpos]; rfl
  case idle => exact fun _ => ⟨rfl, rfl⟩
  case engine => exact fun _ => ⟨nofun, nofun⟩
  case pass => intro i h; cases h
  case views => intro p; cases p <;> rfl
  case records => exact fun q _ => rfl
  case ends => intro own h; rw [hpos] at h; cases h

end Sys2Proof.Machine
end

section
/-! PROOF. A directive taken by itself, and the images of a LOAD (R160, R161, R165). -/

namespace Sys2Proof.Machine

/-! ### A directive taken by itself -/

@[simp] theorem answeredWith_answeredWith (s : State) (c d : ResultCode) (m n : Nat) (k l : List Byte) :
    (s.answeredWith c m k).answeredWith d n l = s.answeredWith d n l := rfl

@[simp] theorem answeredWith_frame (s : State) (c : ResultCode) (n : Nat) (l : List Byte) :
    (s.answeredWith c n l).pending = s.pending ∧ (s.answeredWith c n l).now = s.now ∧ (s.answeredWith c n l).node = s.node ∧
      (s.answeredWith c n l).ports = s.ports ∧ (s.answeredWith c n l).tribs = s.tribs ∧ (s.answeredWith c n l).map = s.map ∧
      (s.answeredWith c n l).notices = s.notices ∧ (s.answeredWith c n l).table = s.table ∧
      (s.answeredWith c n l).engine = s.engine ∧ (s.answeredWith c n l).plans = s.plans ∧
      (s.answeredWith c n l).switch = s.switch ∧ (s.answeredWith c n l).reports = s.reports ∧
      (s.answeredWith c n l).counters = s.counters := ⟨rfl, rfl, rfl, rfl, rfl, rfl, rfl, rfl, rfl, rfl, rfl, rfl, rfl⟩

theorem answeredWith_table (s : State) (c : ResultCode) (n : Nat) (l : List Byte) : (s.answeredWith c n l).table = s.table := rfl

/-- The answer to a directive taken by itself (log 16). -/
theorem answer_alone (code : ResultCode) (count : Nat) (s : State) :
    answer (Chain.start none []) false code count s = s.answeredWith code count [] := by
  rw [answer_eq]
  unfold State.chainAnswered
  rw [if_neg (by simp)]
  rfl

/-- A directive that the IDLE unit takes by itself is run to its end (log 16). -/
theorem directive_alone {s : State} (h : s.canTake) (d : Directive) :
    directive d s = runPaused none (takeDirective (Chain.start none []) false d s) := by
  obtain ⟨hn, he⟩ := h
  unfold directive
  rw [if_neg hn, he]

/-- A directive that its block answers at once ends its chain of one. -/
theorem directive_answered {s t : State} (h : s.canTake) {d : Directive} {code : ResultCode} {count : Nat}
    (ht : takeDirective (Chain.start none []) false d s = answer (Chain.start none []) false code count t) :
    directive d s = t.answeredWith code count [] := by
  rw [directive_alone h, ht, answer_alone]
  exact runPaused_stopped none rfl

/-- A LOAD taken by itself (R165). -/
theorem exec_load {s : State} (h : s.canTake) (bulk : List Byte) :
    exec (.load bulk) s =
      .next ((doLoad bulk s).state.answeredWith (doLoad bulk s).code (doLoad bulk s).count []) :=
  congrArg Host.Outcome.next (directive_answered h rfl)

/-- A SERVICE directive taken by itself with the lock FREE (R14, R168). -/
theorem directive_service {s : State} (h : s.canTake) (hl : s.lockHeld = false) {c action : Nat} {a : ServiceAction}
    (ha : actionOf action = some a) (hc : c < 1024) :
    directive (.service c action) s = (service a c s).1.answeredWith (service a c s).2 0 [] := by
  refine directive_answered h ?_
  unfold takeDirective takeService
  dsimp only
  rw [if_neg (by simpa [Config.circuitMax] using hc), ha]
  dsimp only
  rw [if_neg (by simp [hl])]

/-- A SERVICE directive on a circuit above 1023 is refused with RANGE at once (R14). -/
theorem directive_service_range {s : State} (h : s.canTake) {c : Nat} (action : Nat) (hc : 1024 ≤ c) :
    directive (.service c action) s = s.answeredWith .range 0 [] := by
  refine directive_answered h ?_
  unfold takeDirective
  dsimp only
  rw [if_pos (by simpa [Config.circuitMax] using hc)]

/-! ### Images -/

/-- More fuel than bytes gives no more images. -/
theorem images_fuel {size : Nat} (hs : 0 < size) (fuel : Nat) (l : List Byte) (h : l.length ≤ fuel) :
    images size fuel l = imagesOf size l := by
  unfold imagesOf
  induction fuel using Nat.strong_induction_on generalizing l with
  | _ fuel ih =>
    cases fuel with
    | zero => rw [Nat.le_zero.mp h]
    | succ n =>
      cases hl : l.length with
      | zero => simp [images, hl, hs]
      | succ m =>
        unfold images
        split
        · rfl
        · have h1 : (l.drop size).length ≤ n := by rw [List.length_drop]; omega
          have h2 : (l.drop size).length ≤ m := by rw [List.length_drop]; omega
          rw [ih n (by omega) _ h1, ih m (by omega) _ h2]

/-- Fewer bytes than an image are no image (R165). -/
theorem imagesOf_short {size : Nat} {l : List Byte} (h : l.length < size) : imagesOf size l = [] := by
  unfold imagesOf
  cases l.length with
  | zero => rfl
  | succ n => exact if_pos (.inr h)

/-- The first image of bulk data, and the images after it. -/
theorem imagesOf_append {size : Nat} (hs : 0 < size) {image : List Byte} (h : image.length = size) (more : List Byte) :
    imagesOf size (image ++ more) = image :: imagesOf size more := by
  obtain ⟨n, hn⟩ : ∃ n, (image ++ more).length = n + 1 := ⟨image.length + more.length - 1, by
    rw [List.length_append]; omega⟩
  have hlen : image.length + more.length = n + 1 := by rw [← List.length_append]; exact hn
  rw [show imagesOf size (image ++ more) = images size (n + 1) (image ++ more) by rw [imagesOf, hn], images,
    if_neg (by rw [List.length_append]; omega), ← h, List.take_left, List.drop_left, h,
    images_fuel hs n more (by omega)]

theorem imagesOf_single {size : Nat} (hs : 0 < size) {image : List Byte} (h : image.length = size) :
    imagesOf size image = [image] := by
  have := imagesOf_append hs h []
  rwa [List.append_nil, imagesOf_short (size := size) (l := []) hs] at this

/-- Data of at least an image's length begins with an image. -/
theorem imagesOf_ne_nil {size : Nat} (hs : 0 < size) {l : List Byte} (h : size ≤ l.length) :
    ∃ rest, imagesOf size l = l.take size :: rest :=
  ⟨imagesOf size (l.drop size), by
    rw [← imagesOf_append hs (List.length_take_of_le h), List.take_append_drop]⟩

/-! ### The images in turn -/

section
variable {write : List Byte → State → Except ResultCode State} {records n : Nat} {image : List Byte} {rest : List (List Byte)}
  {s : State}

theorem loadImages_end (h : records ≤ s.mgmt.cursor.index) :
    loadImages write records (image :: rest) n s = { state := s, code := .endOfTable, count := n } := by
  rw [loadImages, if_pos h]

theorem loadImages_error {code : ResultCode} (h : s.mgmt.cursor.index < records) (hw : write image s = .error code) :
    loadImages write records (image :: rest) n s = { state := s, code := code, count := n } := by
  rw [loadImages, if_neg (by omega), hw]

theorem loadImages_ok {t : State} (h : s.mgmt.cursor.index < records) (hw : write image s = .ok t) :
    loadImages write records (image :: rest) n s = loadImages write records rest (n + 1) (advanceCursor t) := by
  rw [loadImages, if_neg (by omega), hw]

end

/-- Counting from one more gives one more. -/
theorem loadImages_count (write : List Byte → State → Except ResultCode State) (records : Nat) (l : List (List Byte)) (n : Nat)
    (s : State) : loadImages write records l (n + 1) s =
      { loadImages write records l n s with count := (loadImages write records l n s).count + 1 } := by
  induction l generalizing n s with
  | nil => rfl
  | cons image rest ih =>
    unfold loadImages
    split
    · rfl
    · split
      · rfl
      · exact ih (n + 1) _

/-- What a LOAD does does not depend on what its writing and its cursor do not read. -/
theorem loadImages_comm {write : List Byte → State → Except ResultCode State} {f : State → State}
    (hc : ∀ s, (f s).mgmt.cursor = s.mgmt.cursor) (ha : ∀ s, advanceCursor (f s) = f (advanceCursor s))
    (hw : ∀ image s, write image (f s) = (write image s).map f) (records : Nat) (l : List (List Byte)) (n : Nat) (s : State) :
    loadImages write records l n (f s) =
      { loadImages write records l n s with state := f (loadImages write records l n s).state } := by
  induction l generalizing n s with
  | nil => rfl
  | cons image rest ih =>
    unfold loadImages
    rw [hc, hw]
    split
    · rfl
    · cases write image s with
      | error code => rfl
      | ok t => exact (congrArg _ (ha t)).trans (ih (n + 1) (advanceCursor t))

end Sys2Proof.Machine
end

section
/-! PROOF. LOAD on the CIRCUIT table (O48). -/

namespace Sys2Proof.Machine

/-- What a CIRCUIT image with defined codes and flags gives: its fields when each lies in its range (R12, R13). -/
theorem circuitImage_define (cls : CircuitClass) (dir : Direction) (att : Bool) (w st a b port u x y : Nat) :
    circuitImage ([1, cls.code, w, st, a, b, dir.code, att.toNat, port, u, x, y].map byte) =
      if 1 ≤ w % 256 ∧ w % 256 ≤ 16 ∧ st % 256 ≤ 63 ∧ a % 256 ≤ 31 ∧ b % 256 ≤ 31 then
        let fields : CircuitFields :=
          { cls := cls, width := w % 256, start := st % 256, endA := a % 256, endB := b % 256, direction := dir }
        if att = true then
          if port % 256 ≤ 3 ∧ u % 256 ≤ 15 then
            some (.defined fields (some { port := port % 256, start := u % 256 }))
          else none
        else some (.defined fields none)
      else none := by
  cases cls <;> cases dir <;> cases att <;> rfl

/-- A CIRCUIT image with a flag or a code that has no meaning gives none (R12). -/
theorem circuitImage_undefined {l : List Byte}
    (h : 1 < byteAt l 0 ∨ (byteAt l 0 = 1 ∧ (4 < byteAt l 1 ∨ 1 < byteAt l 6 ∨ 1 < byteAt l 7))) : circuitImage l = none := by
  have hcls : 4 < byteAt l 1 → classOf (byteAt l 1) = none := fun h => by unfold classOf; split <;> first | omega | rfl
  have hdir : 1 < byteAt l 6 → directionOf (byteAt l 6) = none := fun h => by
    unfold directionOf; split <;> first | omega | rfl
  unfold circuitImage
  split
  · omega
  · rcases h with h | ⟨_, h | h | h⟩
    · omega
    · rw [hcls h]
    · rw [hdir h]
      split <;> first | rfl | simp_all
    · repeat' split
      all_goals first | rfl | omega
  · rfl

/-- Noting an answer before writing a CIRCUIT image notes it after. -/
theorem writeCircuit_answeredWith (code : ResultCode) (n : Nat) (k : List Byte) (image : List Byte) (s : State) :
    writeCircuit image (s.answeredWith code n k) = (writeCircuit image s).map (fun t => t.answeredWith code n k) := by
  have hc : (s.answeredWith code n k).circuit s.mgmt.cursor.index = s.circuit s.mgmt.cursor.index := rfl
  unfold writeCircuit
  dsimp only
  rw [show (s.answeredWith code n k).mgmt.cursor.index = s.mgmt.cursor.index from rfl, hc]
  cases s.circuit s.mgmt.cursor.index with
  | inService => rfl
  | _ => cases circuitImage image <;> rfl

/-- A LOAD on the CIRCUIT table taken by itself. -/
theorem exec_load_circuits {s : State} (h : s.canTake) (ht : s.mgmt.cursor.table = .circuit) (bulk : List Byte) :
    exec (.load bulk) s = .next ((loadCircuits bulk s).state.answeredWith (loadCircuits bulk s).code
      (loadCircuits bulk s).count []) := by
  rw [exec_load h]
  unfold doLoad
  rw [ht]

/-- A refused CIRCUIT image ends its LOAD with nothing of it written (R165). -/
theorem loadCircuits_refused {s : State} {image : List Byte} {code : ResultCode} (hlen : image.length = 12)
    (hc : s.mgmt.cursor.index < 1024) (hw : writeCircuit image s = .error code) :
    loadCircuits image s = { state := s, code := code, count := 0 } := by
  unfold loadCircuits
  rw [imagesOf_single (by decide) hlen, loadImages_error (records := TableId.circuit.records) hc hw]

/-- A CIRCUIT image that is written, and the images after it (R165). -/
theorem loadCircuits_written {s t : State} {image : List Byte} (more : List Byte) (hlen : image.length = 12)
    (hc : s.mgmt.cursor.index < 1024) (hw : writeCircuit image s = .ok t) :
    loadCircuits (image ++ more) s =
      { loadCircuits more (advanceCursor t) with count := (loadCircuits more (advanceCursor t)).count + 1 } := by
  unfold loadCircuits
  rw [imagesOf_append (by decide) hlen, ← loadImages_count, loadImages_ok (records := TableId.circuit.records) hc hw]

theorem loadCircuits_short {s : State} {bulk : List Byte} (h : bulk.length < 12) :
    loadCircuits bulk s = { state := s, code := .ok, count := 0 } := by
  unfold loadCircuits
  rw [imagesOf_short h]
  rfl

/-- The state after a LOAD of one CIRCUIT image that makes the record `r`. -/
def State.circuitLoaded (s : State) (c : Nat) (r : CircuitRecord) : State :=
  advanceCursor (s.setCircuit c r)

section
variable {s : State} {c : Nat} (h : s.canTake) (hcur : s.mgmt.cursor = { table := .circuit, index := c }) (hc : c < 1024)
include h hcur hc

theorem exec_load_circuit_refused {image : List Byte} {code : ResultCode} (hlen : image.length = 12)
    (hw : writeCircuit image s = .error code) : exec (.load image) s = .next (s.answeredWith code 0 []) := by
  rw [exec_load_circuits h (by rw [hcur]), loadCircuits_refused hlen (by rw [hcur]; exact hc) hw]

theorem exec_load_circuit_written {image : List Byte} {r : CircuitRecord} (hlen : image.length = 12)
    (hno : ∀ f a x k, s.circuit c ≠ .inService f a x k) (hr : circuitImage image = some r) :
    exec (.load image) s = .next ((s.circuitLoaded c r).answeredWith .ok 1 []) := by
  have hw : writeCircuit image s = .ok (s.setCircuit c r) := by
    unfold writeCircuit
    rw [hcur]
    dsimp only
    split
    · exact absurd ‹_› (hno _ _ _ _)
    · rw [hr]
  rw [exec_load_circuits h (by rw [hcur]), ← List.append_nil image,
    loadCircuits_written [] hlen (by rw [hcur]; exact hc) hw, loadCircuits_short (by decide)]
  rfl

theorem exec_load_circuit_range {image : List Byte} (hlen : image.length = 12)
    (hno : ∀ f a x k, s.circuit c ≠ .inService f a x k) (hr : circuitImage image = none) :
    exec (.load image) s = .next (s.answeredWith .range 0 []) := by
  refine exec_load_circuit_refused h hcur hc hlen ?_
  unfold writeCircuit
  rw [hcur]
  dsimp only
  split
  · exact absurd ‹_› (hno _ _ _ _)
  · rw [hr]

/-- A LOAD of one image that was answered as written has written it. -/
theorem writeCircuit_of_exec {image : List Byte} {r : CircuitRecord} (hlen : image.length = 12)
    (he : exec (.load image) s = .next ((s.circuitLoaded c r).answeredWith .ok 1 [])) :
    writeCircuit image s = .ok (s.setCircuit c r) := by
  cases hw : writeCircuit image s with
  | error code =>
    rw [exec_load_circuit_refused h hcur hc hlen hw] at he
    have hitems := congrArg (fun o => match o with
      | Host.Outcome.next t => t.mgmt.lastItems
      | _ => ([] : List Item)) he
    simp [State.answeredWith] at hitems
  | ok t =>
    obtain ⟨r', _, rfl, _⟩ := writeCircuit_ok hw
    rw [hcur] at hw ⊢
    dsimp only at hw ⊢
    rw [exec_load_circuits h (by rw [hcur]), ← List.append_nil image,
      loadCircuits_written [] hlen (by rw [hcur]; exact hc) hw, loadCircuits_short (by decide)] at he
    have hput : (s.setCircuit c r').table.circuits = (s.setCircuit c r).table.circuits := congrArg (fun o => match o with
      | Host.Outcome.next t => t.table.circuits
      | _ => ([] : Table CircuitRecord)) he
    unfold State.setCircuit at hput ⊢
    dsimp only at hput
    rw [hput]

/-- A LOAD goes on after an image that is written as a LOAD of the rest (R165). -/
theorem exec_load_circuit_rest {image : List Byte} {r : CircuitRecord} (more : List Byte) (hlen : image.length = 12)
    (he : exec (.load image) s = .next ((s.circuitLoaded c r).answeredWith .ok 1 [])) :
    ∃ (v : State) (code : ResultCode) (n : Nat),
      exec (.load more) ((s.circuitLoaded c r).answeredWith .ok 1 []) = .next (v.answeredWith code n []) ∧
        exec (.load (image ++ more)) s = .next (v.answeredWith code (n + 1) []) := by
  have hw := writeCircuit_of_exec h hcur hc hlen he
  have hcomm : loadCircuits more ((s.circuitLoaded c r).answeredWith .ok 1 []) =
      { loadCircuits more (s.circuitLoaded c r) with
        state := (loadCircuits more (s.circuitLoaded c r)).state.answeredWith .ok 1 [] } :=
    loadImages_comm (f := fun t => t.answeredWith .ok 1 []) (fun _ => rfl) (fun _ => rfl)
      (fun image t => writeCircuit_answeredWith .ok 1 [] image t) _ _ 0 _
  refine ⟨(loadCircuits more (s.circuitLoaded c r)).state, (loadCircuits more (s.circuitLoaded c r)).code,
    (loadCircuits more (s.circuitLoaded c r)).count, ?_, ?_⟩
  · have hcan : ((s.circuitLoaded c r).answeredWith .ok 1 []).canTake := ⟨h.1, rfl⟩
    rw [exec_load_circuits hcan (by show s.mgmt.cursor.table = _; rw [hcur]), hcomm]
    rfl
  · rw [exec_load_circuits h (by rw [hcur]), loadCircuits_written more hlen (by rw [hcur]; exact hc) hw]
    rfl

end

/-- Settles O48: an image is refused with nothing written, or written with the cursor moved on, and the images after it are a LOAD
of their own. -/
theorem loadDefinesACircuit : Obligations.LoadDefinesACircuit := by
  intro s c w st a b port u x y cls dir att h hcur hc load moved
  have hlen : ∀ flag, ([flag, cls.code, w, st, a, b, dir.code, att.toNat, port, u, x, y].map byte).length = 12 :=
    fun _ => rfl
  have hmoved : ∀ r, moved r = (s.circuitLoaded c r).answeredWith .ok 1 [] := fun r => by
    show State.answeredWith { s.setCircuit c r with mgmt := _ } _ _ _ = (setCursor _ _ _).answeredWith _ _ _
    rw [(State.setCircuit_frame s c r).2.2.2.2.2.2.2.2.2.2.1, hcur]
    rfl
  refine ⟨fun f at' r k hs => ?served, fun hno => ⟨?absent, ?defined, ?range, ?undefined⟩, ?rest, ?short, ?full, ?readOnly⟩
  case served =>
    refine exec_load_circuit_refused h hcur hc (hlen 1) ?_
    unfold writeCircuit
    rw [hcur]
    dsimp only
    rw [hs]
  case absent =>
    rw [hmoved]
    exact exec_load_circuit_written h hcur hc (hlen 0) hno rfl
  case defined =>
    intro h1 h2 h3 h4 h5 h6
    rw [hmoved]
    refine exec_load_circuit_written h hcur hc (hlen 1) hno ?_
    rw [circuitImage_define, if_pos (by omega), Nat.mod_eq_of_lt (by omega : w < 256), Nat.mod_eq_of_lt (by omega : st < 256),
      Nat.mod_eq_of_lt (by omega : a < 256), Nat.mod_eq_of_lt (by omega : b < 256)]
    dsimp only
    split
    · rename_i ha
      obtain ⟨hp, hu⟩ := h6 ha
      rw [if_pos (by omega), Nat.mod_eq_of_lt (by omega : port < 256), Nat.mod_eq_of_lt (by omega : u < 256)]
    · rfl
  case range =>
    rintro ⟨h1, h2, h3, h4, h5, h6⟩ hout
    refine exec_load_circuit_range h hcur hc (hlen 1) hno ?_
    rw [circuitImage_define]
    rcases hout with hout | hout | hout | hout | hout | ⟨ha, hout⟩
    · exact if_neg (by omega)
    · exact if_neg (by omega)
    · exact if_neg (by omega)
    · exact if_neg (by omega)
    · exact if_neg (by omega)
    · refine ite_eq_right_iff.mpr (fun _ => ?_)
      dsimp only
      rw [if_pos ha, if_neg (by omega)]
  case undefined =>
    exact fun image hl hu => exec_load_circuit_range h hcur hc hl hno (circuitImage_undefined hu)
  case rest =>
    intro image more r hl he
    rw [hmoved] at he ⊢
    exact exec_load_circuit_rest h hcur hc more hl he
  case short =>
    intro bulk hb
    rw [exec_load_circuits h (by rw [hcur]), loadCircuits_short hb]
  case full =>
    intro v bulk hv hcv
    rw [exec_load_circuits hv (by rw [hcv])]
    split
    · rename_i hb
      rw [loadCircuits_short hb]
    · rename_i hb
      obtain ⟨rest, hr⟩ := imagesOf_ne_nil (size := 12) (by decide) (Nat.le_of_not_lt hb)
      unfold loadCircuits
      rw [hr, loadImages_end (by rw [hcv]; exact le_rfl)]
  case readOnly =>
    intro v bulk hv ht
    rw [exec_load hv]
    unfold doLoad
    cases hv' : v.mgmt.cursor.table <;> simp_all

end Sys2Proof.Machine
end

section
/-! PROOF. What the shared operations leave of the pending reports, the target and the Notice Unit. -/

namespace Sys2Proof.Machine

/-! ### Pending reports -/

/-- From `s` to `t` no pending report has gone, and the report number and the snapshot stay (R176). -/
structure ReportsGrow (s t : State) : Prop where
  subjects : s.reports.subjects <+: t.reports.subjects
  number : t.reports.number = s.reports.number
  snapshot : t.reports.snapshot = s.reports.snapshot

namespace ReportsGrow

theorem of_eq {s t : State} (h : t.reports = s.reports) : ReportsGrow s t := by
  constructor <;> rw [h]

theorem refl (s : State) : ReportsGrow s s := of_eq rfl

theorem trans {s t u : State} (h : ReportsGrow s t) (g : ReportsGrow t u) : ReportsGrow s u :=
  ⟨h.subjects.trans g.subjects, g.number.trans h.number, g.snapshot.trans h.snapshot⟩

theorem after {s t u : State} (g : ReportsGrow t u) (h : ReportsGrow s t) : ReportsGrow s u := h.trans g

/-- A report that is pending stays so while the settings do. -/
theorem reported {s t : State} (h : ReportsGrow s t) (hs : t.settings = s.settings) {x : Subject}
    (hx : Machine.reported x s) : Machine.reported x t :=
  fun hen => h.subjects.subset (hx (hs ▸ hen))

end ReportsGrow

theorem grow_raise (x : Subject) (s : State) : ReportsGrow s (raise x s) := by
  refine ⟨raise_prefix x s, ?_, ?_⟩ <;> rcases raise_reports x s with h | ⟨_, _, h⟩ <;> rw [h]

theorem grow_raiseAll (xs : List Subject) (s : State) : ReportsGrow s (raiseAll xs s) := by
  induction xs generalizing s with
  | nil => exact .refl s
  | cons x xs ih => exact (grow_raise x s).trans (ih _)

theorem reported_raise (x : Subject) (s : State) : reported x (raise x s) := fun h =>
  mem_raise x s (by rwa [settings_of_table (s := s) (by simp)] at h)

theorem grow_evaluateConvergence (s : State) : ReportsGrow s (evaluateConvergence s) := by
  unfold evaluateConvergence
  dsimp only
  split
  · exact .refl s
  · exact (grow_raise _ _).after (.of_eq rfl)

theorem grow_refreshDigest (s : State) : ReportsGrow s (refreshDigest s) := by
  unfold refreshDigest
  dsimp only
  split
  · exact .refl s
  · exact (grow_evaluateConvergence _).after (.of_eq (by simp))

theorem grow_writeMap (m : FailureMap) (s : State) : ReportsGrow s (writeMap m s) :=
  (grow_raiseAll _ _).after (.of_eq rfl)

theorem grow_install (r : PassResult) (s : State) : ReportsGrow s (install r s) :=
  ((grow_raise _ _).after (grow_raiseAll _ _)).after (.of_eq rfl)

theorem grow_answerMapChange (s : State) : ReportsGrow s (answerMapChange s) := by
  rcases answerMapChange_cases s with ⟨r, _, h⟩ | ⟨_, h⟩ <;> rw [h]
  · exact (grow_install r s).trans (.of_eq rfl)
  · exact .of_eq rfl

theorem grow_mapChange (s : State) : ReportsGrow s (mapChange s) := by
  unfold mapChange
  split
  · split
    · exact grow_answerMapChange s
    · exact (grow_answerMapChange _).after (.of_eq (by simp))
    · exact .refl s
    · exact .of_eq rfl
  · exact .of_eq (by simp)
  · exact .refl s

theorem grow_deliverMapChange (m : FailureMap) (s : State) : ReportsGrow s (deliverMapChange m s) := by
  unfold deliverMapChange
  split
  · exact .refl s
  · exact grow_mapChange s

/-! ### The target -/

/-- The target reads the node, the ring map, the circuits and the settings (R129, R130). -/
theorem targetOf_congr {s t : State} (hn : t.node = s.node) (ht : t.table.ring = s.table.ring)
    (hs : t.settings = s.settings) (hc : t.table.circuits = s.table.circuits) : targetOf t = targetOf s := by
  unfold targetOf State.position State.ringSize
  rw [hn, ht, hs, hc]

/-- The target derived last is the target of the state while what it reads stays. -/
theorem deriveTarget_switch {s t : State} (hw : t.switch = (deriveTarget s).switch) (hn : t.node = s.node)
    (ht : t.table.ring = s.table.ring) (hs : t.settings = s.settings) (hc : t.table.circuits = s.table.circuits) :
    t.switch = { s.switch with target := some (targetOf t) } := by
  rw [hw, targetOf_congr hn ht hs hc]
  rfl

/-! ### The Notice Unit -/

theorem position_congr {s t : State} (hn : t.node.strap = s.node.strap) (ht : t.table.ring = s.table.ring) :
    t.position = s.position := by
  unfold State.position; rw [hn, ht]

/-- An origination writes the outgoing queues, the sequence counter and the refresh timer alone (R74). -/
theorem originate_notices_kept (s : State) :
    (originate s).notices = { s.notices with
      queues := (originate s).notices.queues, sequence := (originate s).notices.sequence
      refresh := (originate s).notices.refresh } := by
  unfold originate
  split <;> rfl

theorem records_originate (s : State) : (originate s).notices.records = s.notices.records := by
  rw [originate_notices_kept]

theorem records_evaluateConvergence (s : State) : (evaluateConvergence s).notices.records = s.notices.records := by
  rw [evaluateConvergence_notices]

theorem records_refreshDigest (s : State) : (refreshDigest s).notices.records = s.notices.records := by
  unfold refreshDigest
  dsimp only
  split
  · rfl
  · rw [records_evaluateConvergence, records_originate]

/-- The status that R79's test gives reads the node state, the ring map, the records and the digest. -/
theorem convergenceOf_congr {s t : State} (hn : t.node = s.node) (hr : t.table.ring = s.table.ring)
    (hq : t.notices.records = s.notices.records) (hd : t.table.digest = s.table.digest) :
    convergenceOf t = convergenceOf s := by
  unfold convergenceOf State.position State.ringSize State.record
  rw [hn, hr, hq, hd]

/-- The status evaluated last is fresh while what it reads stays. -/
theorem convergenceFresh_of_evaluated {s t : State} (hc : t.notices.convergence = (evaluateConvergence s).notices.convergence)
    (hn : t.node = s.node) (hr : t.table.ring = s.table.ring) (hq : t.notices.records = s.notices.records)
    (hd : t.table.digest = s.table.digest) : t.convergenceFresh := by
  unfold State.convergenceFresh
  rw [hc, evaluateConvergence_notices, convergenceOf_congr hn hr hq hd]

end Sys2Proof.Machine
end

section
/-! PROOF. SERVICE IN and SERVICE OUT (O52, O53). -/

namespace Sys2Proof.Machine

/-! ### The engine at a change of the in-service set -/

theorem lockHeld_eq_false (s : State) : s.lockHeld = false ↔ ∀ i, s.engine.state ≠ .pass i := by
  unfold State.lockHeld
  cases s.engine.state <;> simp

/-- What the engine does at a generation change with the lock FREE (R87): with W or X non-empty an ACTIVE engine in IDLE or BUILD
gathers; with both empty nothing happens; grants and counters stay in every case. -/
theorem generationChange_free {s : State} (hl : s.lockHeld = false) :
    (generationChange s).engine.grants = s.engine.grants ∧ (generationChange s).counters = s.counters ∧
      (s.map.setsEmpty = true → (generationChange s).engine = s.engine) ∧
      (s.node.state = .active → s.map.setsEmpty = false → (s.engine.state = .idle ∨ ∃ k i, s.engine.state = .build k i) →
        (generationChange s).engine.state = .gather (s.now + 10 * s.settings.gatherDelay)) := by
  have hpass := (lockHeld_eq_false s).mp hl
  have hstart : ∀ u : State, (startGather u).engine = { u.engine with
      state := .gather (u.now + 10 * u.settings.gatherDelay) } := fun u => by
    unfold startGather setEngine ms; rw [Nat.mul_comm]; rfl
  unfold generationChange
  cases hn : s.node.state with
  | active =>
    cases he : s.engine.state with
    | idle =>
      dsimp only
      split
      · rename_i hempty; exact ⟨rfl, rfl, fun _ => rfl, fun _ h => by rw [hempty] at h; cases h⟩
      · rename_i hne
        rw [hstart]
        exact ⟨rfl, rfl, fun h => absurd h hne, fun _ _ _ => rfl⟩
    | build k i =>
      dsimp only
      split
      · rename_i hempty; exact ⟨rfl, rfl, fun _ => rfl, fun _ h => by rw [hempty] at h; cases h⟩
      · rename_i hne
        rw [hstart, (abandonBuild_spec he).1]
        refine ⟨rfl, by simp, fun h => absurd h hne, fun _ _ _ => ?_⟩
        rw [settings_of_table (s := s) (by simp)]
        simp
    | gather e => exact ⟨rfl, rfl, fun _ => rfl, fun _ _ h => by simp at h⟩
    | pass i => exact absurd he (hpass i)
  | _ => exact ⟨rfl, rfl, fun _ => rfl, fun h => by cases h⟩

/-- What a change of the in-service set delivers with the lock FREE (R18, R19): a target derived, a report of the circuit, and the
engine's answer; everything else but the plans, the digest and the notice of its change stays. -/
theorem deliverService_free (c : Nat) {s : State} (hl : s.lockHeld = false) :
    let t := deliverService c s
    t.table = { s.table with digest := digestOf s.table } ∧ t.switch = { s.switch with target := some (targetOf t) } ∧
      reported (.circuit c) t ∧ ReportsGrow s t ∧ t.engine.grants = s.engine.grants ∧ t.counters = s.counters ∧
      t.notices.records = s.notices.records ∧ (s.map.setsEmpty = true → t.engine = s.engine) ∧
      (s.node.state = .active → s.map.setsEmpty = false → (s.engine.state = .idle ∨ ∃ k i, s.engine.state = .build k i) →
        t.engine.state = .gather (s.now + 10 * s.settings.gatherDelay)) := by
  have htable : (deliverService c s).table = { s.table with digest := digestOf s.table } := by
    unfold deliverService; rw [refreshDigest_table]; simp
  obtain ⟨hgrants, hcounters, hempty, hgather⟩ := generationChange_free (s := deriveTarget (stalePlans s)) hl
  have hengine : (deliverService c s).engine = (generationChange (deriveTarget (stalePlans s))).engine := by
    simp [deliverService]
  refine ⟨htable, ?_, ?_, ?_, by rw [hengine]; exact hgrants, ?_, ?_, by rw [hengine]; exact hempty,
    by rw [hengine]; exact hgather⟩
  · exact deriveTarget_switch (s := stalePlans s) (by simp [deliverService]) (by simp) (by rw [htable]; rfl)
      (by unfold State.settings; rw [htable]; rfl) (by rw [htable]; rfl)
  · refine (grow_refreshDigest _).reported ?_ (reported_raise _ _)
    unfold State.settings
    rw [refreshDigest_table]
  · exact (grow_refreshDigest _).after ((grow_raise _ _).after (.of_eq (by simp)))
  · unfold deliverService
    rw [(refreshDigest_frame _).2.2.2.2.2.2.2.2.2.2, (raise_frame _ _).2.2.2.2.2.2.2.2.2.2.2.2]
    exact hcounters
  · unfold deliverService
    rw [records_refreshDigest]
    simp

/-! ### Occupancy -/

/-- What writing one value to several occupancy entries leaves at each. -/
theorem look_fillOccupancy (v : Occupant) (keys : List Nat) (o : Table Occupant) (k : Nat) :
    look .none (fillOccupancy v keys o) k = if k ∈ keys then v else look .none o k := by
  unfold fillOccupancy
  induction keys generalizing o with
  | nil => simp
  | cons j keys ih =>
    rw [List.foldl_cons, ih, look_put]
    by_cases h : k = j <;> simp [h]

/-- The occupancy entries of a circuit whose range lies in the span's 64 slots: its range on the spans of its route (R20). -/
theorem mem_occupancyKeys {n k u : Nat} {f : CircuitFields} (hf : f.start + f.width ≤ 64) (hu : u < 64) :
    64 * k + u ∈ occupancyKeys n f ↔ k ∈ f.workingRoute n ∧ f.start ≤ u ∧ u < f.start + f.width := by
  unfold occupancyKeys rangeSlots slotKey Config.spanSlots
  simp only [List.mem_flatMap, List.mem_map, List.mem_range, exists_exists_and_eq_and]
  constructor
  · rintro ⟨j, hj, i, hi, he⟩
    obtain rfl : j = k := by omega
    exact ⟨hj, by omega, by omega⟩
  · rintro ⟨hk, h1, h2⟩
    exact ⟨k, hk, u - f.start, by omega, by omega⟩

/-! ### The checks of SERVICE IN -/

theorem fieldsValid_iff (n : Nat) (f : CircuitFields) :
    fieldsValid n f = true ↔ f.endA < n ∧ f.endB < n ∧ f.endA ≠ f.endB ∧ f.start + f.width ≤ 64 := by
  unfold fieldsValid Config.spanSlots
  simp only [Bool.and_eq_true, decide_eq_true_eq, bne_iff_ne, and_assoc]

theorem attachmentValid_iff (p : Nat) (f : CircuitFields) (att : Option Attachment) :
    attachmentValid p f att = true ↔
      if p = f.endA ∨ p = f.endB then ∃ a, att = some a ∧ a.start + f.width ≤ 16 else att = none := by
  unfold attachmentValid Config.bandSlots
  have hends : (f.endA = p ∨ f.endB = p) ↔ (p = f.endA ∨ p = f.endB) := or_congr eq_comm eq_comm
  cases att with
  | none =>
    have : ¬(p = f.endA ∨ p = f.endB) ↔ f.endA ≠ p ∧ f.endB ≠ p := by rw [← hends, not_or]
    simp only [Bool.and_eq_true, bne_iff_ne, ← this]
    split <;> simp_all
  | some a =>
    simp only [Bool.and_eq_true, Bool.or_eq_true, beq_iff_eq, decide_eq_true_eq, hends, Option.some.injEq, exists_eq_left',
      reduceCtorEq]
    split <;> simp_all

theorem attachmentTaken_eq_false (t : Table CircuitRecord) (w : Nat) (att : Option Attachment) :
    attachmentTaken t w att = false ↔
      ∀ a, att = some a → ∀ e ∈ inServiceOf t, ∀ y, e.2.2 = some y → y.port = a.port →
        ¬(a.start < y.start + e.2.1.width ∧ y.start < a.start + w) := by
  unfold attachmentTaken rangesMeet
  cases att with
  | none => simp
  | some a =>
    simp only [Option.some.injEq, forall_eq', List.any_eq_false]
    refine forall_congr' (fun e => imp_congr_right (fun _ => ?_))
    cases e.2.2 with
    | none => simp
    | some y =>
      simp only [Option.some.injEq, forall_eq', Bool.and_eq_true, beq_iff_eq, decide_eq_true_eq, not_and]
      exact ⟨fun h hp => h hp.symm, fun h hp => h hp.symm⟩

theorem slotGranted_eq_false (s : State) (k u : Nat) :
    slotGranted s k u = false ↔
      ∀ g ∈ s.engine.grants, ∀ f a r x, s.circuit g.circuit = .inService f a r x →
        k ∈ f.restorationRoute s.ringSize → ¬(g.start ≤ u ∧ u < g.start + f.width) := by
  unfold slotGranted
  rw [List.any_eq_false]
  refine forall_congr' (fun g => imp_congr_right (fun _ => ?_))
  cases s.circuit g.circuit with
  | inService f a r x =>
    simp only [CircuitRecord.inService.injEq, and_imp, List.contains_eq_mem, Bool.and_eq_true, decide_eq_true_eq, and_assoc,
      not_and]
    exact ⟨fun h _ _ _ _ e _ _ _ => by subst e; exact h, fun h => h f a r x rfl rfl rfl rfl⟩
  | _ => simp

theorem workingConflict_eq_false (s : State) (f : CircuitFields) :
    workingConflict s f = false ↔
      ∀ k ∈ f.workingRoute s.ringSize, ∀ u, f.start ≤ u → u < f.start + f.width →
        look .none s.table.occupancy (64 * k + u) = .none ∧
        ∀ g ∈ s.engine.grants, ∀ f' a' r' k', s.circuit g.circuit = .inService f' a' r' k' →
          k ∈ f'.restorationRoute s.ringSize → ¬(g.start ≤ u ∧ u < g.start + f'.width) := by
  unfold workingConflict slotKey Config.spanSlots rangeSlots
  rw [List.any_eq_false]
  refine forall_congr' (fun k => imp_congr_right (fun _ => ?_))
  rw [Bool.not_eq_true, List.any_eq_false]
  simp only [← slotGranted_eq_false, List.mem_map, List.mem_range, Bool.or_eq_true, bne_iff_ne, not_or, not_not,
    Bool.not_eq_true]
  constructor
  · intro h u h1 h2
    exact h u ⟨u - f.start, by omega, by omega⟩
  · rintro h u ⟨i, hi, rfl⟩
    exact h _ (by omega) (by omega)

/-- The checks of SERVICE IN, in their order, on a DEFINED record of a placed node (R15). -/
theorem serviceInCode_defined {s : State} {c own : Nat} {f : CircuitFields} {att : Option Attachment}
    (hp : s.position = some own) (hc : s.circuit c = .defined f att) :
    serviceInCode s c =
      if !fieldsValid s.ringSize f then .invalidCircuit
      else if !attachmentValid own f att then .attachment
      else if attachmentTaken s.table.circuits f.width att then .attachment
      else if workingConflict s f then .conflict
      else .ok := by
  unfold serviceInCode
  rw [hp, hc]

/-- A refused SERVICE IN changes nothing (R15). -/
theorem serviceIn_refused {s : State} {c : Nat} {code : ResultCode} (h : serviceInCode s c = code) (hk : code ≠ .ok) :
    serviceIn c s = (s, code) := by
  unfold serviceIn
  rw [h]
  cases code with
  | ok => exact absurd rfl hk
  | _ => rfl

theorem serviceIn_taken {s : State} {c : Nat} {f : CircuitFields} {att : Option Attachment} (h : serviceInCode s c = .ok)
    (hc : s.circuit c = .defined f att) : serviceIn c s = (bringIn c f att s, .ok) := by
  unfold serviceIn
  rw [h, hc]

/-! ### What is taken -/

/-- A state after a directive taken by itself is that of its block, but for the Management Unit. -/
theorem exec_serviceIn {c : Half} {s : State} (h : s.canTake) (hl : s.lockHeld = false) (hc : c.toNat < 1024) :
    exec (.serviceIn c) s = .next ((serviceIn c.toNat s).1.answeredWith (serviceIn c.toNat s).2 0 []) :=
  congrArg Host.Outcome.next (directive_service h hl (a := .in_) rfl hc)

theorem exec_serviceOut {c : Half} {s : State} (h : s.canTake) (hl : s.lockHeld = false) (hc : c.toNat < 1024) :
    exec (.serviceOut c) s = .next ((serviceOut c.toNat s).1.answeredWith (serviceOut c.toNat s).2 0 []) :=
  congrArg Host.Outcome.next (directive_service h hl (a := .out) rfl hc)

theorem exec_serviceIn_refused {c : Half} {s : State} (h : s.canTake) (hl : s.lockHeld = false) (hc : c.toNat < 1024)
    {code : ResultCode} (hcode : serviceInCode s c.toNat = code) (hk : code ≠ .ok) :
    exec (.serviceIn c) s = .next (s.answeredWith code 0 []) := by
  rw [exec_serviceIn h hl hc, serviceIn_refused hcode hk]

/-- What a change of the in-service set that is taken leaves of everything but the circuit records and the occupancy; `u` is the
state with the change made, and the lock is FREE. -/
theorem serviceDelivered {c : Nat} {s u : State} (hl : s.lockHeld = false) (engine : Engine) (circuits : Table CircuitRecord)
    (occupancy : Table Occupant) (he : engine.state = s.engine.state)
    (hu : u = { s with engine := engine, table := { s.table with
      circuits := circuits, occupancy := occupancy, generation := s.table.generation + 1 } }) :
    let t := deliverService c u
    t.table = { s.table with
      circuits := circuits, occupancy := occupancy, generation := s.table.generation + 1, digest := t.table.digest } ∧
      t.table.digest = digestOf t.table ∧ noPlanValid t ∧ t.switch = { s.switch with target := some (targetOf t) } ∧
      reported (.circuit c) t ∧ t.engine.grants = engine.grants ∧ (s.map.setsEmpty = true → t.engine = engine) ∧
      (s.node.state = .active → s.map.setsEmpty = false → (s.engine.state = .idle ∨ ∃ k i, s.engine.state = .build k i) →
        t.engine.state = .gather (s.now + 10 * s.settings.gatherDelay)) ∧
      t.notices.records = s.notices.records ∧ t.counters = s.counters ∧ keepsStanding s t ∧
      t.map = s.map ∧ t.node = s.node ∧ t.ports = s.ports ∧ t.now = s.now ∧ t.mgmt = s.mgmt := by
  have hlu : u.lockHeld = false := by rw [lockHeld_eq_false] at hl ⊢; rw [hu]; dsimp only; rw [he]; exact hl
  obtain ⟨htable, hswitch, hreported, hgrow, hgrants, hcounters, hrecords, hempty, hgather⟩ := deliverService_free c hlu
  obtain ⟨hpending, hnow, hnode, hports, htribs, hmap, hmgmt⟩ := deliverService_frame u c
  have hplan := fun k => deliverService_plan c u (k := k)
  generalize deliverService c u = t at *
  subst hu
  refine ⟨by rw [htable], by rw [htable]; rfl, fun k hk => hplan k ?_, hswitch, hreported, hgrants, hempty, ?_, hrecords,
    hcounters, ⟨hpending, by rw [hnode], htribs, by rw [hswitch], hgrow.number, hgrow.snapshot⟩, hmap, hnode, hports, hnow,
    hmgmt⟩
  · unfold State.ringSize at hk ⊢
    rw [htable] at hk
    exact hk
  · dsimp only at hgather
    rw [he] at hgather
    exact hgather

/-- The records of a table in which one has been written. -/
theorem circuit_of_put {s t : State} {c : Nat} {r : CircuitRecord}
    (h : t.table.circuits = put .absent s.table.circuits c r) (d : Nat) :
    t.circuit d = if d = c then r else s.circuit d := by
  unfold State.circuit
  rw [h]
  exact look_put _ _ _ _ _

/-- The Management Unit after an answer to a directive that did not touch it. -/
theorem answeredWith_mgmt {s t : State} (h : t.mgmt = s.mgmt) (code : ResultCode) (n : Nat) (l : List Byte) :
    (t.answeredWith code n l).mgmt = (s.answeredWith code n l).mgmt := by
  unfold State.answeredWith
  rw [h]

/-- Settles O52: the checks are those of R15 in their order, and a circuit that passes them comes in as one change. -/
theorem serviceInTakesTheCircuit : Obligations.ServiceInTakesTheCircuit := by
  intro c s h
  refine ⟨fun hc => congrArg Host.Outcome.next (directive_service_range h 1 hc), fun hc hl => ⟨fun hp => ?_, fun hp hd => ?_, ?_⟩⟩
  · exact exec_serviceIn_refused h hl hc (by unfold serviceInCode; rw [hp]) (by simp)
  · refine exec_serviceIn_refused h hl hc (code := .notDefined) ?_ (by simp)
    unfold serviceInCode
    split
    · exact absurd ‹_› hp
    · exact absurd ‹_› (hd _ _)
    · rfl
  intro own f att hp hd fields ends untaken free
  have hfields : fieldsValid s.ringSize f = true ↔ fields := fieldsValid_iff _ _
  have hends : attachmentValid own f att = true ↔ ends := attachmentValid_iff _ _ _
  have huntaken : attachmentTaken s.table.circuits f.width att = false ↔ untaken := attachmentTaken_eq_false _ _ _
  have hfree : workingConflict s f = false ↔ free := workingConflict_eq_false _ _
  have hcode := serviceInCode_defined hp hd
  refine ⟨fun h1 => ?_, fun h1 h2 => ?_, fun h1 h2 h3 h4 => ?_, fun h1 h2 h3 h4 => ?_⟩
  · rw [← hfields, Bool.not_eq_true] at h1
    exact exec_serviceIn_refused h hl hc (by rw [hcode, h1]; rfl) (by simp)
  · rw [← hends, ← huntaken] at h2
    refine exec_serviceIn_refused h hl hc (code := .attachment) ?_ (by simp)
    rw [hcode, hfields.mpr h1]
    cases hv : attachmentValid own f att with
    | false => rfl
    | true =>
      rw [hv] at h2
      have ht : attachmentTaken s.table.circuits f.width att = true := by simpa using h2
      rw [ht]
      rfl
  · rw [← hfree, Bool.not_eq_false] at h4
    exact exec_serviceIn_refused h hl hc (by rw [hcode, hfields.mpr h1, hends.mpr h2, huntaken.mpr h3, h4]; rfl) (by simp)
  · have hok : serviceInCode s c.toNat = .ok := by
      rw [hcode, hfields.mpr h1, hends.mpr h2, huntaken.mpr h3, hfree.mpr h4]
      rfl
    rw [exec_serviceIn h hl hc, serviceIn_taken hok hd]
    unfold bringIn
    obtain ⟨htable, hdigest, hplans, hswitch, hreported, hgrants, hempty, hgather, hrecords, hcounters, hstanding,
        hmap, hnode, hports, hnow, hmgmt⟩ :=
      serviceDelivered (c := c.toNat) hl s.engine (put .absent s.table.circuits c.toNat (.inService f att .normal
        (att.map (fun _ => TagCheck.initial)))) (fillOccupancy (occupantOf c.toNat f) (occupancyKeys s.ringSize f)
          s.table.occupancy) rfl rfl
    generalize deliverService c.toNat _ = t at *
    have hcircuit := circuit_of_put (s := s) (t := t.answeredWith .ok 0 []) (c := c.toNat)
      (r := .inService f att .normal (att.map (fun _ => TagCheck.initial))) (by rw [answeredWith_table, htable])
    refine ⟨_, rfl, (hcircuit _).trans (if_pos rfl), fun d hd => (hcircuit d).trans (if_neg hd), fun k u hu => ?_,
      by rw [answeredWith_table, htable], hdigest, hplans, hswitch, hreported, hgather, hempty, hgrants, hmap,
      by rw [answeredWith_table, htable], by unfold State.settings; rw [answeredWith_table, htable],
      hnode, hports, hrecords, hcounters, hnow, hstanding, answeredWith_mgmt hmgmt _ _ _⟩
    · rw [answeredWith_table, htable]
      dsimp only
      rw [look_fillOccupancy]
      simp only [mem_occupancyKeys h1.2.2.2 hu]
      rfl

/-- Settles O53: a circuit in service goes out as one change, with its grant and its occupancy. -/
theorem serviceOutReleasesTheCircuit : Obligations.ServiceOutReleasesTheCircuit := by
  intro c s h
  refine ⟨fun hc => congrArg Host.Outcome.next (directive_service_range h 2 hc), fun hc hl hno => ?_,
    fun f att r k hc hl hs hf => ?_⟩
  · have hout : serviceOut c.toNat s = (s, .notInService) := by
      unfold serviceOut
      split
      · exact absurd ‹_› (hno _ _ _ _)
      · rfl
    rw [exec_serviceOut h hl hc, hout]
  · have hout : serviceOut c.toNat s = (takeOut c.toNat f att s, .ok) := by
      unfold serviceOut
      rw [hs]
    rw [exec_serviceOut h hl hc, hout]
    unfold takeOut
    obtain ⟨htable, hdigest, hplans, hswitch, hreported, hgrants, _, hgather, hrecords, hcounters, hstanding,
        hmap, hnode, hports, hnow, hmgmt⟩ :=
      serviceDelivered (c := c.toNat) hl { s.engine with grants := s.engine.grants.filter (fun g => g.circuit != c.toNat) }
        (put .absent s.table.circuits c.toNat (.defined f att))
        (fillOccupancy .none (occupancyKeys s.ringSize f) s.table.occupancy) rfl rfl
    generalize deliverService c.toNat _ = t at *
    have hcircuit := circuit_of_put (s := s) (t := t.answeredWith .ok 0 []) (c := c.toNat) (r := .defined f att)
      (by rw [answeredWith_table, htable])
    refine ⟨_, rfl, (hcircuit _).trans (if_pos rfl), fun d hd => (hcircuit d).trans (if_neg hd), hgrants, fun j u hu => ?_,
      by rw [answeredWith_table, htable], hdigest, hplans, hswitch, hreported, hgather, hmap,
      by rw [answeredWith_table, htable], by unfold State.settings; rw [answeredWith_table, htable],
      hnode, hports, hrecords, hcounters, hnow, hstanding, answeredWith_mgmt hmgmt _ _ _⟩
    · rw [answeredWith_table, htable]
      dsimp only
      rw [look_fillOccupancy]
      simp only [mem_occupancyKeys hf hu]

end Sys2Proof.Machine
end

section
/-! PROOF. What a map that is put in place and an entry into STARTING leave (R45, R50, R51, R56, R60, R146). -/

namespace Sys2Proof.Machine

/-! ### Positions -/

theorem position_lt {s : State} {p : Nat} (h : s.position = some p) : p < s.ringSize := by
  unfold State.position ownPositionOf at h
  split at h
  · cases h
  · split at h
    · exact List.mem_range.mp (List.mem_of_find?_eq_some h)
    · cases h

/-- The spans of the ring of a placed node are those below N (R43). -/
theorem spansOfRing_eq {s : State} {p : Nat} (h : s.position = some p) :
    spansOfRing s.table.ring s.node.strap = s.ringSize := by
  unfold spansOfRing
  rw [show ownPositionOf s.table.ring s.node.strap = some p from h]
  rfl

theorem spansOfRing_unplaced {s : State} (h : s.position = none) : spansOfRing s.table.ring s.node.strap = 0 := by
  unfold spansOfRing
  rw [show ownPositionOf s.table.ring s.node.strap = none from h]

theorem placed_iff (s : State) : s.placed = true ↔ ∃ p, s.position = some p := Option.isSome_iff_exists

theorem placed_eq_false (s : State) : s.placed = false ↔ s.position = none := by
  unfold State.placed
  cases s.position <;> simp

/-- Span `k` is the one behind position `p` when the span after it begins there (R43). -/
theorem eq_ringSub_one {n k p : Nat} (hk : k < n) (hp : p < n) : k = ringSub n p 1 ↔ (k + 1) % n = p := by
  unfold ringSub
  rcases Nat.lt_or_ge 1 n with hn | hn
  · rw [Nat.mod_eq_of_lt hn]
    rcases Nat.lt_or_ge (k + 1) n with h | h
    · rw [Nat.mod_eq_of_lt h]
      rcases Nat.eq_zero_or_pos p with h0 | h0
      · subst h0
        rw [Nat.zero_add, Nat.mod_eq_of_lt (by omega)]
        omega
      · rw [show p + (n - 1) = (p - 1) + n by omega, Nat.add_mod_right, Nat.mod_eq_of_lt (by omega)]
        omega
    · rw [show k + 1 = n by omega, Nat.mod_self]
      rcases Nat.eq_zero_or_pos p with h0 | h0
      · subst h0
        rw [Nat.zero_add, Nat.mod_eq_of_lt (by omega)]
        omega
      · rw [show p + (n - 1) = (p - 1) + n by omega, Nat.add_mod_right, Nat.mod_eq_of_lt (by omega)]
        omega
  · obtain rfl : n = 1 := by omega
    omega

/-! ### A map put in place -/

/-- A map that is put in place stays derived while what the derivation reads stays (R56). -/
theorem mapDerived_of_writeMap {m : FailureMap} {s t : State} (hm : t.map = (writeMap m s).map)
    (hr : t.table.ring = s.table.ring) (hn : t.node.strap = s.node.strap) (hs : t.settings = s.settings) : t.mapDerived := by
  unfold State.mapDerived
  rw [hm, hr, hn, hs]
  exact writeMap_derived m s

theorem mapDerived_congr {s t : State} (hm : t.map = s.map) (hr : t.table.ring = s.table.ring)
    (hn : t.node.strap = s.node.strap) (hs : t.settings = s.settings) (h : s.mapDerived) : t.mapDerived := by
  unfold State.mapDerived at h ⊢
  rw [hm, hr, hn, hs]
  exact h

theorem ownEndsStored_congr {s t : State} {held : Nat → (Option (Quad View) × OperatorRequest) × Option (Quad View) × OperatorRequest}
    (hm : t.map = s.map) (hr : t.table.ring = s.table.ring) (hn : t.node.strap = s.node.strap)
    (hs : t.settings = s.settings) (h : s.ownEndsStored held) : t.ownEndsStored held := by
  intro own hp k hk
  rw [position_congr hn hr] at hp
  have hsize : t.ringSize = s.ringSize := by unfold State.ringSize; rw [hr]
  rw [hsize] at hk ⊢
  unfold State.lowEnd State.highEnd State.span
  rw [hm, hs]
  exact h own hp k hk

/-- A map in which a placed node has stored its port copies, with no request in them, holds their views in the own ends and every
other end as it was (R45). -/
theorem ownEndsStored_of_writeMap {m : FailureMap} {s t : State} (hm : t.map = (writeMap (storeOwnEnds s m) s).map)
    (hr : t.table.ring = s.table.ring) (hn : t.node.strap = s.node.strap) (hs : t.settings = s.settings)
    (hq : ∀ p, (m.copies.get p).request = .none) : t.ownEndsStored m.ends := by
  intro own hp k hk
  rw [position_congr hn hr] at hp
  have hsize : t.ringSize = s.ringSize := by unfold State.ringSize; rw [hr]
  rw [hsize] at hk ⊢
  have hends : (t.lowEnd k, t.highEnd k) = (storeOwnEnds s m).ends k := by
    rw [← writeMap_ends (storeOwnEnds s m) s (by rw [spansOfRing_eq hp]; exact hk)]
    unfold State.lowEnd State.highEnd State.span
    rw [hm]
  have hcopies : t.map.copies = m.copies := by rw [hm, writeMap_copies, storeOwnEnds_copies]
  rw [ends_storeOwnEnds s m hp] at hends
  have hend : ∀ p, (m.copies.get p).asEnd = (some (m.copies.get p).views, .none) := fun p => by
    rw [PortCopy.asEnd, hq]
  rw [hs, hcopies, ← hend, ← hend]
  refine ⟨congrArg Prod.fst hends, (congrArg Prod.snd hends).trans ?_⟩
  simp only [eq_ringSub_one hk (position_lt hp)]

theorem clearRequests_get (m : FailureMap) (p : Side) :
    (clearRequests m).copies.get p = { m.copies.get p with request := .none } := by
  cases p <;> rfl

/-! ### Notices -/

/-- The notice a node originates is the one it makes of its own state, with the sequence it is at (R74). -/
theorem ownNotice_eq (p : Nat) (s : State) : ownNotice p s = s.noticeAt p s.notices.sequence := by
  unfold ownNotice State.noticeAt
  simp only [bne, beq_eq_decide, decide_not]

theorem noticeAt_congr {s t : State} (hn : t.node = s.node) (ht : t.table = s.table) (hm : t.map.copies = s.map.copies)
    (p : Nat) (q : Byte) : t.noticeAt p q = s.noticeAt p q := by
  unfold State.noticeAt State.ringSize State.settings
  rw [hn, ht, hm]

/-- An own notice takes the place of one of its position that stands alone in a queue (R71). -/
theorem offerNotice_own_single {v w : QueuedNotice} (hv : v.own = true) (hp : w.notice.position = v.notice.position) :
    offerNotice v [w] = [v] := by
  unfold offerNotice replaceNotice
  simp [hv, hp]

/-! ### Entry into STARTING -/

/-- What entry into STARTING does (R146): the listen timer starts, convergence is evaluated, a target derived and the node
reported. -/
theorem enterStarting_spec (s : State) :
    let t := enterStarting s
    t.node = { s.node with state := .starting (s.now + 10 * s.settings.listen) } ∧
      t.switch = { s.switch with target := some (targetOf t) } ∧ reported .node t ∧ ReportsGrow s t ∧ t.convergenceFresh := by
  refine ⟨?_, ?_, reported_raise _ _, ?_, ?_⟩
  · unfold enterStarting; simp [setNodeState, ms, Config.periodsPerMs, Nat.mul_comm]
  · refine Eq.trans (deriveTarget_switch (t := enterStarting s) (s := evaluateConvergence (originate
      (setNodeState (.starting (s.now + ms s.settings.listen)) s))) (by simp [enterStarting]) (by simp [enterStarting])
      (by simp) (settings_of_table (by simp)) (by simp)) ?_
    simp
  · exact (grow_raise _ _).after (ReportsGrow.trans ((grow_evaluateConvergence _).after (.of_eq (by simp))) (.of_eq rfl))
  · have hnotices : (enterStarting s).notices = (evaluateConvergence (originate
        (setNodeState (.starting (s.now + ms s.settings.listen)) s))).notices := by
      unfold enterStarting; simp
    exact convergenceFresh_of_evaluated (congrArg NoticeUnit.convergence hnotices) (by simp [enterStarting]) (by simp)
      (by rw [hnotices, records_evaluateConvergence]) (by simp)

/-- The one notice that entry into STARTING originates in a placed node (R74, R76, R146). -/
theorem enterStarting_notices {s : State} {own : Nat} (hp : s.position = some own) :
    let t := enterStarting s
    let v : QueuedNotice := { notice := t.noticeAt own s.notices.sequence, own := true }
    t.notices = { s.notices with
      queues := { east := offerNotice v s.notices.queues.east, west := offerNotice v s.notices.queues.west }
      sequence := s.notices.sequence + 1, refresh := some (s.now + 10 * s.settings.refresh)
      convergence := t.notices.convergence } := by
  have hown : ownNotice own (setNodeState (.starting (s.now + ms s.settings.listen)) s) =
      (enterStarting s).noticeAt own s.notices.sequence := by
    rw [ownNotice_eq]
    exact (noticeAt_congr (by simp [enterStarting]) (by simp) (by simp) _ _).symm
  have hnotices : (enterStarting s).notices = (evaluateConvergence (originate
      (setNodeState (.starting (s.now + ms s.settings.listen)) s))).notices := by
    unfold enterStarting; simp
  dsimp only
  rw [hnotices, evaluateConvergence_notices,
    originate_notices (setNodeState (.starting (s.now + ms s.settings.listen)) s) rfl hp, hown]
  simp [ms, Config.periodsPerMs, Nat.mul_comm]
  rfl

end Sys2Proof.Machine
end

section
/-! PROOF. RESTART (O58), block by block in the order it reaches them (log 20). -/

namespace Sys2Proof.Machine

/-! ### The engine, the circuits and the plans -/

/-- What ending the work in hand counts: a pass in progress as abandoned (R94). -/
theorem counter_endWork (s : State) (n : Nat) :
    (endWork s).counter n = if n = 1 ∧ s.lockHeld = true then saturate (s.counter n) else s.counter n := by
  unfold endWork State.lockHeld
  cases s.engine.state with
  | pass i =>
    refine (counter_bump ctrPassesAbandoned n s).trans ?_
    by_cases h : n = 1 <;> simp [ctrPassesAbandoned, h]
  | build k i => simp [State.counter]
  | _ => simp [State.counter, setEngine]

/-- What RESTART leaves of a record (R24). -/
theorem circuit_restartCircuits (s : State) (c : Nat) : (restartCircuits s).circuit c = (s.circuit c).restarted := by
  unfold State.circuit restartCircuits
  rw [(raiseAll_frame _ _).2.2.2.2.2.2.2.1]
  exact look_map CircuitRecord.absent s.table.circuits (fun _ r => r.restarted) c rfl

/-- Each circuit whose restoration or tag-check state RESTART changes is reported (R24). -/
theorem reported_restartCircuits {s : State} {c : Nat} (h : (s.circuit c).changedByRestart = true) :
    reported (.circuit c) (restartCircuits s) := by
  intro hen
  have hne : s.circuit c ≠ .absent := fun he => by rw [he] at h; cases h
  refine mem_raiseAll _ _ (List.mem_map_of_mem ?_) (by simpa [restartCircuits, State.settings] using hen)
  exact List.mem_map.mpr ⟨(c, s.circuit c), List.mem_filter.mpr ⟨mem_of_look rfl hne, h⟩, rfl⟩

/-- The tables after RESTART has reached the engine, the circuits and the plans. -/
def restartTables (s : State) : State := stalePlans (restartCircuits (restartEngine s))

/-- What RESTART leaves of the engine, the circuits, the plans and the counters (R24, R94, R110, R122). -/
theorem restartTables_spec (s : State) :
    let t := restartTables s
    t.engine = { state := .idle, grants := [], resultNumber := s.engine.resultNumber } ∧
      t.table = { s.table with circuits := t.table.circuits } ∧ (∀ c, t.circuit c = (s.circuit c).restarted) ∧
      (∀ c, (s.circuit c).changedByRestart = true → reported (.circuit c) t) ∧ noPlanValid t ∧
      (∀ n, t.counter n = if n = 1 ∧ s.lockHeld = true then saturate (s.counter n) else s.counter n) ∧ ReportsGrow s t ∧
      (t.pending = s.pending ∧ t.now = s.now ∧ t.node = s.node ∧ t.ports = s.ports ∧ t.tribs = s.tribs ∧ t.map = s.map ∧
        t.notices = s.notices ∧ t.switch = s.switch ∧ t.mgmt = s.mgmt) := by
  have hcircuit : ∀ c, (restartEngine s).circuit c = s.circuit c := fun c => by unfold State.circuit; simp
  have hu : Undisturbed s (restartTables s) := by
    have h1 : Undisturbed s (restartEngine s) := (undisturbed_endWork s).trans (.of_table_plans rfl rfl (fun _ _ h => h))
    exact (h1.trans (undisturbed_restartCircuits _)).trans (undisturbed_stalePlans _)
  have hgrow : ReportsGrow (restartEngine s) (restartCircuits (restartEngine s)) := (grow_raiseAll _ _).after (.of_eq rfl)
  refine ⟨?_, hu.table, fun c => ?_, fun c hc => ?_, fun k hk => ?_, fun n => ?_, (hgrow.after (.of_eq (by simp))).trans (.of_eq rfl), ?_⟩
  · unfold restartTables restartEngine
    simp [endWork_engine]
  · exact (circuit_restartCircuits (restartEngine s) c).trans (by rw [hcircuit])
  · exact reported_restartCircuits (by rw [hcircuit]; exact hc)
  · unfold restartTables
    rw [plan_stalePlans, if_pos (show k < (restartCircuits (restartEngine s)).ringSize from hk)]
    exact staled_not_valid _
  · rw [← counter_endWork]
    unfold State.counter restartTables restartEngine
    simp
  · simp [restartTables]

/-! ### The Notice Unit and the map -/

/-- The Notice Unit and the Failure Map after RESTART has reached them. -/
def restartSignals (s : State) : State := restartMap (restartNotices s)

/-- What RESTART leaves of the Notice Unit, the latches and the map (R30, R60, R62, R82). -/
theorem restartSignals_spec (s : State) :
    let t := restartSignals s
    (∀ p, t.port p = { s.port p with latch := .empty }) ∧
      t.notices = { s.notices with records := [], queues := { east := [], west := [] }, firstChoice := true } ∧
      (∀ p, t.map.copies.get p = { s.map.copies.get p with request := .none }) ∧ t.mapDerived ∧
      t.ownEndsStored (fun _ => (absentEnd, absentEnd)) ∧ mapReported s t ∧ ReportsGrow s t ∧
      (t.pending = s.pending ∧ t.now = s.now ∧ t.node = s.node ∧ t.tribs = s.tribs ∧ t.table = s.table ∧
        t.engine = s.engine ∧ t.plans = s.plans ∧ t.switch = s.switch ∧ t.mgmt = s.mgmt ∧ t.counters = s.counters) := by
  have hmap : (restartNotices s).map = s.map := by simp
  have hgrow : ReportsGrow (restartNotices s) (restartSignals s) := grow_writeMap _ _
  have hreported : mapReported (restartNotices s) (restartSignals s) := writeMap_reported _ _
  refine ⟨fun p => ?_, ?_, fun p => ?_, ?_, ?_, ?_, hgrow.after (.of_eq (by simp)), by simp [restartSignals]⟩
  · unfold State.port
    rw [show (restartSignals s).ports = (restartNotices s).ports by simp [restartSignals]]
    cases p <;> rfl
  · rw [show (restartSignals s).notices = (restartNotices s).notices by simp [restartSignals]]
    rfl
  · unfold restartSignals restartMap
    rw [writeMap_copies, storeOwnEnds_copies, hmap]
    exact clearRequests_get _ p
  · exact mapDerived_of_writeMap rfl (by simp [restartSignals]) (by simp [restartSignals])
      (settings_of_table (by simp [restartSignals]))
  · exact ownEndsStored_of_writeMap (m := { clearRequests (restartNotices s).map with spans := [] }) rfl
      (by simp [restartSignals]) (by simp [restartSignals]) (settings_of_table (by simp [restartSignals]))
      (fun p => by cases p <;> rfl)
  · unfold mapReported State.span at hreported ⊢
    rw [hmap, show (restartNotices s).reports = s.reports by simp] at hreported
    exact hreported

/-! ### The node state -/

/-- What RESTART leaves of the node state, the target and the Notice Unit (R76, R142, R146, R149). -/
theorem restartNode_spec (s : State) :
    let t := restartNode s
    t.node = { s.node with state :=
        if s.node.state.runs = true then .starting (s.now + 10 * s.settings.listen) else s.node.state } ∧
      t.switch = { s.switch with target := some (targetOf t) } ∧ t.convergenceFresh ∧ ReportsGrow s t ∧
      (s.node.state.runs = false → t.notices = { s.notices with convergence := t.notices.convergence }) := by
  unfold restartNode
  split
  · rename_i h
    obtain ⟨h1, h2, _, h4, h5⟩ := enterStarting_spec s
    exact ⟨h1, h2, h5, h4, fun hno => by rw [h] at hno; cases hno⟩
  · have hnotices : (deriveTarget (evaluateConvergence s)).notices = (evaluateConvergence s).notices := rfl
    refine ⟨by simp, ?_, ?_, (grow_evaluateConvergence s).trans (.of_eq rfl), fun _ => ?_⟩
    · exact (deriveTarget_switch (s := evaluateConvergence s) rfl rfl rfl rfl rfl).trans (by simp)
    · exact convergenceFresh_of_evaluated (s := s) rfl (by simp) (by simp) (by simp [records_evaluateConvergence]) (by simp)
    · rw [hnotices, evaluateConvergence_notices]

/-- A RESTART block by block (R172; log 20). -/
theorem restart_eq (s : State) :
    restart s = raise .node (if s.map.hasRequest then originate (restartNode (restartSignals (restartTables s)))
      else restartNode (restartSignals (restartTables s))) := rfl

/-- What the last origination of a RESTART, which a cleared request brings, leaves (R75; log 20). -/
theorem restart_frames (s : State) :
    let t := restart s
    let u := restartNode (restartSignals (restartTables s))
    t.pending = u.pending ∧ t.now = u.now ∧ t.node = u.node ∧ t.ports = u.ports ∧ t.tribs = u.tribs ∧ t.map = u.map ∧
      t.table = u.table ∧ t.engine = u.engine ∧ t.plans = u.plans ∧ t.switch = u.switch ∧ t.mgmt = u.mgmt ∧
      t.counters = u.counters ∧ ReportsGrow u t ∧
      t.notices = (if s.map.hasRequest then originate u else u).notices := by
  dsimp only
  rw [restart_eq]
  split
  · exact ⟨by simp, by simp, by simp, by simp, by simp, by simp, by simp, by simp, by simp, by simp, by simp, by simp,
      (grow_raise _ _).after (.of_eq (by simp)), by simp⟩
  · exact ⟨by simp, by simp, by simp, by simp, by simp, by simp, by simp, by simp, by simp, by simp, by simp, by simp,
      grow_raise _ _, by simp⟩

/-- A notice of a STARTING node has STARTING set (R74). -/
theorem noticeAt_starting {s : State} {e : Nat} (h : s.node.state = .starting e) (own : Nat) (q : Byte) :
    { s.noticeAt own q with starting := true } = s.noticeAt own q := by
  unfold State.noticeAt
  rw [h]
  rfl

/-- An entry into STARTING with empty queues, and an origination after it when a request was cleared, leave one own notice in
each queue (R71, R75, R76; log 20). -/
theorem restartNode_notices {s : State} {own : Nat} (hruns : s.node.state.runs = true) (hp : s.position = some own)
    (hq : s.notices.queues = { east := [], west := [] }) (cleared : Bool) :
    let u := restartNode s
    let t := if cleared = true then originate u else u
    let before := if cleared = true then s.notices.sequence + 1 else s.notices.sequence
    (∀ p, t.notices.queues.get p = [{ notice := u.noticeAt own before, own := true }]) ∧
      t.notices.sequence = before + 1 ∧ t.notices.refresh = some (s.now + 10 * s.settings.refresh) := by
  have hu : restartNode s = enterStarting s := if_pos hruns
  have hnotices := enterStarting_notices hp
  obtain ⟨hnode, _⟩ := enterStarting_spec s
  obtain ⟨_, hnow, _, _, _, htable, _⟩ := restartNode_frame s
  rw [hu] at hnow htable ⊢
  have hruns' : (enterStarting s).node.state.runs = true := by rw [hnode]; rfl
  have hp' : (enterStarting s).position = some own :=
    (position_congr (by rw [hnode]) (by rw [htable])).trans hp
  have horigin := originate_notices (enterStarting s) hruns' hp'
  have hsettings := settings_of_table htable
  generalize enterStarting s = u at *
  rw [hq] at hnotices
  cases cleared
  · refine ⟨fun p => ?_, ?_, ?_⟩
    · rw [if_neg Bool.false_ne_true, if_neg Bool.false_ne_true, hnotices]
      cases p <;> rfl
    · rw [if_neg Bool.false_ne_true, if_neg Bool.false_ne_true, hnotices]
    · rw [if_neg Bool.false_ne_true, hnotices]
  · have hqueues : u.notices.queues = Pair.mk [⟨u.noticeAt own s.notices.sequence, true⟩]
        [⟨u.noticeAt own s.notices.sequence, true⟩] := by rw [hnotices]; rfl
    have hseq : u.notices.sequence = s.notices.sequence + 1 := by rw [hnotices]
    dsimp only
    rw [if_pos rfl, if_pos rfl, horigin, hqueues, ownNotice_eq, hseq, hnow, hsettings]
    refine ⟨fun p => ?_, rfl, by simp [ms, Config.periodsPerMs, Nat.mul_comm]⟩
    cases p <;> exact offerNotice_own_single rfl rfl

/-- The Notice Unit after a RESTART, from a state whose node is placed exactly in STARTING and ACTIVE (R73, R76, R82, R146). -/
theorem restart_notices {s : State} (hs : s.stateAllows) :
    let t := restart s
    (∀ q, t.record q = .never) ∧ t.notices.firstChoice = true ∧
    (s.position = none → (∀ p, t.notices.queues.get p = []) ∧ t.notices.sequence = s.notices.sequence ∧
      t.notices.refresh = none) ∧
    (∀ own, s.position = some own →
      let before := if s.map.hasRequest = true then s.notices.sequence + 1 else s.notices.sequence
      (∀ p, t.notices.queues.get p = [{ notice := { t.noticeAt own before with starting := true }, own := true }]) ∧
      t.notices.sequence = before + 1 ∧ t.notices.refresh = some (s.now + 10 * s.settings.refresh)) := by
  obtain ⟨hruns, hidle, _⟩ := hs
  obtain ⟨_, htable1, _, _, _, _, _, _, hnow1, hnode1, _, _, _, hnot1, _, _⟩ := restartTables_spec s
  obtain ⟨_, hnot2, _, _, _, _, _, _, hnow2, hnode2, _, htable2, _, _, _, _, _⟩ := restartSignals_spec (restartTables s)
  obtain ⟨_, _, hnode4, _, _, hmap4, htable4, _, _, _, _, _, _, hnot4⟩ := restart_frames s
  rw [hnow1] at hnow2
  rw [hnode1] at hnode2
  rw [hnot1] at hnot2
  have hring : (restartSignals (restartTables s)).table.ring = s.table.ring := by rw [htable2, htable1]
  have hsettings : (restartSignals (restartTables s)).settings = s.settings := by
    unfold State.settings; rw [htable2, htable1]
  generalize restartSignals (restartTables s) = b at *
  obtain ⟨hnode3, _, _, _, hquiet⟩ := restartNode_spec b
  have hposition : b.position = s.position := position_congr (congrArg Node.strap hnode2) hring
  have hposition' : (restartNode b).position = s.position :=
    (position_congr (by rw [hnode3]) (by simp)).trans hposition
  have hkept : (restartNode b).notices.records = b.notices.records ∧
      (restartNode b).notices.firstChoice = b.notices.firstChoice := by
    cases hp : b.position with
    | none =>
      have hno : b.node.state.runs = false := by
        rw [hnode2, hruns, placed_eq_false, ← hposition, hp]
      rw [hquiet hno]
      exact ⟨rfl, rfl⟩
    | some own =>
      have hyes : b.node.state.runs = true := by
        rw [hnode2, hruns, placed_iff]; exact ⟨own, hposition ▸ hp⟩
      rw [show restartNode b = enterStarting b from if_pos hyes, enterStarting_notices hp]
      exact ⟨rfl, rfl⟩
  have hkept' : (restart s).notices.records = b.notices.records ∧
      (restart s).notices.firstChoice = b.notices.firstChoice := by
    rw [hnot4]
    split
    · rw [originate_notices_kept]; exact hkept
    · exact hkept
  rw [hnot2] at hkept' hquiet
  refine ⟨fun q => ?_, hkept'.2, fun hp => ?_, fun own hp => ?_⟩
  · unfold State.record
    rw [hkept'.1]
    rfl
  · have hno : s.node.state.runs = false := by rw [hruns, placed_eq_false, hp]
    have hsame : (restart s).notices = (restartNode b).notices := by
      rw [hnot4, originate_idle _ (.inr (hposition'.trans hp)), ite_self]
    rw [hsame, hquiet (by rw [hnode2]; exact hno)]
    exact ⟨fun p => by cases p <;> rfl, rfl, (hidle hno).2⟩
  · have hyes : s.node.state.runs = true := by rw [hruns, placed_iff]; exact ⟨own, hp⟩
    have hone := restartNode_notices (hnode2.symm ▸ hyes) (hposition.trans hp) (by rw [hnot2]) s.map.hasRequest
    rw [hsettings, hnow2] at hone
    have hnotice : ∀ q, { (restart s).noticeAt own q with starting := true } = (restartNode b).noticeAt own q := fun q => by
      have hst : (restart s).node.state = .starting (b.now + 10 * b.settings.listen) := by
        rw [hnode4, hnode3, if_pos (hnode2.symm ▸ hyes)]
      rw [noticeAt_starting hst]
      exact noticeAt_congr hnode4 htable4 (by rw [hmap4]) own q
    dsimp only
    simp only [hnotice]
    rw [hnot4]
    rw [hnot2] at hone
    exact hone

/-! ### The statement -/

/-- RESTART taken by itself gives OK, and then its restart (R172). -/
theorem exec_restart {s : State} (h : s.canTake) : exec .restart s = .next (restart (s.answeredWith .ok 0 [])) := by
  have htake : takeDirective (Chain.start none []) false .restart s = restart (s.answeredWith .ok 0 []) := rfl
  have hidle : (restart (s.answeredWith .ok 0 [])).mgmt.execution = .idle := by rw [(restart_frame _).2.2.2]; rfl
  refine congrArg Host.Outcome.next ?_
  show directive .restart s = _
  rw [directive_alone h, htake, runPaused_stopped none hidle]

/-- A record after RESTART: one in service NORMAL with MATCH, any other as it was (R24, R142). -/
theorem restarted_inService (f : CircuitFields) (a : Option Attachment) (r : Restoration) (k : Option TagCheck) :
    ∃ k', (CircuitRecord.inService f a r k).restarted = .inService f a .normal k' ∧ (k' = none ↔ k = none) ∧
      ∀ x, k' = some x → x.state = .match_ ∧ x.run = 0 ∧ x.squelched = false := by
  refine ⟨_, rfl, by cases k <;> simp, fun x hx => ?_⟩
  cases k with
  | none => cases hx
  | some y => cases hx; exact ⟨rfl, rfl, rfl⟩

theorem changedByRestart_inService (f : CircuitFields) (a : Option Attachment) (r : Restoration) (k : Option TagCheck) :
    (CircuitRecord.inService f a r k).changedByRestart = true ↔ r ≠ .normal ∨ ∃ x, k = some x ∧ x.state ≠ .match_ := by
  unfold CircuitRecord.changedByRestart
  cases k <;> simp

theorem restarted_of_not_inService {x : CircuitRecord} (h : ∀ f a r k, x ≠ .inService f a r k) : x.restarted = x := by
  cases x with
  | inService f a r k => exact absurd rfl (h f a r k)
  | _ => rfl

/-- The tables, the engine, the plans and the counters after a RESTART are those it leaves first; the map and the ports those it
leaves next; the rest but the node state, the target and the Notice Unit is kept. -/
theorem restart_kept (s : State) :
    let t := restart s
    (t.table = (restartTables s).table ∧ t.engine = (restartTables s).engine ∧ t.plans = (restartTables s).plans ∧
      t.counters = (restartTables s).counters ∧ ReportsGrow (restartTables s) t) ∧
    (t.map = (restartSignals (restartTables s)).map ∧ t.ports = (restartSignals (restartTables s)).ports ∧
      ReportsGrow (restartSignals (restartTables s)) t) ∧
    (t.pending = s.pending ∧ t.now = s.now ∧ t.tribs = s.tribs ∧ t.mgmt = s.mgmt ∧ t.settings = s.settings ∧
      t.table.ring = s.table.ring) := by
  obtain ⟨_, htable1, _, _, _, _, _, hpend1, hnow1, _, _, htribs1, _, _, _, hmgmt1⟩ := restartTables_spec s
  obtain ⟨_, _, _, _, _, _, hgrow2, hpend2, hnow2, _, htribs2, htable2, hengine2, hplans2, _, hmgmt2, hcounters2⟩ :=
    restartSignals_spec (restartTables s)
  obtain ⟨_, _, _, hgrow3, _⟩ := restartNode_spec (restartSignals (restartTables s))
  obtain ⟨hpend3, hnow3, hports3, htribs3, hmap3, htable3, hengine3, hplans3, hmgmt3, hcounters3⟩ :=
    restartNode_frame (restartSignals (restartTables s))
  obtain ⟨hpend4, hnow4, _, hports4, htribs4, hmap4, htable4, hengine4, hplans4, _, hmgmt4, hcounters4, hgrow4, _⟩ :=
    restart_frames s
  have htable : (restart s).table = (restartTables s).table := by rw [htable4, htable3, htable2]
  refine ⟨⟨htable, ?_, ?_, ?_, (hgrow2.trans hgrow3).trans hgrow4⟩, ⟨?_, ?_, hgrow3.trans hgrow4⟩, ?_, ?_, ?_, ?_, ?_, ?_⟩
  · rw [hengine4, hengine3, hengine2]
  · rw [hplans4, hplans3, hplans2]
  · rw [hcounters4, hcounters3, hcounters2]
  · rw [hmap4, hmap3]
  · rw [hports4, hports3]
  · rw [hpend4, hpend3, hpend2, hpend1]
  · rw [hnow4, hnow3, hnow2, hnow1]
  · rw [htribs4, htribs3, htribs2, htribs1]
  · rw [hmgmt4, hmgmt3, hmgmt2, hmgmt1]
  · unfold State.settings; rw [htable, htable1]
  · rw [htable, htable1]

/-- The node state, the target and the convergence status after a RESTART (R79, R134, R146, R149). -/
theorem restart_node (s : State) :
    let t := restart s
    t.node = { s.node with state :=
        if s.node.state.runs = true then .starting (s.now + 10 * s.settings.listen) else s.node.state } ∧
      t.switch = { s.switch with target := some (targetOf t) } ∧ t.convergenceFresh := by
  obtain ⟨_, htable1, _, _, _, _, _, _, hnow1, hnode1, _, _, _, _, hswitch1, _⟩ := restartTables_spec s
  obtain ⟨_, _, _, _, _, _, _, _, hnow2, hnode2, _, htable2, _, _, hswitch2, _⟩ := restartSignals_spec (restartTables s)
  obtain ⟨hnode3, hswitch3, hfresh3, _, _⟩ := restartNode_spec (restartSignals (restartTables s))
  obtain ⟨_, _, hnode4, _, _, _, htable4, _, _, hswitch4, _, _, _, hnot4⟩ := restart_frames s
  have hsettings : (restartSignals (restartTables s)).settings = s.settings := by unfold State.settings; rw [htable2, htable1]
  have hnotices : (restart s).notices.records = (restartNode (restartSignals (restartTables s))).notices.records ∧
      (restart s).notices.convergence = (restartNode (restartSignals (restartTables s))).notices.convergence := by
    rw [hnot4]
    split
    · rw [originate_notices_kept]; exact ⟨rfl, rfl⟩
    · exact ⟨rfl, rfl⟩
  generalize restart s = t at *
  generalize restartNode (restartSignals (restartTables s)) = u at *
  refine ⟨?_, ?_, ?_⟩
  · rw [hnode4, hnode3, hnode2, hnode1, hnow2, hnow1, hsettings]
  · rw [hswitch4, hswitch3, hswitch2, hswitch1, targetOf_congr (s := u) hnode4 (by rw [htable4])
      (settings_of_table htable4) (by rw [htable4])]
  · unfold State.convergenceFresh at hfresh3 ⊢
    rw [hnotices.2, hfresh3]
    exact (convergenceOf_congr (by rw [hnode4]) (by rw [htable4]) hnotices.1 (by rw [htable4])).symm

/-- The map after a RESTART (R45, R56, R58, R60). -/
theorem restart_map (s : State) :
    let t := restart s
    (∀ p, t.port p = { s.port p with latch := .empty }) ∧
      (∀ p, t.map.copies.get p = { s.map.copies.get p with request := .none }) ∧ t.mapDerived ∧
      t.ownEndsStored (fun _ => (absentEnd, absentEnd)) ∧ mapReported s t := by
  obtain ⟨_, htable1, _, _, _, _, hgrow1, _, _, hnode1, hports1, _, hmap1, _, _, _⟩ := restartTables_spec s
  obtain ⟨hports2, _, hcopies2, hderived2, hends2, hreported2, _, _, _, hnode2, _, htable2, _⟩ :=
    restartSignals_spec (restartTables s)
  obtain ⟨_, ⟨hmap, hports, hgrow⟩, _, _, _, _, hsettings, hring⟩ := restart_kept s
  have hnode := (restart_node s).1
  generalize restart s = t at *
  generalize restartSignals (restartTables s) = b at *
  generalize restartTables s = a at *
  have hring' : t.table.ring = b.table.ring := by rw [hring, htable2, htable1]
  have hstrap : t.node.strap = b.node.strap := by rw [hnode, hnode2, hnode1]
  have hsettings' : t.settings = b.settings := by rw [hsettings]; unfold State.settings; rw [htable2, htable1]
  refine ⟨fun p => ?_, fun p => ?_, mapDerived_congr hmap hring' hstrap hsettings' hderived2,
    ownEndsStored_congr hmap hring' hstrap hsettings' hends2, ?_⟩
  · have h := hports2 p
    unfold State.port at h ⊢
    rw [hports, h, hports1]
  · rw [hmap, hcopies2, hmap1]
  · refine mapReported_keeps (t := b) ?_ hmap hsettings' hgrow.subjects
    unfold mapReported State.span at hreported2 ⊢
    rw [hmap1] at hreported2
    exact ⟨hgrow1.subjects.trans hreported2.1, hreported2.2⟩

/-- Each circuit after a RESTART, and the reports of those it changes (R24). -/
theorem restart_circuit (s : State) (c : Nat) :
    (restart s).circuit c = (s.circuit c).restarted ∧
      ((s.circuit c).changedByRestart = true → reported (.circuit c) (restart s)) := by
  obtain ⟨_, htable1, hcircuit1, hreport1, _⟩ := restartTables_spec s
  obtain ⟨⟨htable, _, _, _, hgrow⟩, _⟩ := restart_kept s
  refine ⟨?_, fun h => hgrow.reported (settings_of_table htable) (hreport1 c h)⟩
  rw [← hcircuit1 c]
  unfold State.circuit
  rw [htable]

/-- Settles O58: block by block, in the order RESTART reaches them. -/
theorem restartStartsEveryBlockAfresh : Obligations.RestartStartsEveryBlockAfresh := by
  unfold Obligations.RestartStartsEveryBlockAfresh
  refine ⟨fun s h => exec_restart h, fun s hs => ?_⟩
  obtain ⟨hnever, hfirst, hnone, hown⟩ := restart_notices hs
  obtain ⟨hengine1, htable1, _, _, hplan1, hcounter1, hgrow1, _, _, _, _, _, _, _, _, _⟩ := restartTables_spec s
  obtain ⟨⟨htable, hengine, hplans, hcounters, hgrow⟩, _, hpend, hnow, htribs, hmgmt, _, _⟩ := restart_kept s
  obtain ⟨hnode, hswitch, hfresh⟩ := restart_node s
  obtain ⟨hports, hcopies, hderived, hends, hmapReported⟩ := restart_map s
  have hcircuit := fun c => (restart_circuit s c).1
  have hreport := fun c => (restart_circuit s c).2
  have hreported : reported .node (restart s) := restart_eq s ▸ reported_raise _ _
  rw [hengine1] at hengine
  generalize restart s = t at *
  have hcounter : ∀ n, t.counter n = (restartTables s).counter n := fun n => by unfold State.counter; rw [hcounters]
  have hnoPlan : noPlanValid t := by
    unfold noPlanValid State.plan State.ringSize at hplan1 ⊢
    rw [htable, hplans]
    exact hplan1
  have hstanding : keepsStanding s t :=
    ⟨hpend, by rw [hnode], htribs, by rw [hswitch], (hgrow1.trans hgrow).number, (hgrow1.trans hgrow).snapshot⟩
  refine ⟨by rw [hengine], by rw [hengine], by rw [hengine], hnoPlan, fun c f x r k hc => ⟨?_, fun hch => hreport c ?_⟩,
    fun c hc => ?_, fun p => ⟨by rw [hports], hports p⟩, hnever, hfirst, hcopies, hderived, hends, hmapReported, hfresh, hnone,
    hown, hnode, hswitch, hreported, ?_, hnow, hstanding, ?_, fun n hn => ?_, hmgmt⟩
  · rw [hcircuit, hc]
    exact restarted_inService f x r k
  · rw [hc]
    exact (changedByRestart_inService f x r k).mpr hch
  · rw [hcircuit, restarted_of_not_inService hc]
  · rw [htable, htable1]
  · rw [hcounter, hcounter1]; simp
  · rw [hcounter, hcounter1, if_neg (fun h => hn h.1)]

end Sys2Proof.Machine
end

section
/-! PROOF. LOAD on the RING table (O49): the entries written, and the evaluation of a changed ring map (R3). -/

namespace Sys2Proof.Machine

/-! ### The entries written -/

/-- The state with another ring map, and the load cursor at entry `k`. -/
def State.withRing (s : State) (ring : Table Byte) (k : Nat) : State :=
  { s with table := { s.table with ring := ring }, mgmt := { s.mgmt with cursor := { table := .ring, index := k } } }

@[simp] theorem withRing_frame (s : State) (ring : Table Byte) (k : Nat) :
    (s.withRing ring k).pending = s.pending ∧ (s.withRing ring k).now = s.now ∧ (s.withRing ring k).node = s.node ∧
      (s.withRing ring k).ports = s.ports ∧ (s.withRing ring k).tribs = s.tribs ∧ (s.withRing ring k).map = s.map ∧
      (s.withRing ring k).notices = s.notices ∧ (s.withRing ring k).table = { s.table with ring := ring } ∧
      (s.withRing ring k).engine = s.engine ∧ (s.withRing ring k).plans = s.plans ∧
      (s.withRing ring k).switch = s.switch ∧ (s.withRing ring k).reports = s.reports ∧
      (s.withRing ring k).counters = s.counters := ⟨rfl, rfl, rfl, rfl, rfl, rfl, rfl, rfl, rfl, rfl, rfl, rfl, rfl⟩

/-- The number of entries that a LOAD from entry `k` on writes: up to a byte of 255 or the table's end (R1, R165). -/
def entriesTaken (k : Nat) (bulk : List Byte) : Nat := min (32 - k) (bulk.takeWhile (fun v => v != 255)).length

/-- The code that ends the load. -/
def entriesCode (k : Nat) (bulk : List Byte) : ResultCode :=
  if entriesTaken k bulk = bulk.length then .ok else if k + entriesTaken k bulk = 32 then .endOfTable else .range

/-- An entry that is written is one more, and the rest follows from the entry after it. -/
theorem entriesTaken_cons {k : Nat} {v : Byte} {bulk : List Byte} (hk : k < 32) (hv : v ≠ 255) :
    entriesTaken k (v :: bulk) = entriesTaken (k + 1) bulk + 1 := by
  unfold entriesTaken
  rw [List.takeWhile_cons_of_pos (by simpa using hv), List.length_cons]
  omega

theorem entriesCode_cons {k : Nat} {v : Byte} {bulk : List Byte} (hk : k < 32) (hv : v ≠ 255) :
    entriesCode k (v :: bulk) = entriesCode (k + 1) bulk := by
  unfold entriesCode
  rw [entriesTaken_cons hk hv, List.length_cons, show k + (entriesTaken (k + 1) bulk + 1) = k + 1 + entriesTaken (k + 1) bulk by omega]
  simp

theorem withRing_self {s : State} {k : Nat} (hc : s.mgmt.cursor = { table := .ring, index := k }) :
    s.withRing s.table.ring k = s := by
  obtain ⟨_, _, _, _, _, _, _, _, _, _, _, ⟨_, _, _, _⟩, _, _⟩ := s
  cases hc
  rfl

/-- An entry other than 255 is written at the cursor, which moves on (R1, R165). -/
theorem writeRing_ok {s : State} {k : Nat} (hc : s.mgmt.cursor = { table := .ring, index := k }) {v : Byte} (hv : v ≠ 255) :
    ∃ t, writeRing [v] s = .ok t ∧ advanceCursor t = s.withRing (put 0 s.table.ring k v) (k + 1) := by
  refine ⟨_, if_neg hv, ?_⟩
  unfold advanceCursor setCursor State.withRing
  dsimp only
  rw [hc]
  rfl

/-- What writing the images of a LOAD on the RING table leaves (R1, R165). -/
theorem loadImages_ring (bulk : List Byte) {k : Nat} {s : State} (hc : s.mgmt.cursor = { table := .ring, index := k })
    (hk : k ≤ 32) : ∃ ring,
      loadImages writeRing 32 (imagesOf 1 bulk) 0 s = { state := s.withRing ring (k + entriesTaken k bulk)
                                                        code := entriesCode k bulk, count := entriesTaken k bulk } ∧
      ∀ j, look 0 ring j = if k ≤ j ∧ j < k + entriesTaken k bulk then bulk.getD (j - k) 0 else look 0 s.table.ring j := by
  induction bulk generalizing k s with
  | nil =>
    have htaken : entriesTaken k [] = 0 := by simp [entriesTaken]
    refine ⟨s.table.ring, ?_, fun j => (if_neg (by omega)).symm⟩
    rw [htaken, Nat.add_zero, withRing_self hc]
    simp [imagesOf, images, loadImages, htaken, entriesCode]
  | cons v bulk ih =>
    have himages : imagesOf 1 (v :: bulk) = [v] :: imagesOf 1 bulk := imagesOf_append (image := [v]) Nat.one_pos rfl bulk
    have hindex : s.mgmt.cursor.index = k := by rw [hc]
    rw [himages]
    rcases Nat.lt_or_ge k 32 with hlt | hge
    · by_cases hv : v = 255
      · have htaken : entriesTaken k (v :: bulk) = 0 := by simp [entriesTaken, hv]
        refine ⟨s.table.ring, ?_, fun j => (if_neg (by omega)).symm⟩
        rw [loadImages_error (by omega) (if_pos hv), htaken, Nat.add_zero, withRing_self hc]
        simp [entriesCode, htaken, Nat.ne_of_lt hlt]
      · obtain ⟨t, hwrite, hadvance⟩ := writeRing_ok hc hv
        obtain ⟨ring, hload, hlook⟩ := ih (s := s.withRing (put 0 s.table.ring k v) (k + 1)) rfl hlt
        refine ⟨ring, ?_, fun j => ?_⟩
        · rw [loadImages_ok (by omega) hwrite, hadvance, loadImages_count, hload, entriesCode_cons hlt hv,
            entriesTaken_cons hlt hv, ← Nat.add_assoc, Nat.add_right_comm]
          rfl
        · rw [hlook, entriesTaken_cons hlt hv]
          dsimp only [withRing_frame, State.withRing]
          rw [look_put]
          rcases Nat.lt_trichotomy j k with hj | rfl | hj
          · rw [if_neg (by omega), if_neg (by omega), if_neg (by omega)]
          · rw [if_neg (by omega), if_pos rfl, if_pos (by omega), Nat.sub_self]
            rfl
          · rw [if_neg (show j ≠ k by omega), show j - k = (j - (k + 1)) + 1 by omega, List.getD_cons_succ]
            exact ite_congr (by simp only [eq_iff_iff]; omega) (fun _ => rfl) (fun _ => rfl)
    · obtain rfl : k = 32 := by omega
      have htaken : entriesTaken 32 (v :: bulk) = 0 := by simp [entriesTaken]
      refine ⟨s.table.ring, ?_, fun j => (if_neg (by omega)).symm⟩
      rw [loadImages_end (by omega), htaken, Nat.add_zero, withRing_self hc]
      simp [entriesCode, htaken]

/-! ### A changed ring map -/

/-- A changed ring map up to the map: records and queues cleared, the map rebuilt, no notice yet. -/
def ringRebuilt (s : State) : State := rebuildMap (clearNotices (plansOfRing (countRingChange (endWork s))))

theorem ringDelivered_eq (s : State) : ringDelivered s =
    if (ringRebuilt s).table.digest = s.table.digest then ringRebuilt s else originate (ringRebuilt s) := rfl

/-- What a changed ring map leaves of the rest up to the map (R3, R50, R80). -/
theorem ringRebuilt_spec (s : State) :
    let t := ringRebuilt s
    t.table = { s.table with generation := s.table.generation + 1, digest := digestOf s.table } ∧
      t.notices = { s.notices with records := [], queues := { east := [], west := [] } } ∧
      t.node = s.node ∧ t.now = s.now ∧ t.switch = s.switch ∧ ReportsGrow s t := by
  have hgrow : ReportsGrow (clearNotices (plansOfRing (countRingChange (endWork s)))) (ringRebuilt s) := grow_writeMap _ _
  refine ⟨?_, ?_, by simp [ringRebuilt], by simp [ringRebuilt], by simp [ringRebuilt], hgrow.after (.of_eq (by simp))⟩
  · unfold ringRebuilt countRingChange; simp
  · unfold ringRebuilt
    rw [(rebuildMap_frame _).2.2.2.2.2.1]
    unfold clearNotices
    simp

/-- What a changed ring map leaves of the map (R45, R50). -/
theorem ringRebuilt_map (s : State) :
    let t := ringRebuilt s
    (∀ p, t.map.copies.get p = { s.map.copies.get p with request := .none }) ∧ t.mapDerived ∧
      t.ownEndsStored (fun _ => (absentEnd, absentEnd)) := by
  have hmap : (clearNotices (plansOfRing (countRingChange (endWork s)))).map = s.map := by simp
  refine ⟨fun p => ?_, ?_, ?_⟩
  · unfold ringRebuilt rebuildMap
    rw [writeMap_copies, storeOwnEnds_copies, hmap]
    exact clearRequests_get _ p
  · exact mapDerived_of_writeMap rfl (by simp [ringRebuilt]) (by simp [ringRebuilt]) (settings_of_table (by simp [ringRebuilt]))
  · exact ownEndsStored_of_writeMap (m := { clearRequests (clearNotices (plansOfRing (countRingChange (endWork s)))).map with
        spans := [] }) rfl (by simp [ringRebuilt]) (by simp [ringRebuilt]) (settings_of_table (by simp [ringRebuilt]))
      (fun p => by cases p <;> rfl)

/-- What the notice of a changed digest leaves: at most one notice of the node's own position in each queue, and the sequence
moved on with it (R75; log 12). -/
theorem ringDelivered_notices (s : State) :
    let t := ringDelivered s
    t.notices.records = [] ∧
      (s.position = none → t.notices.queues = { east := [], west := [] } ∧ t.notices.sequence = s.notices.sequence ∧
        t.notices.refresh = s.notices.refresh) ∧
      ∀ own, s.position = some own →
        t.notices.sequence = s.notices.sequence + (if s.node.state.runs = true ∧ t.table.digest ≠ s.table.digest then 1 else 0) ∧
        ∀ v : QueuedNotice, v.own = true → v.notice.position = own → ∀ p, offerNotice v (t.notices.queues.get p) = [v] := by
  obtain ⟨htable, hnotices, hnode, _⟩ := ringRebuilt_spec s
  have hposition : (ringRebuilt s).position = s.position := position_congr (by rw [hnode]) (by rw [htable])
  have hdigest : (ringDelivered s).table.digest = (ringRebuilt s).table.digest := by rw [(ringDelivered_tables s).1, htable]
  have hquiet : ((ringRebuilt s).table.digest = s.table.digest ∨ s.node.state.runs = false ∨ s.position = none) →
      ringDelivered s = ringRebuilt s := fun h => by
    rw [ringDelivered_eq]
    split
    · rfl
    · rename_i hd
      exact originate_idle _ (by rw [hnode, hposition]; exact h.resolve_left hd)
  have hmoved : (ringRebuilt s).table.digest ≠ s.table.digest → ringDelivered s = originate (ringRebuilt s) := fun h => by
    rw [ringDelivered_eq, if_neg h]
  dsimp only
  rw [hdigest]
  generalize ringDelivered s = t at *
  generalize ringRebuilt s = c at *
  refine ⟨?_, fun hp => ?_, fun own hp => ?_⟩
  · by_cases hd : c.table.digest = s.table.digest
    · rw [hquiet (.inl hd), hnotices]
    · rw [hmoved hd, records_originate, hnotices]
  · rw [hquiet (.inr (.inr hp)), hnotices]
    exact ⟨rfl, rfl, rfl⟩
  · by_cases hd : s.node.state.runs = true ∧ c.table.digest ≠ s.table.digest
    · have horigin := originate_notices c (by rw [hnode]; exact hd.1) (hposition.trans hp)
      rw [if_pos hd, hmoved hd.2, horigin, hnotices]
      exact ⟨rfl, fun v hv hown p => by cases p <;> exact offerNotice_own_single hv hown.symm⟩
    · have hsame : t = c := hquiet (by
        by_cases hr : s.node.state.runs = true
        · exact .inl (by_contra fun h => hd ⟨hr, h⟩)
        · exact .inr (.inl (by simpa using hr)))
      rw [if_neg hd, hsame, hnotices]
      exact ⟨(add_zero _).symm, fun v _ _ p => by cases p <;> rfl⟩

/-- What a changed ring map leaves up to the node state's answer (R3, R50). -/
theorem ringDelivered_spec (s : State) :
    let t := ringDelivered s
    t.node = s.node ∧ t.now = s.now ∧ t.switch = s.switch ∧ ReportsGrow s t ∧ t.map = (ringRebuilt s).map := by
  obtain ⟨_, _, hnode, hnow, hswitch, hgrow⟩ := ringRebuilt_spec s
  rw [ringDelivered_eq]
  split
  · exact ⟨hnode, hnow, hswitch, hgrow, rfl⟩
  · exact ⟨by simp [hnode], by simp [hnow], by simp [hswitch], hgrow.trans (.of_eq (by simp)), by simp⟩

theorem ringDelivered_rest (s : State) :
    let t := ringDelivered s
    t.pending = s.pending ∧ t.ports = s.ports ∧ t.tribs = s.tribs ∧ t.mgmt = s.mgmt := by
  rw [ringDelivered_eq]
  split <;> simp [ringRebuilt]

/-- What entry into UNPLACED does (R146): the refresh timer stops. -/
theorem enterUnplaced_spec (s : State) :
    let t := enterUnplaced s
    t.node = { s.node with state := .unplaced } ∧ t.switch.connections = s.switch.connections ∧ ReportsGrow s t ∧
      t.notices = { s.notices with refresh := none, convergence := t.notices.convergence } := by
  refine ⟨?_, ?_, ?_, ?_⟩
  · unfold enterUnplaced; simp [setNodeState]
  · unfold enterUnplaced; simp [deriveTarget, setNodeState]
  · have hgrow : ∀ u : State, u.reports = s.reports → ReportsGrow s (raise .node (deriveTarget (evaluateConvergence u))) :=
      fun u hu => ((ReportsGrow.of_eq hu).trans (grow_evaluateConvergence u)).trans
        ((grow_raise _ _).after (.of_eq (t := deriveTarget (evaluateConvergence u)) rfl))
    exact hgrow _ rfl
  · have hnotices : ∀ u : State, (raise .node (deriveTarget (evaluateConvergence u))).notices = (evaluateConvergence u).notices :=
      fun u => by simp [deriveTarget]
    unfold enterUnplaced
    rw [hnotices, evaluateConvergence_notices]
    rfl

/-- What the node state's answer leaves of the rest (R145). -/
theorem nodeAfterRing_spec (s : State) :
    let t := nodeAfterRing s
    t.node.strap = s.node.strap ∧ t.switch.connections = s.switch.connections ∧ ReportsGrow s t ∧
      t.notices.records = s.notices.records := by
  unfold nodeAfterRing
  split
  · rename_i hp
    obtain ⟨own, hp⟩ := (placed_iff s).mp hp
    obtain ⟨hnode, hswitch, _, hgrow, _⟩ := enterStarting_spec s
    exact ⟨by rw [hnode], by rw [hswitch], hgrow, by rw [enterStarting_notices hp]⟩
  · split
    · obtain ⟨hnode, hswitch, hgrow, hnotices⟩ := enterUnplaced_spec s
      exact ⟨by rw [hnode], hswitch, hgrow, by rw [hnotices]⟩
    · exact ⟨rfl, rfl, .refl s, rfl⟩

/-- What a changed ring map leaves whatever the node state answers (R3, R45, R50, R80, R94). -/
theorem ringChanged_spec (s : State) :
    let t := nodeAfterRing (ringDelivered s)
    (∀ q, t.record q = .never) ∧ t.engine.state = .idle ∧ t.mapDerived ∧ t.table.digest = digestOf t.table ∧
      (∀ p, t.map.copies.get p = { s.map.copies.get p with request := .none }) ∧
      t.ownEndsStored (fun _ => (absentEnd, absentEnd)) ∧ t.node.strap = s.node.strap ∧
      t.switch.connections = s.switch.connections ∧ ReportsGrow s t := by
  obtain ⟨hnode, _, hswitch, hgrow, hmap⟩ := ringDelivered_spec s
  obtain ⟨hstrap', hswitch', hgrow', hrecords'⟩ := nodeAfterRing_spec (ringDelivered s)
  obtain ⟨htable', hengine', _⟩ := nodeAfterRing_tables s
  obtain ⟨htable0, _, hnode0, _⟩ := ringRebuilt_spec s
  obtain ⟨hcopies, hderived, hends⟩ := ringRebuilt_map s
  have hrecords := (ringDelivered_notices s).1
  have hmap' : (nodeAfterRing (ringDelivered s)).map = (ringRebuilt s).map := (nodeAfterRing_frame _).2.2.2.2.1.trans hmap
  generalize nodeAfterRing (ringDelivered s) = t at *
  have hring : t.table.ring = (ringRebuilt s).table.ring := by rw [htable', htable0]
  have hstrap : t.node.strap = (ringRebuilt s).node.strap := by rw [hstrap', hnode, hnode0]
  have hsettings : t.settings = (ringRebuilt s).settings := by unfold State.settings; rw [htable', htable0]
  refine ⟨fun q => ?_, by rw [hengine'], mapDerived_congr hmap' hring hstrap hsettings hderived, ?_, fun p => ?_,
    ownEndsStored_congr hmap' hring hstrap hsettings hends, ?_, ?_, hgrow.trans hgrow'⟩
  · unfold State.record
    rw [hrecords', hrecords]
    rfl
  · rw [htable']
    exact (digestOf_congr (fun _ _ => rfl) rfl rfl).symm
  · rw [hmap', hcopies]
  · rw [hstrap', hnode]
  · rw [hswitch', hswitch]

/-- A changed ring map that places the node enters STARTING afresh (R112, R145, R146). -/
theorem ringChanged_placed {s : State} {own : Nat} (hp : s.position = some own) :
    let t := nodeAfterRing (ringDelivered s)
    t.position = some own ∧ t.node.state = .starting (s.now + 10 * s.settings.listen) ∧
      (∀ j, t.plan j = if j < t.ringSize then .stale else .absent) ∧
      t.switch.target = some (targetOf t) ∧ reported .node t ∧
      t.notices.refresh = some (s.now + 10 * s.settings.refresh) ∧ t.convergenceFresh ∧
      t.notices.sequence = s.notices.sequence +
        (if s.node.state.runs = true ∧ t.table.digest ≠ s.table.digest then 2 else 1) ∧
      ∀ p, t.notices.queues.get p = [{ notice := t.noticeAt own (t.notices.sequence - 1), own := true }] := by
  have hplan := plan_nodeAfterRing s
  obtain ⟨htable', _, _⟩ := nodeAfterRing_tables s
  obtain ⟨htable, _, _⟩ := ringDelivered_tables s
  obtain ⟨hnode, hnow, _, _, _⟩ := ringDelivered_spec s
  obtain ⟨_, _, hsequence⟩ := ringDelivered_notices s
  obtain ⟨hsequence, hqueues⟩ := hsequence own hp
  have hposition : (ringDelivered s).position = some own :=
    (position_congr (by rw [hnode]) (by rw [htable])).trans hp
  have hstarting : nodeAfterRing (ringDelivered s) = enterStarting (ringDelivered s) :=
    if_pos ((placed_iff _).mpr ⟨own, hposition⟩)
  obtain ⟨hnode', hswitch', hreported', _, hfresh'⟩ := enterStarting_spec (ringDelivered s)
  have hnotices' := enterStarting_notices hposition
  rw [← hstarting] at hnode' hswitch' hreported' hfresh' hnotices'
  generalize nodeAfterRing (ringDelivered s) = t at *
  generalize ringDelivered s = r at *
  have hsettings : r.settings = s.settings := by unfold State.settings; rw [htable]
  have hsize : t.ringSize = s.ringSize := by unfold State.ringSize; rw [htable']
  refine ⟨(position_congr (by rw [hnode', hnode]) (by rw [htable'])).trans hp, ?_, fun j => ?_, ?_, hreported', ?_, hfresh', ?_,
    fun p => ?_⟩
  · rw [hnode', hnow, hsettings]
  · rw [hplan, spansOfRing_eq hp, hsize]
  · rw [hswitch']
  · rw [hnotices', hnow, hsettings]
  · rw [hnotices', show t.table.digest = r.table.digest by rw [htable', htable]]
    dsimp only
    rw [hsequence, add_assoc]
    split <;> rfl
  · have hlast : t.notices.sequence - 1 = r.notices.sequence := by rw [hnotices']; exact add_sub_cancel_right _ _
    rw [hlast, hnotices']
    cases p
    · exact hqueues _ rfl rfl .east
    · exact hqueues _ rfl rfl .west

/-- A changed ring map that leaves the node without a position enters UNPLACED from STARTING and ACTIVE (R112, R145, R146). -/
theorem ringChanged_unplaced {s : State} (hp : s.position = none) :
    let t := nodeAfterRing (ringDelivered s)
    t.position = none ∧ (∀ j, t.plan j = .absent) ∧ (∀ p, t.notices.queues.get p = []) ∧
      t.notices.sequence = s.notices.sequence ∧ (s.node.state.runs = true → t.notices.refresh = none) ∧
      t.node.state = (if s.node.state.runs = true then .unplaced else s.node.state) := by
  have hplan := plan_nodeAfterRing s
  obtain ⟨htable', _, _⟩ := nodeAfterRing_tables s
  obtain ⟨htable, _, _⟩ := ringDelivered_tables s
  obtain ⟨hnode, _⟩ := ringDelivered_spec s
  obtain ⟨hqueues, hsequence, _⟩ := (ringDelivered_notices s).2.1 hp
  obtain ⟨hstrap', _⟩ := nodeAfterRing_spec (ringDelivered s)
  have hposition : (ringDelivered s).position = none := (position_congr (by rw [hnode]) (by rw [htable])).trans hp
  have hplaced : ¬ (ringDelivered s).placed = true := by rw [(placed_eq_false _).mpr hposition]; exact Bool.false_ne_true
  refine ⟨(position_congr (by rw [hstrap', hnode]) (by rw [htable'])).trans hp, fun j => ?_, ?_⟩
  · rw [hplan, spansOfRing_unplaced hp, if_neg (Nat.not_lt_zero j)]
  · rw [← hnode]
    unfold nodeAfterRing
    rw [if_neg hplaced]
    generalize ringDelivered s = r at *
    split
    · obtain ⟨hnode', _, _, hnotices'⟩ := enterUnplaced_spec r
      rw [hnotices', hnode']
      exact ⟨fun p => by rw [hqueues]; cases p <;> rfl, hsequence, fun _ => rfl, rfl⟩
    · rename_i hruns
      exact ⟨fun p => by rw [hqueues]; cases p <;> rfl, hsequence, fun h => absurd h hruns, rfl⟩

/-! ### The statement -/

/-- A LOAD on the RING table that is not refused whole writes its entries and evaluates the map (R1, R3, R165). -/
theorem exec_load_ring {s : State} {k : Nat} (h : s.canTake) (hc : s.mgmt.cursor = { table := .ring, index := k })
    (hs : s.anyInService = false) (hk : k ≤ 32) (bulk : List Byte) : ∃ ring,
      exec (.load bulk) s = .next ((evaluateRing s.table.ring (s.withRing ring (k + entriesTaken k bulk))).answeredWith
        (entriesCode k bulk) (entriesTaken k bulk) []) ∧
      ∀ j, look 0 ring j = if k ≤ j ∧ j < k + entriesTaken k bulk then bulk.getD (j - k) 0 else look 0 s.table.ring j := by
  obtain ⟨ring, hload, hlook⟩ := loadImages_ring bulk hc hk
  have hdo : doLoad bulk s = { state := evaluateRing s.table.ring (s.withRing ring (k + entriesTaken k bulk))
                               code := entriesCode k bulk, count := entriesTaken k bulk } := by
    unfold doLoad loadRing
    rw [hc, hs]
    dsimp only
    rw [if_neg Bool.false_ne_true, show TableId.ring.records = 32 from rfl, hload]
  refine ⟨ring, ?_, hlook⟩
  rw [exec_load h, hdo]

/-- Settles O49: the entries by induction on the bytes, the changed map block by block. -/
theorem loadSetsTheRing : Obligations.LoadSetsTheRing := by
  unfold Obligations.LoadSetsTheRing
  intro s k bulk h hc
  refine ⟨fun hs => ?_, fun hs hk => ?_⟩
  · rw [exec_load h]
    unfold doLoad loadRing
    rw [hc, hs]
    rfl
  · obtain ⟨ring, hexec, hlook⟩ := exec_load_ring h hc hs hk bulk
    refine ⟨_, hexec, ?_⟩
    cases hsame : sameRing s.table.ring ring with
    | true =>
      rw [evaluateRing_same (s := s.withRing ring _) hsame]
      have heq : ∀ j, j < 32 → look 0 ring j = look 0 s.table.ring j := fun j hj => ((sameRing_iff _ _).mp hsame j hj).symm
      exact ⟨hlook, rfl, rfl, rfl, rfl, rfl, rfl, rfl, ⟨rfl, rfl, rfl, rfl, rfl, rfl⟩,
        fun _ => ⟨rfl, rfl, rfl, rfl, rfl, rfl⟩, fun ⟨j, hj, hne⟩ => absurd (heq j hj) hne⟩
    | false =>
      rw [evaluateRing_changed (s := s.withRing ring _) hsame]
      have hne : ¬ ∀ j, j < 32 → look 0 ring j = look 0 s.table.ring j := fun heq => by
        rw [(sameRing_iff _ _).mpr fun j hj => (heq j hj).symm] at hsame
        cases hsame
      obtain ⟨htable, hengine, _⟩ := nodeAfterRing_tables (s.withRing ring (k + entriesTaken k bulk))
      obtain ⟨hpend, hnow, hports, htribs, _, _, _, _, hmgmt, _⟩ :=
        nodeAfterRing_frame (ringDelivered (s.withRing ring (k + entriesTaken k bulk)))
      obtain ⟨hnever, hidle, hder, hdigest, hcopies, hends, hstrap, hconn, hgrow⟩ :=
        ringChanged_spec (s.withRing ring (k + entriesTaken k bulk))
      obtain ⟨hpend', hports', htribs', hmgmt'⟩ := ringDelivered_rest (s.withRing ring (k + entriesTaken k bulk))
      have hplaced := fun own => ringChanged_placed (s := s.withRing ring (k + entriesTaken k bulk)) (own := own)
      have hunplaced := ringChanged_unplaced (s := s.withRing ring (k + entriesTaken k bulk))
      have hposition : (nodeAfterRing (ringDelivered (s.withRing ring (k + entriesTaken k bulk)))).position =
          (s.withRing ring (k + entriesTaken k bulk)).position := position_congr hstrap (by rw [htable])
      rw [(ringDelivered_spec _).2.1] at hnow
      rw [hpend'] at hpend
      rw [hports'] at hports
      rw [htribs'] at htribs
      rw [hmgmt'] at hmgmt
      generalize nodeAfterRing (ringDelivered (s.withRing ring (k + entriesTaken k bulk))) = t at *
      have hring : t.table.ring = ring := by rw [htable]; rfl
      refine ⟨fun j => ?_, ?_, ?_, ?_, ?_, ?_, hports, hnow, ⟨hpend, hstrap, htribs, hconn, hgrow.number, hgrow.snapshot⟩,
        fun heq => ?_, fun _ => ⟨?_, hnever, hidle, hder, hdigest, hcopies, hends, fun hp => ?_, fun hp => ?_⟩⟩
      · rw [answeredWith_table, hring]
        exact hlook j
      · rw [answeredWith_mgmt hmgmt]
        rfl
      · unfold State.settings; rw [answeredWith_table, htable]; rfl
      · rw [answeredWith_table, htable]; rfl
      · rw [answeredWith_table, htable]; rfl
      · rw [show (t.answeredWith _ _ _).engine = t.engine from rfl, hengine]; rfl
      · rw [answeredWith_table, hring] at heq
        exact absurd heq hne
      · rw [answeredWith_table, htable]; rfl
      · obtain ⟨own, hown⟩ := (placed_iff t).mp hp
        obtain ⟨hpos, hstate, hplan, htarget, hrep, hrefresh, hfresh, hseq, hqueues⟩ := hplaced own (hposition ▸ hown)
        exact ⟨hstate, hplan, htarget, hrep, hrefresh, hfresh, hseq, own, hpos, hqueues⟩
      · exact (hunplaced (hposition ▸ (placed_eq_false t).mp hp)).2

end Sys2Proof.Machine
end

section
/-! PROOF. LOAD on the SETTINGS table (O50): the record that 24 bytes store (R166), and the images of the load (R165). -/

namespace Sys2Proof.Machine

/-! ### The record stored -/

/-- Every field of a SETTINGS record within its limits and steps (R5, R41, R77, R89, R147, R166). -/
def Settings.within (g : Settings) : Prop :=
  g.holdOff ≤ 1000 ∧ g.holdOff % 10 = 0 ∧ g.returnDelay ≤ 3600 ∧ 10 ≤ g.refresh ∧ g.refresh ≤ 1000 ∧
    g.refresh % 10 = 0 ∧ 2 * g.refresh ≤ g.staleness ∧ g.staleness ≤ 5000 ∧ g.staleness % 10 = 0 ∧
    g.gatherDelay ≤ 50 ∧ 100 ≤ g.listen ∧ g.listen ≤ 10000 ∧ g.listen % 100 = 0 ∧ g.degradeSet ≤ 10000 ∧
    g.degradeClear ≤ g.degradeSet ∧ g.reportDestination ≠ 255 ∧ 64 ≤ g.maxReply ∧ g.maxReply ≤ 1024

theorem clamp_of_mem {lo hi v : Nat} (hl : lo ≤ v) (hh : v ≤ hi) : clamp lo hi v = v := by
  unfold clamp; omega

theorem roundTo_of_mod {step v : Nat} (h : v % step = 0) : roundTo step v = v :=
  Nat.div_mul_cancel (Nat.dvd_of_mod_eq_zero h)

theorem byte_toNat {n : Nat} (h : n < 256) : (byte n).toNat = n := by
  simp [byte, Nat.mod_eq_of_lt h]

/-- The two bytes of a number, read most significant first. -/
theorem bytes2_value {n : Nat} (h : n < 65536) : (byte (n / 256)).toNat * 256 + (byte n).toNat = n := by
  simp only [byte, BitVec.toNat_ofNat]
  omega

theorem byte_toNat_self (b : Byte) : byte b.toNat = b := by simp [byte]

theorem byte_bool (b : Bool) : ((byte b.toNat).toNat != 0) = b := by cases b <;> rfl

/-- A record within its limits is stored as it is (R166). -/
theorem settingsImage_settingsRecord {g : Settings} (h : g.within) : settingsImage (settingsRecord g) = g := by
  obtain ⟨h1, h2, h3, h4, h5, h6, h7, h8, h9, h10, h11, h12, h13, h14, h15, h16, h17, h18⟩ := h
  obtain ⟨holdOff, returnDelay, refresh, staleness, gatherDelay, listen, degradeSet, degradeClear, acts, orientation,
    destination, node, port, span, circuit, maxReply⟩ := g
  dsimp only at *
  have hdest : destination.toNat ≤ 254 := by
    have : destination.toNat ≠ 255 := fun h => h16 (BitVec.eq_of_toNat_eq h)
    have := destination.isLt
    omega
  simp only [settingsImage, settingsRecord, bytes2, halfAt, byteAt, List.cons_append, List.nil_append,
    List.getD_cons_succ, List.getD_cons_zero]
  rw [bytes2_value (by omega), bytes2_value (by omega), bytes2_value (by omega), bytes2_value (by omega),
    bytes2_value (by omega), bytes2_value (by omega), bytes2_value (by omega), bytes2_value (by omega),
    byte_toNat (by omega)]
  rw [clamp_of_mem (Nat.zero_le _) h1, clamp_of_mem (Nat.zero_le _) h3, clamp_of_mem h4 h5,
    clamp_of_mem (by omega) h8, clamp_of_mem (Nat.zero_le _) h10, clamp_of_mem h11 h12, clamp_of_mem (Nat.zero_le _) h14,
    clamp_of_mem (Nat.zero_le _) (by omega), clamp_of_mem (Nat.zero_le _) hdest, clamp_of_mem h17 h18,
    roundTo_of_mod h2, roundTo_of_mod h6, roundTo_of_mod h9, roundTo_of_mod h13, max_eq_left h7, min_eq_right h15,
    byte_toNat_self, byte_bool, byte_bool, byte_bool, byte_bool, byte_bool]
  cases orientation <;> rfl

/-- The record that 24 bytes store, field by field (R166). -/
def settingsStored (bulk : List Byte) : Settings :=
  let at_ (i : Nat) : Nat := (bulk.getD i 0).toNat
  let half (i : Nat) : Nat := 256 * at_ i + at_ (i + 1)
  let refresh := max 10 (min (half 4) 1000) / 10 * 10
  let degradeSet := min (half 11) 10000
  { holdOff := min (half 0) 1000 / 10 * 10, returnDelay := min (half 2) 3600, refresh := refresh
    staleness := max (max 20 (min (half 6) 5000) / 10 * 10) (2 * refresh), gatherDelay := min (at_ 8) 50
    listen := max 100 (min (half 9) 10000) / 100 * 100, degradeSet := degradeSet
    degradeClear := min (min (half 13) 10000) degradeSet, actOnDegrade := decide (at_ 15 ≠ 0)
    orientation := if at_ 16 = 0 then .normal else .reversed
    reportDestination := if at_ 17 = 255 then 254 else bulk.getD 17 0
    reportNode := decide (at_ 18 ≠ 0), reportPort := decide (at_ 19 ≠ 0), reportSpan := decide (at_ 20 ≠ 0)
    reportCircuit := decide (at_ 21 ≠ 0), maxReply := max 64 (min (half 22) 1024) }

/-- The report destination stored: a byte of 255 becomes 254 (R166). -/
theorem byte_min (b : Byte) : byte (min b.toNat 254) = if b.toNat = 255 then 254 else b := by
  have := b.isLt
  split
  · rename_i h; rw [h]; rfl
  · rw [min_eq_left (by omega), byte_toNat_self]

theorem clamp_eq (lo hi v : Nat) : clamp lo hi v = max lo (min v hi) := by
  rw [clamp, min_comm]

theorem bne_zero (n : Nat) : (n != 0) = decide (n ≠ 0) := by
  simp [bne, beq_eq_decide]

theorem settingsImage_eq (bulk : List Byte) : settingsImage bulk = settingsStored bulk := by
  have hhalf : ∀ i, halfAt bulk i = 256 * byteAt bulk i + byteAt bulk (i + 1) := fun i => by rw [halfAt, Nat.mul_comm]
  have hzero : ∀ n v, clamp 0 n v = min v n := fun n v => (clamp_eq 0 n v).trans (Nat.zero_max _)
  have hdest : byte (min (byteAt bulk 17) 254) = if byteAt bulk 17 = 255 then 254 else bulk.getD 17 0 := byte_min _
  unfold settingsImage
  dsimp only
  simp only [hzero, hhalf, bne_zero, hdest]
  simp only [clamp_eq, roundTo, min_comm (min (256 * byteAt bulk 11 + byteAt bulk 12) 10000)]
  rfl

/-- What is stored is within every limit and step (R166). -/
theorem within_settingsStored (bulk : List Byte) : (settingsStored bulk).within := by
  refine ⟨?_, ?_, ?_, ?_, ?_, ?_, ?_, ?_, ?_, ?_, ?_, ?_, ?_, ?_, ?_, ?_, ?_, ?_⟩ <;> dsimp only [settingsStored]
  case refine_16 =>
    split
    · decide
    · rename_i h; exact fun he => h (by rw [he]; rfl)
  all_goals omega

/-! ### The images of the load -/

/-- A LOAD on the SETTINGS table taken by itself. -/
theorem exec_load_settings {s : State} (h : s.canTake) (ht : s.mgmt.cursor.table = .settings) (bulk : List Byte) :
    exec (.load bulk) s = .next ((loadSettings bulk s).state.answeredWith (loadSettings bulk s).code
      (loadSettings bulk s).count []) := by
  rw [exec_load h]
  unfold doLoad
  rw [ht]

/-- Fewer bytes than an image store nothing (R165). -/
theorem exec_load_settings_short {s : State} (h : s.canTake) (ht : s.mgmt.cursor.table = .settings) {bulk : List Byte}
    (hlen : bulk.length < 24) : exec (.load bulk) s = .next (s.answeredWith .ok 0 []) := by
  rw [exec_load_settings h ht]
  unfold loadSettings
  rw [imagesOf_short hlen]

/-- An image at the table's end is refused (R165). -/
theorem exec_load_settings_end {s : State} (h : s.canTake) (hc : s.mgmt.cursor = { table := .settings, index := 1 })
    {bulk : List Byte} (hlen : 24 ≤ bulk.length) : exec (.load bulk) s = .next (s.answeredWith .endOfTable 0 []) := by
  obtain ⟨rest, hrest⟩ := imagesOf_ne_nil (by decide) hlen
  rw [exec_load_settings h (by rw [hc])]
  unfold loadSettings
  rw [hrest, hc]
  rfl

/-- The first image is stored, or refused while a circuit is in service and it changes the orientation (R5, R165, R166). -/
theorem loadSettings_image {s : State} (hc : s.mgmt.cursor.index = 0) {image : List Byte} (more : List Byte)
    (hlen : image.length = 24) : loadSettings (image ++ more) s =
      if orientationInUse (settingsImage image) s = true then { state := s, code := .inUse, count := 0 }
      else { state := storeSettings (settingsImage image) (advanceCursor s)
             code := if imagesOf 24 more = [] then .ok else .endOfTable, count := 1 } := by
  unfold loadSettings
  rw [imagesOf_append (by decide) hlen]
  dsimp only
  rw [hc, if_neg (by decide)]

section
variable {s : State} (h : s.canTake) (hc : s.mgmt.cursor = { table := .settings, index := 0 })
include h hc

/-- An image that changes the orientation with a circuit in service is refused (R5, R166). -/
theorem exec_load_settings_inUse {image : List Byte} (more : List Byte) (hlen : image.length = 24)
    (hu : orientationInUse (settingsImage image) s = true) :
    exec (.load (image ++ more)) s = .next (s.answeredWith .inUse 0 []) := by
  rw [exec_load_settings h (by rw [hc]), loadSettings_image (by rw [hc]) more hlen, if_pos hu]

/-- Any other image is stored, and the images after it are not (R165, R166). -/
theorem exec_load_settings_stored {image : List Byte} (more : List Byte) (hlen : image.length = 24)
    (hu : orientationInUse (settingsImage image) s = false) :
    exec (.load (image ++ more)) s =
      .next ((storeSettings (settingsImage image) (advanceCursor s)).answeredWith
        (if more.length < 24 then .ok else .endOfTable) 1 []) := by
  have hrest : imagesOf 24 more = [] ↔ more.length < 24 := by
    refine ⟨fun hm => by_contra fun hl => ?_, imagesOf_short⟩
    obtain ⟨rest, hrest⟩ := imagesOf_ne_nil (size := 24) (by decide) (Nat.le_of_not_lt hl)
    rw [hrest] at hm
    cases hm
  rw [exec_load_settings h (by rw [hc]), loadSettings_image (by rw [hc]) more hlen, if_neg (by rw [hu]; decide)]
  simp only [hrest]

/-- One image alone, which is refused or stored. -/
theorem exec_load_settings_one {image : List Byte} (hlen : image.length = 24) :
    (orientationInUse (settingsImage image) s = true → exec (.load image) s = .next (s.answeredWith .inUse 0 [])) ∧
      (orientationInUse (settingsImage image) s = false →
        exec (.load image) s = .next ((storeSettings (settingsImage image) (advanceCursor s)).answeredWith .ok 1 [])) := by
  exact ⟨fun hu => by simpa using exec_load_settings_inUse h hc [] hlen hu,
    fun hu => by simpa using exec_load_settings_stored h hc [] hlen hu⟩

end

/-- A change of orientation with a circuit in service is what is refused (R5). -/
theorem orientationInUse_iff (g : Settings) (s : State) :
    orientationInUse g s = true ↔ g.orientation ≠ s.settings.orientation ∧ s.anyInService = true := by
  simp [orientationInUse]

/-- What a directive taken by itself answers can be read off the state it leaves. -/
theorem answeredWith_inj {s t : State} {c d : ResultCode} {n m : Nat}
    (h : (Host.Outcome.next (s.answeredWith c n []) : Host.Outcome State Fault Refusal) = .next (t.answeredWith d m [])) :
    c = d ∧ n = m ∧ ∀ e k, s.answeredWith e k [] = t.answeredWith e k [] := by
  have heq : s.answeredWith c n [] = t.answeredWith d m [] := by injection h
  have hitems : (s.answeredWith c n []).mgmt.lastItems = (t.answeredWith d m []).mgmt.lastItems := by rw [heq]
  refine ⟨?_, ?_, fun e k => ?_⟩
  · injection hitems with h1; injection h1
  · injection hitems with h1; injection h1
  · rw [← answeredWith_answeredWith s c e n k [] [], heq, answeredWith_answeredWith]

/-- The images after the first change the code alone (R165). -/
theorem exec_load_settings_more {s : State} (h : s.canTake) (hc : s.mgmt.cursor = { table := .settings, index := 0 })
    {image : List Byte} (more : List Byte) (hlen : image.length = 24) :
    (more.length < 24 → exec (.load (image ++ more)) s = exec (.load image) s) ∧
      (24 ≤ more.length →
        (∀ v : State, exec (.load image) s = .next (v.answeredWith .ok 1 []) →
          exec (.load (image ++ more)) s = .next (v.answeredWith .endOfTable 1 [])) ∧
        (exec (.load image) s = .next (s.answeredWith .inUse 0 []) →
          exec (.load (image ++ more)) s = .next (s.answeredWith .inUse 0 []))) := by
  cases hu : orientationInUse (settingsImage image) s with
  | true =>
    have hone := exec_load_settings_inUse h hc [] hlen hu
    rw [List.append_nil] at hone
    rw [hone, exec_load_settings_inUse h hc more hlen hu]
    exact ⟨fun _ => rfl, fun _ => ⟨fun v hv => (nomatch (answeredWith_inj hv).1), fun _ => rfl⟩⟩
  | false =>
    have hone := exec_load_settings_stored h hc [] hlen hu
    rw [List.append_nil, if_pos (by decide)] at hone
    rw [hone, exec_load_settings_stored h hc more hlen hu]
    refine ⟨fun hm => by rw [if_pos hm], fun hm => ⟨fun v hv => ?_, fun hv => nomatch (answeredWith_inj hv).1⟩⟩
    rw [if_neg (Nat.not_lt.mpr hm), (answeredWith_inj hv).2.2]

end Sys2Proof.Machine
end

section
/-! PROOF. What the deliveries of a SETTINGS record and of a port's views carry on: the records, the connections, a target derived,
and the own ends of a placed node (R45, R56, R134). -/

namespace Sys2Proof.Machine

/-! ### Records, connections and target -/

/-- From `s` to `t` the Notice Records, the connections and the pending reports stay, and a target newly derived is kept up. -/
structure Carried (s t : State) : Prop where
  records : t.notices.records = s.notices.records
  connections : t.switch.connections = s.switch.connections
  reports : ReportsGrow s t
  target : s.switch.target = some (targetOf s) → t.switch.target = some (targetOf t)

namespace Carried

theorem refl (s : State) : Carried s s := ⟨rfl, rfl, .refl s, id⟩

theorem trans {s t u : State} (h : Carried s t) (g : Carried t u) : Carried s u :=
  ⟨g.records.trans h.records, g.connections.trans h.connections, h.reports.trans g.reports, fun hs => g.target (h.target hs)⟩

theorem after {s t u : State} (g : Carried t u) (h : Carried s t) : Carried s u := h.trans g

/-- What leaves the switch, the records and what a target reads as they were carries them. -/
theorem of_eq {s t : State} (hr : t.notices.records = s.notices.records) (hg : ReportsGrow s t) (hw : t.switch = s.switch)
    (hn : t.node = s.node) (ht : t.table.ring = s.table.ring) (hs : t.settings = s.settings)
    (hc : t.table.circuits = s.table.circuits) : Carried s t :=
  ⟨hr, by rw [hw], hg, fun h => by rw [hw, h, targetOf_congr hn ht hs hc]⟩

end Carried

/-- A map change leaves the switch and the tables as they were, or derives a target afresh (R85, R106, R120). -/
theorem mapChange_switch (s : State) :
    (mapChange s).switch = { s.switch with target := some (targetOf (mapChange s)) } ∨
      ((mapChange s).switch = s.switch ∧ (mapChange s).table = s.table) := by
  have hanswer : ∀ u : State, u.switch = s.switch → u.table = s.table →
      (answerMapChange u).switch = { s.switch with target := some (targetOf (answerMapChange u)) } ∨
        ((answerMapChange u).switch = s.switch ∧ (answerMapChange u).table = s.table) := by
    intro u hw ht
    rcases answerMapChange_cases u with ⟨r, _, h⟩ | ⟨_, h⟩ <;> rw [h]
    · exact .inl (hw ▸ (install_spec r u).2.2.1)
    · exact .inr ⟨hw, ht⟩
  unfold mapChange
  split
  · split
    · exact hanswer s rfl rfl
    · exact hanswer _ (by simp) (by simp)
    · exact .inr ⟨rfl, rfl⟩
    · exact .inr ⟨by simp, by simp⟩
  · exact .inr ⟨by simp, by simp⟩
  · exact .inr ⟨rfl, rfl⟩

theorem carried_mapChange (s : State) : Carried s (mapChange s) := by
  have hrecords : (mapChange s).notices.records = s.notices.records := by simp
  rcases mapChange_switch s with h | ⟨hw, ht⟩
  · exact ⟨hrecords, by rw [h], grow_mapChange s, fun _ => by rw [h]⟩
  · exact .of_eq hrecords (grow_mapChange s) hw (by simp) (by rw [ht]) (settings_of_table ht) (by rw [ht])

theorem carried_deliverMapChange (m : FailureMap) (s : State) : Carried s (deliverMapChange m s) := by
  unfold deliverMapChange
  split
  · exact .refl s
  · exact carried_mapChange s

theorem carried_writeMap (m : FailureMap) (s : State) : Carried s (writeMap m s) :=
  .of_eq (by simp) (grow_writeMap m s) (by simp) (by simp) (by simp) (settings_of_table (by simp)) (by simp)

theorem carried_originate (s : State) : Carried s (originate s) :=
  .of_eq (records_originate s) (.of_eq (by simp)) (by simp) (by simp) (by simp) (settings_of_table (by simp)) (by simp)

theorem carried_raise (x : Subject) (s : State) : Carried s (raise x s) :=
  .of_eq (by simp) (grow_raise x s) (by simp) (by simp) (by simp) (settings_of_table (by simp)) (by simp)

theorem carried_refreshDigest (s : State) : Carried s (refreshDigest s) := by
  have htable := refreshDigest_table s
  exact .of_eq (records_refreshDigest s) (grow_refreshDigest s) (by simp) (by simp) (by rw [htable])
    (by unfold State.settings; rw [htable]) (by rw [htable])

theorem carried_actOnDegradeChanged (s : State) : Carried s (actOnDegradeChanged s) :=
  (carried_writeMap s.map s).trans (carried_deliverMapChange s.map _)

/-- A changed orientation keeps the records and the connections, whatever it does to the map. -/
theorem carried_orientationChanged (s : State) : Carried s (orientationChanged s) := by
  unfold orientationChanged
  dsimp only
  have hwrite := carried_writeMap (storeOwnEnds s (clearRequests s.map)) s
  split
  · exact hwrite.trans (carried_deliverMapChange s.map _)
  · refine Carried.trans ?_ (carried_deliverMapChange s.map _)
    split
    · exact hwrite
    · exact hwrite.trans (carried_originate _)

theorem carried_viewsDelivered (side : Side) (views : Quad View) (s : State) : Carried s (viewsDelivered side views s) := by
  unfold viewsDelivered
  dsimp only
  split
  · exact .of_eq rfl (.of_eq rfl) rfl rfl rfl rfl rfl
  · exact ((carried_writeMap _ s).trans (carried_originate _)).trans (carried_deliverMapChange s.map _)

theorem carried_setBand (p : Side) (b : Nat) (v : Band) (s : State) : Carried s (s.setBand p b v) :=
  .of_eq rfl (.of_eq rfl) rfl rfl rfl rfl rfl

theorem carried_clearDegrade (s : State) (e : Side × Nat) : Carried s (clearDegrade s e) := by
  unfold clearDegrade deriveBand setSupervisor
  dsimp only
  split
  · split
    · exact carried_setBand _ _ _ s
    · exact ((carried_setBand _ _ _ s).trans (carried_raise _ _)).trans (carried_viewsDelivered _ _ _)
  · exact .refl s

theorem carried_deliverThreshold (s : State) : Carried s (deliverThreshold s) := by
  have hfold : ∀ (l : List (Side × Nat)) (u : State), Carried u (l.foldl clearDegrade u) := by
    intro l
    induction l with
    | nil => exact .refl
    | cons e l ih => exact fun u => (carried_clearDegrade u e).trans (ih _)
  unfold deliverThreshold
  split
  · exact hfold _ s
  · exact .refl s

/-! ### The ends of the spans -/

/-- From `s` to `t` a derived map stays derived, the requests of the port copies stay, and own ends that hold the views of their
port copies go on to hold them while the other ends stay. -/
structure EndsCarried (s t : State) : Prop where
  derived : s.mapDerived → t.mapDerived
  requests : ∀ p, (t.map.copies.get p).request = (s.map.copies.get p).request
  ends : ∀ held, (∀ p, (s.map.copies.get p).request = .none) → s.ownEndsStored held → t.ownEndsStored held

namespace EndsCarried

theorem refl (s : State) : EndsCarried s s := ⟨id, fun _ => rfl, fun _ _ => id⟩

theorem trans {s t u : State} (h : EndsCarried s t) (g : EndsCarried t u) : EndsCarried s u :=
  ⟨fun hs => g.derived (h.derived hs), fun p => (g.requests p).trans (h.requests p),
    fun held hq hs => g.ends held (fun p => (h.requests p).trans (hq p)) (h.ends held hq hs)⟩

theorem of_eq {s t : State} (hm : t.map = s.map) (hn : t.node = s.node) (hu : Undisturbed s t) : EndsCarried s t :=
  ⟨mapDerived_congr hm hu.ring (by rw [hn]) hu.settings, fun p => by rw [hm],
    fun _ _ => ownEndsStored_congr hm hu.ring (by rw [hn]) hu.settings⟩

end EndsCarried

theorem endsCarried_deliverMapChange (m : FailureMap) (s : State) : EndsCarried s (deliverMapChange m s) :=
  .of_eq (by simp) (by simp) (undisturbed_deliverMapChange m s)

theorem endsCarried_refreshDigest (s : State) : EndsCarried s (refreshDigest s) := by
  have htable := refreshDigest_table s
  have hsettings : (refreshDigest s).settings = s.settings := by unfold State.settings; rw [htable]
  exact ⟨mapDerived_congr (by simp) (by rw [htable]) (by simp) hsettings, fun p => by simp,
    fun _ _ => ownEndsStored_congr (by simp) (by rw [htable]) (by simp) hsettings⟩

/-- A map derived afresh keeps its ends (R56, R57). -/
theorem ends_writeMap_self {s : State} {own k : Nat} (hp : s.position = some own) (hk : k < s.ringSize) :
    (writeMap s.map s).lowEnd k = s.lowEnd k ∧ (writeMap s.map s).highEnd k = s.highEnd k := by
  have h := writeMap_ends s.map s (k := k) (by rw [spansOfRing_eq hp]; exact hk)
  exact ⟨congrArg Prod.fst h, congrArg Prod.snd h⟩

theorem endsCarried_actOnDegradeChanged (s : State) : EndsCarried s (actOnDegradeChanged s) := by
  refine EndsCarried.trans ⟨fun _ => ?_, fun p => ?_, fun held hq hs own hp k hk => ?_⟩ (endsCarried_deliverMapChange s.map _)
  · exact mapDerived_of_writeMap rfl (by simp) (by simp) (settings_of_table (by simp))
  · rw [writeMap_copies]
  · have hp' : s.position = some own := hp ▸ (position_congr (by simp) (by simp)).symm
    have hsize : (writeMap s.map s).ringSize = s.ringSize := by unfold State.ringSize; simp
    have hsettings : (writeMap s.map s).settings = s.settings := settings_of_table (by simp)
    rw [hsize] at hk ⊢
    obtain ⟨hlow, hhigh⟩ := ends_writeMap_self hp' hk
    rw [hlow, hhigh, writeMap_copies, hsettings]
    exact hs own hp' k hk

/-- A port copy with new views, put in place in its own end (R45). -/
theorem endsCarried_storeCopy (side : Side) (views : Quad View) {s : State} {p : Nat} (hp : s.position = some p) :
    let m : FailureMap := { s.map with copies := s.map.copies.set side { s.map.copies.get side with views := views } }
    EndsCarried s (writeMap (storeCopy s.ringSize p s.settings.orientation m side) s) := by
  intro m
  have hsettings : (writeMap (storeCopy s.ringSize p s.settings.orientation m side) s).settings = s.settings :=
    settings_of_table (by simp)
  have hsize : (writeMap (storeCopy s.ringSize p s.settings.orientation m side) s).ringSize = s.ringSize := by
    unfold State.ringSize; simp
  have hcopies : (writeMap (storeCopy s.ringSize p s.settings.orientation m side) s).map.copies = m.copies := by
    rw [writeMap_copies, storeCopy_copies]
  have hget : ∀ q, m.copies.get q = if q = side then { s.map.copies.get side with views := views } else s.map.copies.get q :=
    fun q => Pair.get_set _ _ _ _
  refine ⟨fun _ => ?_, fun q => ?_, fun held hq hs own hown k hk => ?_⟩
  · exact mapDerived_of_writeMap rfl (by simp) (by simp) hsettings
  · rw [hcopies, hget]
    split
    · rename_i h; rw [h]
    · rfl
  · rw [position_congr (s := s) (by simp) (by simp), hp] at hown
    cases hown
    rw [hsize] at hk
    have hends := writeMap_ends (storeCopy s.ringSize p s.settings.orientation m side) s (k := k)
      (by rw [spansOfRing_eq hp]; exact hk)
    obtain ⟨hlow, hhigh⟩ := hs p hp k hk
    have hend : (m.copies.get side).asEnd = (some views, .none) := by rw [hget, if_pos rfl, PortCopy.asEnd, hq]
    rw [ends_storeCopy, hend, show m.ends k = (s.lowEnd k, s.highEnd k) from rfl, hlow, hhigh] at hends
    obtain ⟨hlow', hhigh'⟩ := Prod.mk.inj hends
    rw [hlow', hhigh', hsettings, hcopies, hget, hget, hsize]
    simp only [eq_ringSub_one hk (position_lt hp)]
    by_cases hside : side = clockwiseSide s.settings.orientation
    · have hother : counterSide s.settings.orientation ≠ side := hside ▸ counterSide_ne _
      rw [if_pos hside.symm, if_neg hother]
      by_cases he : k = p <;> simp [hside, he]
    · have hother : counterSide s.settings.orientation = side := by
        unfold counterSide
        revert hside
        cases side <;> cases clockwiseSide s.settings.orientation <;> simp [Side.other]
      rw [if_neg (Ne.symm hside), if_pos hother]
      by_cases he : (k + 1) % s.ringSize = p <;> simp [hside, he]

/-- Views that a port delivers go into its copy and its own end (R45, R46). -/
theorem endsCarried_viewsDelivered (side : Side) (views : Quad View) (s : State) :
    EndsCarried s (viewsDelivered side views s) := by
  unfold viewsDelivered
  dsimp only
  cases hp : s.position with
  | none =>
    refine ⟨id, fun q => ?_, fun held _ _ own hown => ?_⟩
    · dsimp only
      rw [Pair.get_set]
      split
      · rename_i h; rw [h]
      · rfl
    · exact nomatch hp.symm.trans hown
  | some p =>
    exact ((endsCarried_storeCopy side views hp).trans (.of_eq (by simp) (by simp) (.of_eq (by simp) (by simp) (by simp)))).trans
      (endsCarried_deliverMapChange s.map _)

theorem endsCarried_clearDegrade (s : State) (e : Side × Nat) : EndsCarried s (clearDegrade s e) := by
  have hband : ∀ (p : Side) (b : Nat) (v : Band) (u : State), EndsCarried u (u.setBand p b v) := fun p b v u =>
    .of_eq rfl rfl (.of_eq rfl rfl rfl)
  unfold clearDegrade deriveBand setSupervisor
  dsimp only
  split
  · split
    · exact hband _ _ _ s
    · exact ((hband _ _ _ s).trans (.of_eq (by simp) (by simp) (undisturbed_raise _ _))).trans (endsCarried_viewsDelivered _ _ _)
  · exact .refl s

theorem endsCarried_deliverThreshold (s : State) : EndsCarried s (deliverThreshold s) := by
  have hfold : ∀ (l : List (Side × Nat)) (u : State), EndsCarried u (l.foldl clearDegrade u) := by
    intro l
    induction l with
    | nil => exact .refl
    | cons e l ih => exact fun u => (endsCarried_clearDegrade u e).trans (ih _)
  unfold deliverThreshold
  split
  · exact hfold _ s
  · exact .refl s

end Sys2Proof.Machine
end

section
/-! PROOF. What the deliveries of a SETTINGS record do (O50): a set threshold of 0 (R37), a changed orientation (R51), a changed act
on degrade (R57; log 27). -/

namespace Sys2Proof.Machine

/-! ### A set threshold of 0 -/

theorem band_setSupervisor (p r : Side) (v : Supervisor) (s : State) {b c : Nat} (hb : b < 4) (hc : c < 4) :
    (setSupervisor p b v s).band r c = if r = p ∧ c = b then { s.band p b with supervisor := v } else s.band r c := by
  rw [← band_setBand s p r _ hb hc]
  unfold setSupervisor State.band State.port
  dsimp only
  split
  · rfl
  · simp

theorem deriveView_rawDegrade (lost : Bool) (now delay : Nat) (v : Supervisor) :
    (deriveView lost now delay v).rawDegrade = v.rawDegrade := by
  unfold deriveView
  split
  · rfl
  · split <;> rfl

/-- Clearing a band's raw degrade clears that band's and leaves every other (R37). -/
theorem rawDegrade_clearDegrade (s : State) (p r : Side) {b c : Nat} (hb : b < 4) (hc : c < 4) :
    ((clearDegrade s (p, b)).band r c).supervisor.rawDegrade =
      if r = p ∧ c = b then false else (s.band r c).supervisor.rawDegrade := by
  unfold clearDegrade deriveBand
  dsimp only
  split
  · rw [band_setSupervisor p r _ s hb hc]
    split
    · exact deriveView_rawDegrade _ _ _ _
    · rfl
  · rename_i h
    split
    · rename_i he; rw [he.1, he.2]; simpa using h
    · rfl

theorem mem_allBandsOfPorts (r : Side) (c : Fin 4) : (r, c.val) ∈ allBandsOfPorts := by
  revert c
  cases r <;> decide

/-- With a set threshold of 0 every band's raw degrade is clear (R37, R41). -/
theorem rawDegrade_deliverThreshold {s : State} (h : s.settings.degradeSet = 0) (r : Side) (c : Fin 4) :
    ((deliverThreshold s).band r c).supervisor.rawDegrade = false := by
  have hfold : ∀ (l : List (Side × Nat)) (u : State), (∀ e ∈ l, e.2 < 4) →
      ((r, c.val) ∈ l ∨ (u.band r c).supervisor.rawDegrade = false) →
      ((l.foldl clearDegrade u).band r c).supervisor.rawDegrade = false := by
    intro l
    induction l with
    | nil => exact fun u _ hu => hu.resolve_left (by simp)
    | cons e l ih =>
      intro u hl hu
      refine ih _ (fun x hx => hl x (List.mem_cons_of_mem _ hx)) ?_
      rw [rawDegrade_clearDegrade u e.1 r (hl e List.mem_cons_self) c.isLt]
      rcases hu with hmem | hu
      · rcases List.mem_cons.mp hmem with rfl | hmem
        · exact .inr (if_pos ⟨rfl, rfl⟩)
        · exact .inl hmem
      · rw [hu, ite_self]
        exact .inr rfl
  unfold deliverThreshold
  rw [if_pos h]
  exact hfold _ s (by decide) (.inl (mem_allBandsOfPorts r c))

/-! ### A changed orientation -/

/-- An origination is one in every later state that keeps what its notice reads and the Notice Unit holds. -/
theorem originated_congr {s t s' t' : State} (h : originated s t) (hp : s'.position = s.position)
    (hs : s'.notices = s.notices) (hn : t'.node = t.node) (ht : t'.table = { t.table with circuits := t'.table.circuits })
    (hm : t'.map.copies = t.map.copies) (hnow : t'.now = t.now)
    (hnot : t'.notices = { t.notices with convergence := t'.notices.convergence }) : originated s' t' := by
  intro own hown
  obtain ⟨hqueued, hsequence, hrefresh, hothers⟩ := h own (hp ▸ hown)
  have hsettings : t'.settings = t.settings := by unfold State.settings; rw [ht]
  have hnotice : t'.noticeAt own s.notices.sequence = t.noticeAt own s.notices.sequence := by
    unfold State.noticeAt State.ringSize
    rw [hn, hm, hsettings, ht]
  have hqueues : t'.notices.queues = t.notices.queues := by rw [hnot]
  unfold ownNoticeQueued at hqueued ⊢
  rw [hs, hnotice, hqueues, hnow, hsettings]
  exact ⟨hqueued, by rw [hnot]; exact hsequence, by rw [hnot]; exact hrefresh, hothers⟩

/-- The map that a changed orientation puts in place (R51). -/
def orientationMap (s : State) : State := writeMap (storeOwnEnds s (clearRequests s.map)) s

/-- The state whose map change a changed orientation delivers: with a notice when the own ends differ (R51, R75). -/
def orientationNoticed (s : State) : State :=
  match s.position with
  | none => orientationMap s
  | some p =>
    if s.map.ownEnds s.ringSize p = (orientationMap s).map.ownEnds s.ringSize p then orientationMap s
    else originate (orientationMap s)

theorem orientationChanged_eq (s : State) : orientationChanged s = deliverMapChange s.map (orientationNoticed s) := by
  unfold orientationChanged orientationNoticed orientationMap
  cases s.position <;> rfl

/-- The notice of a changed orientation changes the Notice Unit alone. -/
theorem orientationNoticed_frame (s : State) :
    let t := orientationNoticed s
    t.map = (orientationMap s).map ∧ t.node = s.node ∧ t.now = s.now ∧ t.table = s.table ∧ t.engine = s.engine ∧
      t.plans = s.plans ∧ t.switch = s.switch ∧ t.counters = s.counters ∧ t.reports = (orientationMap s).reports := by
  unfold orientationNoticed
  split
  · simp [orientationMap]
  · split <;> simp [orientationMap]

/-- When a changed orientation originates a notice (R75). -/
theorem orientationNoticed_notices (s : State) :
    let t := orientationNoticed s
    (s.node.state.runs = false ∨ s.position = none → t.notices = s.notices) ∧
      ∀ own, s.position = some own → s.node.state.runs = true →
        (s.map.ownEnds s.ringSize own = t.map.ownEnds s.ringSize own → t.notices = s.notices) ∧
        (s.map.ownEnds s.ringSize own ≠ t.map.ownEnds s.ringSize own → originated s t) := by
  have hposition : (orientationMap s).position = s.position := position_congr (by simp [orientationMap]) (by simp [orientationMap])
  have hnotices : (orientationMap s).notices = s.notices := by simp [orientationMap]
  have hnode : (orientationMap s).node = s.node := by simp [orientationMap]
  have hidle : s.node.state.runs = false ∨ s.position = none → originate (orientationMap s) = orientationMap s := fun h =>
    originate_idle _ (by rw [hnode, hposition]; exact h)
  have hmap := (orientationNoticed_frame s).1
  dsimp only at hmap ⊢
  refine ⟨fun h => ?_, fun own hp hr => ⟨fun he => ?_, fun he => ?_⟩⟩
  · unfold orientationNoticed
    rw [hidle h]
    split
    · exact hnotices
    · rw [ite_self, hnotices]
  · rw [hmap] at he
    unfold orientationNoticed
    rw [hp]
    dsimp only
    rw [if_pos he, hnotices]
  · rw [hmap] at he
    have horigin : orientationNoticed s = originate (orientationMap s) := by
      unfold orientationNoticed
      rw [hp]
      exact if_neg he
    rw [horigin]
    exact originated_congr (originate_originated (orientationMap s) (by rw [hnode]; exact hr)) hposition.symm hnotices.symm rfl rfl
      rfl rfl rfl

/-- What a changed orientation does to the map, the Notice Unit and the engine (R51, R56, R75, R85). -/
theorem orientationChanged_spec (s : State) :
    let t := orientationChanged s
    t.mapDerived ∧ (∀ p, t.map.copies.get p = { s.map.copies.get p with request := .none }) ∧
      t.ownEndsStored (fun k => (s.lowEnd k, s.highEnd k)) ∧ mapReported s t ∧ engineAnswers s t ∧
      (s.node.state.runs = false ∨ s.position = none → t.notices = s.notices) ∧
      ∀ own, s.position = some own → s.node.state.runs = true →
        (s.map.ownEnds s.ringSize own = t.map.ownEnds s.ringSize own → t.notices = s.notices) ∧
        (s.map.ownEnds s.ringSize own ≠ t.map.ownEnds s.ringSize own → originated s t) := by
  obtain ⟨hmap, hnode, hnow, htable, hengine, hplans, hswitch, hcounters, hreports⟩ := orientationNoticed_frame s
  obtain ⟨hquiet, hnoticed⟩ := orientationNoticed_notices s
  have hanswers := deliverMapChange_answers hengine hplans htable hswitch hcounters
  have hu := undisturbed_orientationChanged s
  obtain ⟨_, hnow', hnode', _, _, hmap', hnot', _⟩ := deliverMapChange_frame (orientationNoticed s) s.map
  have hgrow := (grow_deliverMapChange s.map (orientationNoticed s)).after (.of_eq hreports)
  have hreported : mapReported s (orientationMap s) := writeMap_reported _ s
  rw [hmap] at hmap'
  rw [hnode] at hnode'
  rw [← orientationChanged_eq] at hanswers hnow' hnode' hmap' hnot' hgrow
  generalize orientationChanged s = t at *
  refine ⟨?_, fun p => ?_, ?_, mapReported_keeps hreported hmap' ?_ hgrow.subjects, hanswers, fun h => ?_,
    fun own hp hr => ⟨fun he => ?_, fun he => ?_⟩⟩
  · exact mapDerived_of_writeMap hmap' hu.ring (by rw [hnode']) hu.settings
  · rw [hmap', orientationMap, writeMap_copies, storeOwnEnds_copies, clearRequests_get]
  · exact ownEndsStored_of_writeMap (m := clearRequests s.map) hmap' hu.ring (by rw [hnode']) hu.settings
      (fun p => by rw [clearRequests_get])
  · exact hu.settings.trans (settings_of_table (by simp [orientationMap])).symm
  · rw [hnot', hquiet h]
  · rw [hnot']
    exact (hnoticed own hp hr).1 (by rw [hmap, ← hmap']; exact he)
  · refine originated_congr ((hnoticed own hp hr).2 (by rw [hmap, ← hmap']; exact he)) rfl rfl (hnode'.trans hnode.symm) ?_
      (by rw [hmap', hmap]) hnow' (by rw [hnot'])
    rw [htable]
    exact hu.table

/-! ### A changed act on degrade -/

/-- What a digest that is recomputed leaves of the Notice Unit (R23, R75, R79; log 27). -/
theorem refreshDigest_notices (s : State) :
    let t := refreshDigest s
    (t.table.digest = s.table.digest → t.notices = s.notices) ∧
      (t.table.digest ≠ s.table.digest → t.convergenceFresh ∧ (s.node.state.runs = true → originated s t)) := by
  have htable := refreshDigest_table s
  have hdigest : (refreshDigest s).table.digest = digestOf s.table := by rw [htable]
  dsimp only
  rw [hdigest]
  refine ⟨fun h => ?_, fun h => ?_⟩
  · unfold refreshDigest
    dsimp only
    rw [if_pos h]
  · have heq : refreshDigest s = evaluateConvergence (originate (s.withDigest (digestOf s.table))) := if_neg h
    rw [heq]
    refine ⟨convergenceFresh_of_evaluated rfl (by simp) (by simp) (records_evaluateConvergence _) (by simp), fun hr => ?_⟩
    exact originated_congr (originate_originated (s.withDigest (digestOf s.table)) hr) rfl rfl (by simp) (by simp)
      (by simp) (by simp) (by rw [evaluateConvergence_notices])

/-- What a changed act on degrade does, from the state `s` whose digest and map are as before: the digest first, then the map (R23,
R56, R57, R75, R79, R85; log 27). -/
theorem actOnDegradeDelivered_spec (s : State) :
    let t := actOnDegradeChanged (refreshDigest s)
    mapReported s t ∧ engineAnswers (s.withDigest t.table.digest) t ∧ t.mapDerived ∧ t.map.copies = s.map.copies ∧
      (s.placed = true → ∀ k, k < s.ringSize → t.lowEnd k = s.lowEnd k ∧ t.highEnd k = s.highEnd k) ∧
      (t.table.digest = s.table.digest → t.notices = s.notices) ∧
      (t.table.digest ≠ s.table.digest → t.convergenceFresh ∧ (s.node.state.runs = true → originated s t)) := by
  obtain ⟨hsame, hdiffers⟩ := refreshDigest_notices s
  have htable := refreshDigest_table s
  have hgrow := grow_refreshDigest s
  obtain ⟨_, hnow, hnode, _, _, hmap, hengine, hplans, hswitch, _, hcounters⟩ := refreshDigest_frame s
  generalize refreshDigest s = r at *
  have hu := undisturbed_actOnDegradeChanged r
  have hdigest : (actOnDegradeChanged r).table.digest = r.table.digest := by rw [hu.table]
  have hanswers : engineAnswers (s.withDigest r.table.digest) (actOnDegradeChanged r) := by
    have h := deliverMapChange_answers (s := s.withDigest r.table.digest) (u := writeMap r.map r) (by simp [hengine])
      (by simp [hplans]) (by simp [htable]) (by simp [hswitch]) (by simp [hcounters])
    rw [(withDigest_frame s _).2.2.2.2.2.1, ← hmap] at h
    exact h
  obtain ⟨_, hnow', hnode', _, _, hmap', hnot', _⟩ := deliverMapChange_frame (writeMap r.map r) r.map
  have hgrow' := (grow_deliverMapChange r.map (writeMap r.map r))
  have hreported : mapReported r (writeMap r.map r) := writeMap_reported _ r
  change (actOnDegradeChanged r).now = _ at hnow'
  change (actOnDegradeChanged r).node = _ at hnode'
  change (actOnDegradeChanged r).map = _ at hmap'
  change (actOnDegradeChanged r).notices = _ at hnot'
  change ReportsGrow _ (actOnDegradeChanged r) at hgrow'
  rw [(writeMap_frame r _).2.1] at hnow'
  rw [(writeMap_frame r _).2.2.1] at hnode'
  rw [(writeMap_frame r _).2.2.2.2.2.1] at hnot'
  generalize actOnDegradeChanged r = t at *
  dsimp only
  rw [hdigest]
  have hsettings : r.settings = s.settings := by unfold State.settings; rw [htable]
  have hsize : r.ringSize = s.ringSize := by unfold State.ringSize; rw [htable]
  refine ⟨?_, hanswers, ?_, ?_, fun hp k hk => ?_, fun h => ?_, fun h => ⟨?_, fun hr => ?_⟩⟩
  · have hspan : mapReported r t := mapReported_keeps hreported hmap' (hu.settings.trans (settings_of_table (by simp)).symm)
      hgrow'.subjects
    unfold mapReported State.span at hspan ⊢
    rw [hmap] at hspan
    exact ⟨hgrow.subjects.trans hspan.1, hspan.2⟩
  · exact mapDerived_of_writeMap hmap' hu.ring (by rw [hnode']) hu.settings
  · rw [hmap', writeMap_copies, hmap]
  · obtain ⟨own, hp⟩ := (placed_iff s).mp hp
    have hown : r.position = some own := (position_congr (by rw [hnode]) (by rw [htable])).trans hp
    have hends := ends_writeMap_self hown (k := k) (by rw [hsize]; exact hk)
    unfold State.lowEnd State.highEnd State.span at hends ⊢
    rw [hmap']
    rw [hmap] at hends ⊢
    exact hends
  · rw [hnot']
    exact hsame h
  · have hfresh := (hdiffers h).1
    unfold State.convergenceFresh at hfresh ⊢
    rw [hnot', hfresh, convergenceOf_congr hnode' hu.ring (by rw [hnot']) hdigest]
  · exact originated_congr ((hdiffers h).2 hr) rfl rfl hnode' hu.table (by rw [hmap', writeMap_copies]) hnow' (by rw [hnot'])

end Sys2Proof.Machine
end

section
/-! PROOF. LOAD on the SETTINGS table (O50): the deliveries in their order (R166; logs 19 and 27), and the statement. -/

namespace Sys2Proof.Machine

/-! ### The deliveries in their order -/

theorem deliverOrientation_turned {before : Settings} {s : State} (h : s.settings.orientation ≠ before.orientation) :
    deliverOrientation before s = deriveTarget (orientationChanged s) := if_neg h

/-- A target newly derived is that of the state. -/
theorem carried_deriveTarget (s : State) : Carried s (deriveTarget s) := ⟨rfl, rfl, .of_eq rfl, fun _ => rfl⟩

theorem carried_deliverOrientation (before : Settings) (s : State) : Carried s (deliverOrientation before s) := by
  unfold deliverOrientation
  split
  · exact .refl s
  · exact (carried_orientationChanged s).trans (carried_deriveTarget _)

theorem carried_deliverActOnDegrade (before : Settings) (s : State) : Carried s (deliverActOnDegrade before s) := by
  unfold deliverActOnDegrade
  split
  · exact .refl s
  · exact (carried_refreshDigest s).trans (carried_actOnDegradeChanged _)

theorem endsCarried_deliverActOnDegrade (before : Settings) (s : State) : EndsCarried s (deliverActOnDegrade before s) := by
  unfold deliverActOnDegrade
  split
  · exact .refl s
  · exact (endsCarried_refreshDigest s).trans (endsCarried_actOnDegradeChanged _)

theorem copies_deliverActOnDegrade (before : Settings) (s : State) :
    (deliverActOnDegrade before s).map.copies = s.map.copies := by
  unfold deliverActOnDegrade
  split
  · rfl
  · exact (actOnDegradeDelivered_spec s).2.2.2.1

/-- What storing a SETTINGS record leaves whatever it changes (R166). -/
theorem storeSettings_carried (g : Settings) (s : State) : Carried (s.withSettings g) (storeSettings g s) := by
  rw [storeSettings_eq]
  exact ((carried_deliverOrientation _ _).trans (carried_deliverActOnDegrade _ _)).trans (carried_deliverThreshold _)

theorem storeSettings_table (g : Settings) (s : State) :
    let t := storeSettings g s
    t.table = { s.table with settings := g, circuits := t.table.circuits, digest := t.table.digest } ∧
      inServiceOf t.table.circuits = inServiceOf s.table.circuits ∧
      (g.actOnDegrade ≠ s.settings.actOnDegrade → t.table.digest = digestOf t.table) ∧
      (g.actOnDegrade = s.settings.actOnDegrade → t.table.digest = s.table.digest) := by
  have hu := undisturbed_storeSettings g s
  have htable := hu.table
  have hservice := hu.service
  generalize storeSettings g s = t at *
  refine ⟨by rw [htable]; rfl, hservice, fun h => ?_, fun h => by rw [htable]; exact if_pos h⟩
  have hdigest : t.table.digest = digestOf (s.withSettings g).table := by
    rw [htable]
    exact if_neg h
  rw [hdigest]
  exact (digestOf_congr (fun k _ => by rw [htable]) (by rw [htable]) hservice).symm

/-- Before the threshold is delivered the settings stand as stored. -/
theorem settings_delivered (g : Settings) (s : State) :
    (deliverActOnDegrade s.settings (deliverOrientation s.settings (s.withSettings g))).settings = g := by
  have h := undisturbed_deliverOrientation s.settings (s.withSettings g)
  unfold deliverActOnDegrade
  split
  · exact h.settings
  · refine (undisturbed_actOnDegradeChanged _).settings.trans ?_
    unfold State.settings
    rw [refreshDigest_table]
    exact h.settings

theorem storeSettings_rawDegrade {g : Settings} {s : State} (h : g.degradeSet = 0) (p : Side) (b : Fin 4) :
    ((storeSettings g s).band p b).supervisor.rawDegrade = false := by
  rw [storeSettings_eq]
  exact rawDegrade_deliverThreshold (by rw [settings_delivered]; exact h) p b

/-- A set threshold other than 0 delivers nothing (R37, R41). -/
theorem storeSettings_threshold {g : Settings} {s : State} (h : g.degradeSet ≠ 0) :
    storeSettings g s = deliverActOnDegrade s.settings (deliverOrientation s.settings (s.withSettings g)) := by
  rw [storeSettings_eq]
  exact if_neg (by rw [settings_delivered]; exact h)

/-- What a changed orientation leaves of the target and the map, whatever else the record changes (R5, R51). -/
theorem storeSettings_turned {g : Settings} {s : State} (h : g.orientation ≠ s.settings.orientation) :
    let t := storeSettings g s
    t.switch.target = some (targetOf t) ∧ t.mapDerived ∧
      (∀ p, (t.map.copies.get p).request = .none ∧
        (g.degradeSet ≠ 0 → (t.map.copies.get p).views = (s.map.copies.get p).views)) ∧
      t.ownEndsStored (fun k => (s.lowEnd k, s.highEnd k)) := by
  obtain ⟨hderived, hcopies, hends, _⟩ := orientationChanged_spec (s.withSettings g)
  have hturned := deliverOrientation_turned (before := s.settings) (s := s.withSettings g) h
  have hcarried := (carried_deliverActOnDegrade s.settings (deriveTarget (orientationChanged (s.withSettings g)))).trans
    (carried_deliverThreshold _)
  have hendsCarried := (endsCarried_deliverActOnDegrade s.settings (deriveTarget (orientationChanged (s.withSettings g)))).trans
    (endsCarried_deliverThreshold _)
  have hviews := fun hd => storeSettings_threshold (g := g) (s := s) hd
  have hcopies' := copies_deliverActOnDegrade s.settings (deriveTarget (orientationChanged (s.withSettings g)))
  rw [hturned] at hviews
  rw [← hturned, ← storeSettings_eq, hturned] at hcarried hendsCarried
  generalize orientationChanged (s.withSettings g) = o at *
  have hrequest : ∀ p, (o.map.copies.get p).request = .none := fun p => by rw [hcopies]
  refine ⟨hcarried.target rfl, hendsCarried.derived hderived, fun p => ⟨(hendsCarried.requests p).trans (hrequest p), fun hd => ?_⟩,
    hendsCarried.ends _ hrequest hends⟩
  rw [hviews hd, hcopies']
  show (o.map.copies.get p).views = _
  rw [hcopies]
  rfl

/-- A target derived after the engine's answer to a map change takes the place of the one that waits (R134). -/
theorem answersMapChange_deriveTarget {s t : State} (h : answersMapChange s t s.switch) :
    answersMapChange s (deriveTarget t) { s.switch with target := some (targetOf (deriveTarget t)) } := by
  have htarget : targetOf (deriveTarget t) = targetOf t := rfl
  have hnothing : nothingInstalled s t s.switch →
      nothingInstalled s (deriveTarget t) { s.switch with target := some (targetOf (deriveTarget t)) } :=
    fun ⟨h1, h2, h3⟩ => ⟨h1, by rw [← h2]; rfl, h3⟩
  have happlied : ∀ l o, planApplied s t l o → planApplied s (deriveTarget t) l o :=
    fun l o ⟨h1, h2, h3⟩ => ⟨h1, by rw [htarget]; unfold deriveTarget; rw [h2], h3⟩
  unfold answersMapChange at h ⊢
  rw [show (deriveTarget t).node = t.node from rfl]
  split at h
  · obtain ⟨h1, h2, h3⟩ := h
    exact ⟨h1, h2, hnothing h3⟩
  · obtain ⟨h1, h2, h3, h4, h5⟩ := h
    exact ⟨h1, h2, h3, by rw [← h4]; rfl, h5⟩
  · obtain ⟨h1, h2, h3, h4⟩ := h
    exact ⟨h1, h2, fun k l o hk => happlied l o (h3 k l o hk), fun hno => (h4 hno).imp_right hnothing⟩
  · obtain ⟨h1, h2, h3, h4⟩ := h
    exact ⟨h1, h2, h3, hnothing h4⟩
  · obtain ⟨h1, h2, h3⟩ := h
    exact ⟨h1, h2, hnothing h3⟩

/-- A changed orientation alone: its map change, its notice and its target (R5, R51, R75, R85). -/
theorem orientationDelivered_spec (s : State) :
    let t := deriveTarget (orientationChanged s)
    mapReported s t ∧
      (t.map.sets = s.map.sets → t.engine = s.engine ∧ t.plans = s.plans ∧ t.table = s.table ∧ t.counters = s.counters) ∧
      (t.map.sets ≠ s.map.sets → answersMapChange s t { s.switch with target := some (targetOf t) }) ∧
      (s.node.state.runs = false ∨ s.position = none → t.notices = s.notices) ∧
      ∀ own, s.position = some own → s.node.state.runs = true →
        (s.map.ownEnds s.ringSize own = t.map.ownEnds s.ringSize own → t.notices = s.notices) ∧
        (s.map.ownEnds s.ringSize own ≠ t.map.ownEnds s.ringSize own → originated s t) := by
  obtain ⟨_, _, _, hreported, ⟨hsame, hdiffers⟩, hquiet, hnoticed⟩ := orientationChanged_spec s
  generalize orientationChanged s = o at *
  refine ⟨hreported, fun h => ?_, fun h => answersMapChange_deriveTarget (hdiffers h), hquiet, hnoticed⟩
  obtain ⟨h1, h2, _, h4, h5⟩ := hsame h
  exact ⟨h1, h2, h4, h5⟩

section
variable {g : Settings} {s : State} (hd : g.degradeSet ≠ 0)
include hd

theorem storeSettings_ports : (storeSettings g s).ports = s.ports := by
  rw [storeSettings_threshold hd]
  simp

theorem storeSettings_neither (ho : g.orientation = s.settings.orientation) (ha : g.actOnDegrade = s.settings.actOnDegrade) :
    storeSettings g s = s.withSettings g := by
  have hturn : deliverOrientation s.settings (s.withSettings g) = s.withSettings g := if_pos ho
  rw [storeSettings_threshold hd, hturn]
  exact if_pos ha

theorem storeSettings_acts (ho : g.orientation = s.settings.orientation) (ha : g.actOnDegrade ≠ s.settings.actOnDegrade) :
    storeSettings g s = actOnDegradeChanged (refreshDigest (s.withSettings g)) := by
  have hturn : deliverOrientation s.settings (s.withSettings g) = s.withSettings g := if_pos ho
  rw [storeSettings_threshold hd, hturn]
  exact if_neg ha

theorem storeSettings_turns (ho : g.orientation ≠ s.settings.orientation) (ha : g.actOnDegrade = s.settings.actOnDegrade) :
    storeSettings g s = deriveTarget (orientationChanged (s.withSettings g)) := by
  have hturn : deliverOrientation s.settings (s.withSettings g) = deriveTarget (orientationChanged (s.withSettings g)) := if_neg ho
  have hsettings : (deriveTarget (orientationChanged (s.withSettings g))).settings = g :=
    (undisturbed_orientationChanged (s.withSettings g)).settings
  rw [storeSettings_threshold hd, hturn]
  exact if_pos (by rw [hsettings]; exact ha)

end

/-! ### The statement -/

/-- The Management Unit after a LOAD that stores a record: the cursor moved on. -/
theorem storeSettings_mgmt {s : State} (hc : s.mgmt.cursor = { table := .settings, index := 0 }) (g : Settings) :
    ((storeSettings g (advanceCursor s)).answeredWith .ok 1 []).mgmt =
      { (s.answeredWith .ok 1 []).mgmt with cursor := { table := .settings, index := 1 } } := by
  rw [answeredWith_mgmt (s := advanceCursor s) (by simp)]
  unfold advanceCursor setCursor
  rw [hc]
  rfl

/-- Settles O50: the record by its codec, the deliveries one after the other. -/
theorem loadStoresSettingsWithinLimits : Obligations.LoadStoresSettingsWithinLimits := by
  unfold Obligations.LoadStoresSettingsWithinLimits
  intro s h hc within
  have hone := fun bulk => exec_load_settings_one h hc (image := bulk)
  have hfree : ∀ g : Settings, g.orientation = s.settings.orientation ∨ s.anyInService = false →
      orientationInUse g s = false := fun g hg => by
    rw [Bool.eq_false_iff, ne_eq, orientationInUse_iff]
    rintro ⟨h1, h2⟩
    exact hg.elim h1 (by rw [h2]; decide)
  refine ⟨fun g hg hfit => ?_, fun g hg hturn hs => ?_, fun image more hlen => exec_load_settings_more h hc more hlen,
    fun less hlen => exec_load_settings_short h (by rw [hc]) hlen, fun v bulk hv hcur => ?_, fun bulk hlen => ?_⟩
  · have hexec := (hone (settingsRecord g) rfl).2 (by rw [settingsImage_settingsRecord hg]; exact hfree g hfit)
    rw [settingsImage_settingsRecord hg] at hexec
    refine ⟨_, hexec, ?_⟩
    obtain ⟨htable, hservice, hdigest, hkept⟩ := storeSettings_table g (advanceCursor s)
    have hcarried := storeSettings_carried g (advanceCursor s)
    have hraw := storeSettings_rawDegrade (g := g) (s := advanceCursor s)
    have hturned := storeSettings_turned (g := g) (s := advanceCursor s)
    obtain ⟨hpend, hnow, hnode, htribs, _⟩ := storeSettings_frame (advanceCursor s) g
    have hports := storeSettings_ports (g := g) (s := advanceCursor s)
    have hneither := storeSettings_neither (g := g) (s := advanceCursor s)
    have hacts := storeSettings_acts (g := g) (s := advanceCursor s)
    have hturns := storeSettings_turns (g := g) (s := advanceCursor s)
    have hacted := actOnDegradeDelivered_spec ((advanceCursor s).withSettings g)
    have hturning := orientationDelivered_spec ((advanceCursor s).withSettings g)
    have hmgmt := storeSettings_mgmt hc g
    generalize storeSettings g (advanceCursor s) = x at *
    refine ⟨htable, hmgmt, hnode, hcarried.records, hnow,
      ⟨hpend, congrArg Node.strap hnode, htribs, hcarried.connections, hcarried.reports.number, hcarried.reports.snapshot⟩,
      hservice, hraw, hturned, hdigest, fun hd => ⟨hports hd, fun ho ha => ?_, fun ho ha => ?_, fun ho ha => ?_⟩⟩
    · rw [hneither hd (not_not.mp ho) (not_not.mp ha)]
      rfl
    · rw [← hacts hd (not_not.mp ho) ha] at hacted
      exact hacted
    · rw [← hturns hd ho (not_not.mp ha)] at hturning
      obtain ⟨hreported, hsame, hdiffers, hnotices⟩ := hturning
      have hu : { s.table with settings := g, digest := x.table.digest } = { s.table with settings := g } := by
        rw [hkept (not_not.mp ha)]
        rfl
      refine ⟨hreported, fun h => ?_, fun h => ?_, hnotices⟩
      · obtain ⟨hengine, hplans, htables, hcounters⟩ := hsame h
        exact ⟨hengine, hplans, htables.trans hu.symm, hcounters⟩
      · exact (answersMapChange_congr (s := (advanceCursor s).withSettings g) (u := { s with table := _ }) rfl rfl hu rfl rfl).mpr
          (hdiffers h)
  · exact (hone (settingsRecord g) rfl).1 ((orientationInUse_iff _ s).mpr (by
      rw [settingsImage_settingsRecord hg]; exact ⟨hturn, hs⟩))
  · split
    · rename_i hlen; exact exec_load_settings_short hv (by rw [hcur]) hlen
    · rename_i hlen; exact exec_load_settings_end hv hcur (Nat.le_of_not_lt hlen)
  · have hone := hone bulk hlen
    rw [settingsImage_eq] at hone
    refine ⟨fun hfit => ⟨within_settingsStored bulk, _, hone.2 (hfree _ hfit), ?_, storeSettings_mgmt hc _⟩,
      fun hturn hs => hone.1 ((orientationInUse_iff _ s).mpr ⟨hturn, hs⟩)⟩
    show (storeSettings (settingsStored bulk) (advanceCursor s)).settings = _
    unfold State.settings
    rw [(storeSettings_table _ _).1]
    rfl

end Sys2Proof.Machine
end

section
/-! PROOF. What a Band Supervisor hands on when its view moves: the views a port delivers, in the port copy, the own end, the
notices, the reports and the engine's answer (R40, R44 to R46, R56, R58, R74, R75, R85). -/

namespace Sys2Proof.Machine

/-! ### Counters and reports -/

/-- A map change counts abandoned passes and fast-path applications alone (R85, R92, R120). -/
theorem counter_mapChange {n : Nat} (h1 : n ≠ 1) (h2 : n ≠ 2) (s : State) : (mapChange s).counter n = s.counter n := by
  have hanswer : ∀ u : State, (answerMapChange u).counter n = u.counter n := by
    intro u
    rcases answerMapChange_cases u with ⟨r, _, h⟩ | ⟨_, h⟩ <;> rw [h]
    · unfold applyPlan
      rw [counter_bump, if_neg (by simpa [ctrFastPath] using h2)]
      simp [State.counter]
    · rfl
  have habandon : (abandonBuild s).counter n = s.counter n := by simp [State.counter]
  unfold mapChange
  repeat' split
  · exact hanswer s
  · rw [hanswer, habandon]
  · rfl
  · exact (counter_bump ctrPassesAbandoned n s).trans (if_neg h1)
  · exact habandon
  · rfl

theorem counter_deliverMapChange {n : Nat} (h1 : n ≠ 1) (h2 : n ≠ 2) (m : FailureMap) (s : State) :
    (deliverMapChange m s).counter n = s.counter n := by
  unfold deliverMapChange
  split
  · rfl
  · exact counter_mapChange h1 h2 s

theorem counter_viewsDelivered {n : Nat} (h1 : n ≠ 1) (h2 : n ≠ 2) (side : Side) (views : Quad View) (s : State) :
    (viewsDelivered side views s).counter n = s.counter n := by
  unfold viewsDelivered
  dsimp only
  split
  · rfl
  · rw [counter_deliverMapChange h1 h2]
    simp [State.counter]

/-! ### Delivered views -/

theorem ne_clockwiseSide_iff (p : Side) (o : Orientation) : p ≠ clockwiseSide o ↔ p = counterSide o := by
  cases p <;> cases o <;> decide

/-- The map with new views in a port copy (R44). -/
def FailureMap.withViews (m : FailureMap) (side : Side) (views : Quad View) : FailureMap :=
  { m with copies := m.copies.set side { m.copies.get side with views := views } }

/-- The state of a placed node whose map change is delivered, with the views in the own end and one notice originated (R45, R46). -/
def viewsNoticed (side : Side) (views : Quad View) (own : Nat) (s : State) : State :=
  originate (writeMap (storeCopy s.ringSize own s.settings.orientation (s.map.withViews side views) side) s)

theorem viewsDelivered_placed {s : State} {own : Nat} (hp : s.position = some own) (side : Side) (views : Quad View) :
    viewsDelivered side views s = deliverMapChange s.map (viewsNoticed side views own s) := by
  unfold viewsDelivered
  rw [hp]
  rfl

theorem viewsDelivered_unplaced {s : State} (hp : s.position = none) (side : Side) (views : Quad View) :
    viewsDelivered side views s = { s with map := s.map.withViews side views } := by
  unfold viewsDelivered
  rw [hp]
  rfl

theorem viewsDelivered_copies (side : Side) (views : Quad View) (s : State) :
    (viewsDelivered side views s).map.copies = (s.map.withViews side views).copies := by
  cases hp : s.position with
  | none => rw [viewsDelivered_unplaced hp]
  | some own =>
    rw [viewsDelivered_placed hp]
    simp [viewsNoticed]

/-- What delivered views leave in the ends of the spans of a placed node: the port's own end is the port copy, every other end as
it was (R45). -/
theorem viewsDelivered_ends {s : State} {own : Nat} (hp : s.position = some own) (side : Side) (views : Quad View) :
    let t := viewsDelivered side views s
    let c := (t.map.copies.get side).asEnd
    ∀ k, k < s.ringSize →
      t.lowEnd k = (if side = clockwiseSide s.settings.orientation ∧ k = own then c else s.lowEnd k) ∧
      t.highEnd k = (if side = counterSide s.settings.orientation ∧ (k + 1) % s.ringSize = own then c else s.highEnd k) := by
  intro t c k hk
  have hmap : t.map = (writeMap (storeCopy s.ringSize own s.settings.orientation (s.map.withViews side views) side) s).map := by
    simp only [t, viewsDelivered_placed hp, viewsNoticed]
    simp
  have hc : c = ((s.map.withViews side views).copies.get side).asEnd := by
    simp only [c, t, viewsDelivered_copies]
  have hends := writeMap_ends (storeCopy s.ringSize own s.settings.orientation (s.map.withViews side views) side) s (k := k)
    (by rw [spansOfRing_eq hp]; exact hk)
  rw [ends_storeCopy, ← hc] at hends
  simp only [ne_clockwiseSide_iff, eq_ringSub_one hk (position_lt hp)] at hends
  unfold State.lowEnd State.highEnd State.span at hends ⊢
  rw [hmap]
  exact Prod.mk.inj hends

/-- A placed node in STARTING or ACTIVE originates one notice with the views it delivers; in another state, or unplaced, the
Notice Unit stays (R46, R73, R75). -/
theorem viewsDelivered_notices (side : Side) (views : Quad View) (s : State) :
    let t := viewsDelivered side views s
    (s.position = none ∨ s.node.state.runs = false → t.notices = s.notices) ∧
      (s.node.state.runs = true → originated s t) ∧
      t.notices = { s.notices with
        queues := t.notices.queues, sequence := t.notices.sequence, refresh := t.notices.refresh } := by
  intro t
  have hu : Undisturbed s t := undisturbed_viewsDelivered side views s
  cases hp : s.position with
  | none =>
    have ht : t.notices = s.notices := by simp only [t, viewsDelivered_unplaced hp]
    exact ⟨fun _ => ht, fun _ own hown => (Option.some_ne_none own (hown.symm.trans hp)).elim, by rw [ht]⟩
  | some own =>
    have hdel : t = deliverMapChange s.map (viewsNoticed side views own s) := viewsDelivered_placed hp side views
    have hnotices : t.notices = (viewsNoticed side views own s).notices := by rw [hdel]; simp
    refine ⟨fun h => ?_, fun hr => ?_, ?_⟩
    · rw [hnotices, viewsNoticed, originate_idle]
      · simp
      · exact .inl (by simpa using h)
    · refine originated_congr (originate_originated (writeMap (storeCopy s.ringSize own s.settings.orientation
        (s.map.withViews side views) side) s) (by simpa using hr)) (position_congr (by simp) (by simp)).symm (by simp) ?_ ?_ ?_ ?_ ?_
      · rw [hdel]; simp [viewsNoticed]
      · rw [hu.table]; simp
      · rw [hdel]; simp [viewsNoticed]
      · rw [hdel]; simp [viewsNoticed]
      · rw [hnotices]; rfl
    · rw [hnotices, viewsNoticed, originate_notices_kept]
      simp

/-- Delivered views are a write of the map: the spans are reported and the engine answers (R56, R58, R85). -/
theorem viewsDelivered_answers (side : Side) (views : Quad View) (s : State) :
    mapReported s (viewsDelivered side views s) ∧ engineAnswers s (viewsDelivered side views s) := by
  cases hp : s.position with
  | none =>
    rw [viewsDelivered_unplaced hp]
    exact ⟨⟨List.prefix_refl _, fun _ _ h => absurd rfl h⟩, fun _ => ⟨rfl, rfl, rfl, rfl, rfl⟩, fun h => absurd rfl h⟩
  | some own =>
    rw [viewsDelivered_placed hp]
    refine ⟨?_, deliverMapChange_answers (by simp [viewsNoticed]) (by simp [viewsNoticed]) (by simp [viewsNoticed])
      (by simp [viewsNoticed]) (by simp [viewsNoticed])⟩
    refine mapReported_keeps (t := writeMap (storeCopy s.ringSize own s.settings.orientation (s.map.withViews side views) side) s)
      (writeMap_reported _ s) (by simp [viewsNoticed]) ?_ ?_
    · exact (undisturbed_deliverMapChange _ _).settings.trans (settings_of_table (by simp [viewsNoticed]))
    · exact ((carried_originate _).trans (carried_deliverMapChange _ _)).reports.subjects

/-! ### A supervisor's new state -/

theorem setSupervisor_unmoved {p : Side} {b : Nat} {v : Supervisor} {s : State} (h : v.view = (s.band p b).supervisor.view) :
    setSupervisor p b v s = s.setBand p b { s.band p b with supervisor := v } := if_pos h

/-- The four views of a port whose band `b` holds a supervisor's new state. -/
def viewsWith (p : Side) (b : Nat) (v : Supervisor) (s : State) : Quad View :=
  ((s.setBand p b { s.band p b with supervisor := v }).port p).bands.map (fun x => x.supervisor.view)

/-- The state in which a moved view is delivered: the band holds its supervisor's new state, and a report of the port is raised
(R40). -/
def viewRaised (p : Side) (b : Nat) (v : Supervisor) (s : State) : State :=
  raise (.port p) (s.setBand p b { s.band p b with supervisor := v })

theorem viewRaised_eq (p : Side) (b : Nat) (v : Supervisor) (s : State) :
    viewRaised p b v s = { s with ports := (viewRaised p b v s).ports, reports := (viewRaised p b v s).reports } := by
  unfold viewRaised raise
  split <;> rfl

/-- A view that moves is reported and delivered (R40). -/
theorem setSupervisor_moved {p : Side} {b : Nat} {v : Supervisor} {s : State} (h : v.view ≠ (s.band p b).supervisor.view) :
    setSupervisor p b v s =
      viewsDelivered p (viewsWith p b v s) (viewRaised p b v s) := if_neg h

theorem ports_setSupervisor (p : Side) (b : Nat) (v : Supervisor) (s : State) :
    (setSupervisor p b v s).ports = (s.setBand p b { s.band p b with supervisor := v }).ports := by
  unfold setSupervisor
  dsimp only
  split <;> simp

theorem port_setSupervisor (p q : Side) (b : Nat) (v : Supervisor) (s : State) :
    (setSupervisor p b v s).port q = (s.setBand p b { s.band p b with supervisor := v }).port q :=
  congrArg (fun x : Pair LinePort => x.get q) (ports_setSupervisor p b v s)

theorem counter_setSupervisor {n : Nat} (h1 : n ≠ 1) (h2 : n ≠ 2) (p : Side) (b : Nat) (v : Supervisor) (s : State) :
    (setSupervisor p b v s).counter n = s.counter n := by
  by_cases h : v.view = (s.band p b).supervisor.view
  · rw [setSupervisor_unmoved h]
    rfl
  · rw [setSupervisor_moved h, counter_viewsDelivered h1 h2]
    simp [viewRaised, State.counter]

theorem carried_setSupervisor (p : Side) (b : Nat) (v : Supervisor) (s : State) : Carried s (setSupervisor p b v s) := by
  unfold setSupervisor
  dsimp only
  split
  · exact carried_setBand _ _ _ s
  · exact ((carried_setBand _ _ _ s).trans (carried_raise _ _)).trans (carried_viewsDelivered _ _ _)

/-- A supervisor's new state is a write of the map when the view moves, and no event for the map and the engine when it stays. -/
theorem setSupervisor_answers (p : Side) (b : Nat) (v : Supervisor) (s : State) :
    mapReported s (setSupervisor p b v s) ∧ engineAnswers s (setSupervisor p b v s) := by
  by_cases h : v.view = (s.band p b).supervisor.view
  · rw [setSupervisor_unmoved h]
    exact ⟨⟨List.prefix_refl _, fun _ _ h => absurd rfl h⟩, fun _ => ⟨rfl, rfl, rfl, rfl, rfl⟩, fun h => absurd rfl h⟩
  · have hprefix : s.reports.subjects <+: (viewRaised p b v s).reports.subjects :=
      raise_prefix (.port p) (s.setBand p b { s.band p b with supervisor := v })
    rw [setSupervisor_moved h, viewRaised_eq]
    obtain ⟨hreported, hanswers⟩ := viewsDelivered_answers p (viewsWith p b v s)
      { s with ports := (viewRaised p b v s).ports, reports := (viewRaised p b v s).reports }
    exact ⟨⟨hprefix.trans hreported.1, hreported.2⟩, hanswers⟩

/-- A supervisor's new state hands its view on (R40, R44 to R46, R74, R75). -/
theorem setSupervisor_handedOn (p : Side) {b : Nat} (hb : b < 4) (v : Supervisor) (s : State) :
    viewHandedOn p b s (setSupervisor p b v s) := by
  have hband : ((setSupervisor p b v s).band p b).supervisor = v := by
    rw [band_setSupervisor p p v s hb hb, if_pos ⟨rfl, rfl⟩]
  unfold viewHandedOn
  rw [hband, port_setSupervisor, ← viewsWith]
  refine ⟨fun h => ?_, fun h => ?_⟩
  · rw [setSupervisor_unmoved h]
    exact ⟨rfl, rfl⟩
  · have hpending : reported (.port p) (setSupervisor p b v s) := by
      rw [setSupervisor_moved h]
      exact (carried_viewsDelivered _ _ _).reports.reported (undisturbed_viewsDelivered _ _ _).settings (reported_raise _ _)
    refine ⟨hpending, ?_⟩
    rw [setSupervisor_moved h, viewRaised_eq]
    generalize (viewRaised p b v s).ports = ports, (viewRaised p b v s).reports = reports
    generalize viewsWith p b v s = views
    have hends := fun own hp => viewsDelivered_ends (own := own) (s := { s with ports := ports, reports := reports }) hp p views
    have hcopies := viewsDelivered_copies p views { s with ports := ports, reports := reports }
    have hspans := fun hp => viewsDelivered_unplaced (s := { s with ports := ports, reports := reports }) hp p views
    obtain ⟨hquiet, hnoticed, hkept⟩ := viewsDelivered_notices p views { s with ports := ports, reports := reports }
    refine ⟨?_, ?_, fun hp => ⟨?_, hquiet (.inl hp)⟩, fun own hp => ⟨fun hc => ?_, fun hc => ?_, fun k hk => ⟨fun hn => ?_, fun hn => ?_⟩,
      fun hr => hquiet (.inr hr), fun hr => ⟨hnoticed hr, hkept⟩⟩⟩
    · rw [hcopies]; exact Pair.get_set_same _ _ _
    · rw [hcopies]; exact Pair.get_set_other _ _ _
    · rw [hspans hp]; rfl
    · exact ((hends own hp own (position_lt hp)).1).trans (if_pos ⟨hc, rfl⟩)
    · have hlt : ringSub s.ringSize own 1 < s.ringSize := Nat.mod_lt _ (Nat.zero_lt_of_lt (position_lt hp))
      exact ((hends own hp _ hlt).2).trans (if_pos ⟨hc, (eq_ringSub_one hlt (position_lt hp)).mp rfl⟩)
    · exact ((hends own hp k hk).1).trans (if_neg hn)
    · exact ((hends own hp k hk).2).trans (if_neg hn)

end Sys2Proof.Machine
end

section
/-! PROOF. What an arriving frame's overhead can do (R28 to R31, R153 to R159): it writes its line port's latch and streaming flag, the
Management Unit and the counters of notices and management frames. -/

namespace Sys2Proof.Machine

/-! ### Counters -/

/-- The counters that no overhead and no management frame moves: those of the engine and the switch, and the errored frames and
alignment losses of the bands (R181). -/
def besideOverhead (n : Nat) : Prop := n < 4 ∨ (12 ≤ n ∧ n ≤ 19) ∨ (27 ≤ n ∧ n ≤ 34)

theorem besideOverhead_ctrLosses (p : Side) {b : Nat} (hb : b < 4) : besideOverhead (ctrLosses p b) := by
  cases p <;> simp only [besideOverhead, ctrLosses, ctrPort] <;> omega

theorem besideOverhead_ctrErrored (p : Side) {b : Nat} (hb : b < 4) : besideOverhead (ctrErrored p b) := by
  cases p <;> simp only [besideOverhead, ctrErrored, ctrPort] <;> omega

theorem not_besideOverhead_ctrNotice (p : Side) (cls : NoticeClass) : ¬besideOverhead (ctrNotice p cls) := by
  cases p <;> cases cls <;> simp [besideOverhead, ctrNotice, ctrPort]

theorem not_besideOverhead_ctrBad (q : MgmtPort) : ¬besideOverhead (ctrBad q) := by
  rcases q with (_ | _) | _ <;> simp [besideOverhead, ctrBad, ctrPort]

theorem not_besideOverhead_ctrDiscarded (q : MgmtPort) : ¬besideOverhead (ctrDiscarded q) := by
  rcases q with (_ | _) | _ <;> simp [besideOverhead, ctrDiscarded, ctrPort]

theorem not_besideOverhead_ctrQueueFull : ¬besideOverhead ctrQueueFull := by simp [besideOverhead, ctrQueueFull]

/-! ### Management frames -/

/-- What an arriving management frame does to the state: its effect is one on the Management Unit and the counters, which does not
read the line ports, and leaves the chain in execution, the cursor and the counters of the engine and the bands as they were. -/
structure ChannelOnly (g : State → State) : Prop where
  rest : ∀ s, g s = { s with mgmt := (g s).mgmt, counters := (g s).counters }
  ports : ∀ (s : State) (l : Pair LinePort), g { s with ports := l } = { g s with ports := l }
  execution : ∀ s, (g s).mgmt.execution = s.mgmt.execution
  cursor : ∀ s, (g s).mgmt.cursor = s.mgmt.cursor
  counter : ∀ s n, besideOverhead n → (g s).counter n = s.counter n

namespace ChannelOnly

theorem id : ChannelOnly (fun s => s) := ⟨fun _ => rfl, fun _ _ => rfl, fun _ => rfl, fun _ => rfl, fun _ _ _ => rfl⟩

theorem comp {g h : State → State} (hg : ChannelOnly g) (hh : ChannelOnly h) : ChannelOnly (fun s => g (h s)) where
  rest s := (hg.rest (h s)).trans
    (congrArg (fun u : State => { u with mgmt := (g (h s)).mgmt, counters := (g (h s)).counters }) (hh.rest s))
  ports s l := by rw [hh.ports, hg.ports]
  execution s := (hg.execution _).trans (hh.execution s)
  cursor s := (hg.cursor _).trans (hh.cursor s)
  counter s n hn := (hg.counter _ n hn).trans (hh.counter s n hn)

/-- An effect that is chosen by what the line ports do not change. -/
theorem choose {α : Type} (c : State → α) {g : α → State → State} (hc : ∀ (s : State) (l : Pair LinePort), c { s with ports := l } = c s)
    (hg : ∀ a, ChannelOnly (g a)) : ChannelOnly (fun s => g (c s) s) where
  rest s := (hg _).rest s
  ports s l := by rw [hc, (hg _).ports]
  execution s := (hg _).execution s
  cursor s := (hg _).cursor s
  counter s n hn := (hg _).counter s n hn

theorem ite {c : State → Prop} [DecidablePred c] {g h : State → State}
    (hc : ∀ (s : State) (l : Pair LinePort), c { s with ports := l } ↔ c s) (hg : ChannelOnly g) (hh : ChannelOnly h) :
    ChannelOnly (fun s => if c s then g s else h s) where
  rest s := by split; exacts [hg.rest s, hh.rest s]
  ports s l := by
    by_cases h : c s
    · rw [if_pos h, if_pos ((hc s l).mpr h), hg.ports]
    · rw [if_neg h, if_neg (fun h' => h ((hc s l).mp h')), hh.ports]
  execution s := by split; exacts [hg.execution s, hh.execution s]
  cursor s := by split; exacts [hg.cursor s, hh.cursor s]
  counter s n hn := by split; exacts [hg.counter s n hn, hh.counter s n hn]

/-- A write of the Management Unit's assemblers, queues and requests. -/
theorem of_mgmt (g : State → Management) (hp : ∀ (s : State) (l : Pair LinePort), g { s with ports := l } = g s)
    (he : ∀ s, (g s).execution = s.mgmt.execution) (hc : ∀ s, (g s).cursor = s.mgmt.cursor) :
    ChannelOnly (fun s => { s with mgmt := g s }) where
  rest _ := rfl
  ports s l := by rw [hp]
  execution := he
  cursor := hc
  counter _ _ _ := rfl

theorem bump {n : Nat} (h : ¬besideOverhead n) : ChannelOnly (bump n) where
  rest _ := rfl
  ports _ _ := rfl
  execution _ := rfl
  cursor _ := rfl
  counter s m hm := by rw [counter_bump, if_neg (by rintro rfl; exact h hm)]

end ChannelOnly

theorem channelOnly_setAssembler (q : MgmtPort) (v : Assembler) : ChannelOnly (setAssembler q v) :=
  .of_mgmt (fun s => { s.mgmt with assemblers := s.mgmt.assemblers.set q v }) (fun _ _ => rfl) (fun _ => rfl) (fun _ => rfl)

theorem channelOnly_offerFrame (q : MgmtPort) (f : Frame) : ChannelOnly (offerFrame q f) :=
  .choose (fun s => s.mgmt.queues.get q) (g := fun v s =>
    if v.free then setQueue q { v with frames := v.frames ++ [f] } s else bump (ctrDiscarded q) s) (fun _ _ => rfl) (fun v => by
      cases v.free
      · exact .bump (not_besideOverhead_ctrDiscarded q)
      · exact .of_mgmt (fun s => { s.mgmt with queues := s.mgmt.queues.set q { v with frames := v.frames ++ [f] } })
          (fun _ _ => rfl) (fun _ => rfl) (fun _ => rfl))

theorem channelOnly_sendFrame (f : Frame) : ChannelOnly (sendFrame f) :=
  .choose (fun s => namedQueue s f.destination) (g := fun q s => match q with | some q => offerFrame q f s | none => s)
    (fun _ _ => rfl) (fun q => by
      cases q with
      | none => exact .id
      | some q => exact channelOnly_offerFrame q f)

theorem channelOnly_sendCode (dest : Byte) (tag : Half) (code : ResultCode) : ChannelOnly (sendCode dest tag code) :=
  .choose (fun s => replyFrame s dest tag ({ index := 0, code := code, count := 0 } : Item).bytes) (g := sendFrame)
    (fun _ _ => rfl) channelOnly_sendFrame

theorem channelOnly_offerRequest (f : Frame) : ChannelOnly (offerRequest f) :=
  .ite (fun _ _ => Iff.rfl)
    (.of_mgmt (fun s => { s.mgmt with
      requests := s.mgmt.requests ++ [{ origin := f.origin, tag := f.tag, body := f.body }] }) (fun _ _ => rfl) (fun _ => rfl) (fun _ => rfl))
    (.comp (.bump not_besideOverhead_ctrQueueFull) (channelOnly_sendCode f.origin f.tag .queueFull))

theorem channelOnly_forwardFrame (p : Side) (f : Frame) : ChannelOnly (forwardFrame p f) :=
  .ite (fun _ _ => Iff.rfl) (channelOnly_offerFrame _ _) (.bump (not_besideOverhead_ctrDiscarded _))

theorem channelOnly_receiveFromLine (p : Side) (f : Frame) : ChannelOnly (receiveFromLine p f) :=
  .ite (fun _ _ => Iff.rfl) (channelOnly_forwardFrame p f)
    (.ite (fun _ _ => Iff.rfl) (channelOnly_offerRequest f)
      (.ite (fun _ _ => Iff.rfl) (channelOnly_offerFrame _ f) (.bump (not_besideOverhead_ctrBad _))))

theorem channelOnly_injectRequest (f : Frame) : ChannelOnly (injectRequest f) :=
  .choose (fun s => pathTo s f.destination) (g := fun x s => match x with
    | some p => offerFrame (.line p) f s
    | none => sendCode f.origin f.tag .unreachable s) (fun _ _ => rfl) (fun x => by
      cases x with
      | none => exact channelOnly_sendCode _ _ _
      | some p => exact channelOnly_offerFrame _ f)

theorem channelOnly_receiveFromTributary (f : Frame) : ChannelOnly (receiveFromTributary f) :=
  .ite (fun _ _ => Iff.rfl) .id
    (.ite (fun _ _ => Iff.rfl)
      (.choose (fun s => s.node.strap) (g := fun x => offerRequest { f with origin := x }) (fun _ _ => rfl)
        (fun _ => channelOnly_offerRequest _))
      (.choose (fun s => s.node.strap) (g := fun x => injectRequest { f with origin := x, hops := Config.frameHops }) (fun _ _ => rfl)
        (fun _ => channelOnly_injectRequest _)))

theorem channelOnly_receiveFrame (q : MgmtPort) (f : Frame) : ChannelOnly (receiveFrame q f) := by
  cases q with
  | line p => exact channelOnly_receiveFromLine p f
  | tributary => exact channelOnly_receiveFromTributary f

theorem channelOnly_frameTaken (q : MgmtPort) (bytes : List Byte) : ChannelOnly (frameTaken q bytes) := by
  unfold frameTaken
  cases frameOf bytes with
  | none => exact .bump (not_besideOverhead_ctrBad q)
  | some f => exact channelOnly_receiveFrame q f

/-- One byte for an assembler in a given state (R154's table). -/
def assembleFrom (q : MgmtPort) (b : Byte) : Assembler → State → State
  | .hunt, s => if b = 0 then s else setAssembler q (.header [b]) s
  | .header bytes, s =>
    if (bytes ++ [b]).length < 8 then setAssembler q (.header (bytes ++ [b])) s
    else if 12 ≤ halfAt (bytes ++ [b]) 6 ∧ halfAt (bytes ++ [b]) 6 ≤ 1024 then
      setAssembler q (.body (bytes ++ [b]) (halfAt (bytes ++ [b]) 6)) s
    else bump (ctrBad q) (setAssembler q .hunt s)
  | .body bytes length, s =>
    if (bytes ++ [b]).length < length then setAssembler q (.body (bytes ++ [b]) length) s
    else frameTaken q (bytes ++ [b]) (setAssembler q .hunt s)

theorem assembleByte_eq (q : MgmtPort) (s : State) (b : Byte) :
    assembleByte q s b = assembleFrom q b (s.mgmt.assemblers.get q) s := by
  unfold assembleByte assembleFrom
  cases s.mgmt.assemblers.get q <;> rfl

theorem channelOnly_assembleFrom (q : MgmtPort) (b : Byte) (a : Assembler) : ChannelOnly (assembleFrom q b a) := by
  have hset := channelOnly_setAssembler q
  have hbad : ChannelOnly (fun s => bump (ctrBad q) (setAssembler q .hunt s)) :=
    .comp (.bump (not_besideOverhead_ctrBad q)) (hset .hunt)
  cases a with
  | hunt => exact .ite (fun _ _ => Iff.rfl) .id (hset _)
  | header bytes => exact .ite (fun _ _ => Iff.rfl) (hset _) (.ite (fun _ _ => Iff.rfl) (hset _) hbad)
  | body bytes length => exact .ite (fun _ _ => Iff.rfl) (hset _) (.comp (channelOnly_frameTaken q _) (hset .hunt))

theorem channelOnly_assembleField (q : MgmtPort) (bytes : List Byte) : ChannelOnly (assembleField q bytes) := by
  induction bytes with
  | nil => exact .id
  | cons b bytes ih =>
    have hbyte : ChannelOnly (fun s => assembleByte q s b) := by
      simp only [assembleByte_eq]
      exact .choose (fun s => s.mgmt.assemblers.get q) (fun _ _ => rfl) (channelOnly_assembleFrom q b)
    exact (ChannelOnly.comp ih hbyte : ChannelOnly (fun s => assembleField q bytes (assembleByte q s b)))

/-- A break mark puts the assembler in HUNT and counts the frame it was in as bad (R154). -/
theorem breakStream_eq (q : MgmtPort) (s : State) :
    breakStream q s = if s.mgmt.assemblers.get q = .hunt then s else bump (ctrBad q) (setAssembler q .hunt s) := by
  unfold breakStream
  cases s.mgmt.assemblers.get q <;> simp

theorem channelOnly_breakStream (q : MgmtPort) : ChannelOnly (breakStream q) := by
  rw [show breakStream q = _ from funext (breakStream_eq q)]
  exact .ite (fun _ _ => Iff.rfl) .id (.comp (.bump (not_besideOverhead_ctrBad q)) (channelOnly_setAssembler q .hunt))

/-! ### The overhead of a frame -/

/-- From `s` to `t` line port `p` has taken overhead: its latch and its streaming flag, the Management Unit but for the chain in
execution and the cursor, and counters that overhead moves are all that has changed. -/
structure Overheard (p : Side) (s t : State) : Prop where
  rest : t = { s with ports := t.ports, mgmt := t.mgmt, counters := t.counters }
  bands : ∀ q, (t.port q).bands = (s.port q).bands
  other : t.port p.other = s.port p.other
  sent : (t.port p).sent = (s.port p).sent
  execution : t.mgmt.execution = s.mgmt.execution
  cursor : t.mgmt.cursor = s.mgmt.cursor
  counter : ∀ n, besideOverhead n → t.counter n = s.counter n

namespace Overheard

theorem refl (p : Side) (s : State) : Overheard p s s := ⟨rfl, fun _ => rfl, rfl, rfl, rfl, rfl, fun _ _ => rfl⟩

theorem trans {p : Side} {s t u : State} (h : Overheard p s t) (g : Overheard p t u) : Overheard p s u where
  rest := g.rest.trans
    (congrArg (fun x : State => { x with ports := u.ports, mgmt := u.mgmt, counters := u.counters }) h.rest)
  bands q := (g.bands q).trans (h.bands q)
  other := g.other.trans h.other
  sent := g.sent.trans h.sent
  execution := g.execution.trans h.execution
  cursor := g.cursor.trans h.cursor
  counter n hn := (g.counter n hn).trans (h.counter n hn)

theorem of_channel (p : Side) {g : State → State} (h : ChannelOnly g) (s : State) : Overheard p s (g s) := by
  have hports : (g s).ports = s.ports := by rw [h.rest]
  have hport : ∀ q, (g s).port q = s.port q := fun q => congrArg (fun l : Pair LinePort => l.get q) hports
  exact ⟨(h.rest s).trans (by rw [hports]), fun q => by rw [hport], hport _, by rw [hport], h.execution s, h.cursor s, h.counter s⟩

theorem of_setPort (p : Side) (s : State) (latch : Latch) (streaming : Bool) :
    Overheard p s (s.setPort p { s.port p with latch := latch, streaming := streaming }) where
  rest := rfl
  bands q := by
    rw [port_setPort]
    split
    · rename_i h; rw [h]
    · rfl
  other := by rw [port_setPort, if_neg (Side.other_ne p)]
  sent := by rw [port_setPort, if_pos rfl]
  execution := rfl
  cursor := rfl
  counter _ _ := rfl

end Overheard

theorem overheard_readNotice (p : Side) (f : NoticeField) (s : State) : Overheard p s (readNotice p f s) := by
  unfold readNotice
  split
  · exact .refl p s
  · exact (Overheard.of_setPort p s _ _).trans (.of_channel p (.bump (not_besideOverhead_ctrNotice p _)) _)

theorem overheard_setStreaming (p : Side) (on : Bool) (s : State) : Overheard p s (setStreaming p on s) := by
  unfold setStreaming
  split
  · exact .refl p s
  · exact (Overheard.of_setPort p s _ _).trans (.of_channel p (channelOnly_breakStream _) _)

theorem overheard_takeOverhead (p : Side) (f : BandFrame) (s : State) : Overheard p s (takeOverhead p f s) :=
  ((overheard_readNotice p f.notice s).trans (overheard_setStreaming p true _)).trans
    (.of_channel p (channelOnly_assembleField _ f.management) _)

theorem overheard_portOverhead (p : Side) (b : Nat) (f : BandFrame) (s : State) : Overheard p s (portOverhead p b f s) := by
  unfold portOverhead
  repeat' split
  · exact overheard_takeOverhead p f s
  · exact .refl p s
  · exact overheard_setStreaming p false s
  · exact .refl p s

end Sys2Proof.Machine
end

section
/-! PROOF. What a frame of a line port does to its Band Supervisor, and what of it is handed on (R25, R34, R36, R37, R40, R85). -/

namespace Sys2Proof

theorem Quad.map_set_of_eq {α β : Type} {f : α → β} {q : Quad α} {i : Nat} {v : α} (h : f v = f (q.get i)) :
    (q.set i v).map f = q.map f := by
  match i with
  | 0 | 1 | 2 | 3 => simp only [Quad.set, Quad.map, h]; rfl
  | _ + 4 => rfl

theorem Quad.set_get_self {α : Type} (q : Quad α) (i : Nat) : q.set i (q.get i) = q := by
  match i with
  | 0 | 1 | 2 | 3 => rfl
  | _ + 4 => rfl

theorem Pair.set_get_self {α : Type} (q : Pair α) (p : Side) : q.set p (q.get p) = q := by
  cases p <;> rfl

end Sys2Proof

namespace Sys2Proof.Machine

/-! ### The engine's answer, with other counters moved -/

/-- Whether and how the engine answers does not turn on the counters: it holds of other counters that agree with the old ones where
the engine counts, and that stay where it counts nothing. -/
theorem answersMapChange_counted {s t : State} {sw : SlotSwitch} (h : answersMapChange s t sw) (ports : Pair LinePort)
    (mgmt : Management) {c d : Table Word} (hsame : t.counters = s.counters → c = d)
    (hc : ∀ n, n = 1 ∨ n = 2 → look 0 c n = t.counter n ∧ look 0 d n = s.counter n)
    (hn : ∀ n, n ≠ 1 → n ≠ 2 → look 0 c n = look 0 d n) :
    answersMapChange { s with counters := d } { t with ports := ports, mgmt := mgmt, counters := c } sw := by
  have hkept : ∀ n, t.counter n = s.counter n → look 0 c n = look 0 d n := fun n hts => by
    by_cases h12 : n = 1 ∨ n = 2
    · rw [(hc n h12).1, (hc n h12).2, hts]
    · exact hn n (fun e => h12 (.inl e)) (fun e => h12 (.inr e))
  have hcounted : ∀ n, n = 1 ∨ n = 2 → t.counter n = saturate (s.counter n) → look 0 c n = saturate (look 0 d n) := fun n h12 hts => by
    rw [(hc n h12).1, (hc n h12).2, hts]
  have hnone : nothingInstalled s t sw →
      nothingInstalled { s with counters := d } { t with ports := ports, mgmt := mgmt, counters := c } sw := fun ⟨h1, h2, h3⟩ =>
    ⟨h1, h2, hsame h3⟩
  have happlied : ∀ l o, planApplied s t l o →
      planApplied { s with counters := d } { t with ports := ports, mgmt := mgmt, counters := c } l o := fun l o ⟨h1, h2, h3, h4, h5⟩ =>
    ⟨h1, h2, hcounted 2 (.inr rfl) h3, fun n hne => hkept n (h4 n hne), h5⟩
  unfold answersMapChange at h ⊢
  dsimp only
  split at h
  · obtain ⟨he, hp, hi⟩ := h
    exact ⟨he, hp, hnone hi⟩
  · obtain ⟨he, hp, ht, hw, h1, hrest⟩ := h
    exact ⟨he, hp, ht, hw, hcounted 1 (.inl rfl) h1, fun n hne => hkept n (hrest n hne)⟩
  · obtain ⟨hplan, hstale, hfast, hslow⟩ := h
    exact ⟨hplan, hstale, fun k l o hk => happlied l o (hfast k l o hk), fun hno => ⟨(hslow hno).1, hnone (hslow hno).2⟩⟩
  · obtain ⟨he, hk, hj, hi⟩ := h
    exact ⟨he, hk, hj, hnone hi⟩
  · obtain ⟨he, hp, hi⟩ := h
    exact ⟨he, hp, hnone hi⟩

/-- The engine's answer to a write of the map, seen from a state whose counters of ports and management already hold what they
come to hold after it. -/
theorem engineAnswers_counted {s t : State} (h : engineAnswers s t) (hkept : ∀ n, n ≠ 1 → n ≠ 2 → t.counter n = s.counter n)
    (ports : Pair LinePort) (mgmt : Management) {c : Table Word} (hc : ∀ n, n < 4 → look 0 c n = t.counter n) :
    ∃ d, (∀ n, n < 4 → look 0 d n = s.counter n) ∧
      engineAnswers { s with counters := d } { t with ports := ports, mgmt := mgmt, counters := c } := by
  obtain ⟨d, hsame, hd, hn⟩ : ∃ d : Table Word, (t.counters = s.counters → c = d) ∧ (∀ n, n < 4 → look 0 d n = s.counter n) ∧
      ∀ n, n ≠ 1 → n ≠ 2 → look 0 c n = look 0 d n := by
    by_cases he : t.counters = s.counters
    · refine ⟨c, fun _ => rfl, fun n h4 => ?_, fun _ _ _ => rfl⟩
      rw [hc n h4]
      unfold State.counter
      rw [he]
    · refine ⟨put 0 (put 0 c 1 (s.counter 1)) 2 (s.counter 2), fun h => absurd h he, fun n h4 => ?_, fun n h1 h2 => ?_⟩
      · rw [look_put, look_put]
        split
        · subst_vars; rfl
        · split
          · subst_vars; rfl
          · rename_i h2 h1; rw [hc n h4, hkept n h1 h2]
      · rw [look_put_other _ _ _ h2, look_put_other _ _ _ h1]
  refine ⟨d, hd, fun hm => ?_, fun hm => ?_⟩
  · obtain ⟨he, hp, hw, ht, hcounters⟩ := h.1 hm
    exact ⟨he, hp, hw, ht, hsame hcounters⟩
  · refine answersMapChange_counted (h.2 hm) ports mgmt hsame (fun n h12 => ⟨hc n ?_, hd n ?_⟩) hn <;> omega

/-! ### What leaves the views as they were -/

/-- From `s` to `t` line port `p` has worked without moving a view: nothing but the port, the Management Unit and the counters of
ports and management has changed. -/
structure ViewsStay (p : Side) (s t : State) : Prop where
  rest : t = { s with ports := t.ports, mgmt := t.mgmt, counters := t.counters }
  views : (t.port p).bands.map (fun x => x.supervisor.view) = (s.port p).bands.map (fun x => x.supervisor.view)
  other : t.port p.other = s.port p.other
  sent : (t.port p).sent = (s.port p).sent
  execution : t.mgmt.execution = s.mgmt.execution
  cursor : t.mgmt.cursor = s.mgmt.cursor
  counter : ∀ n, n < 4 → t.counter n = s.counter n

namespace ViewsStay

theorem refl (p : Side) (s : State) : ViewsStay p s s := ⟨rfl, rfl, rfl, rfl, rfl, rfl, fun _ _ => rfl⟩

theorem trans {p : Side} {s t u : State} (h : ViewsStay p s t) (g : ViewsStay p t u) : ViewsStay p s u where
  rest := g.rest.trans
    (congrArg (fun x : State => { x with ports := u.ports, mgmt := u.mgmt, counters := u.counters }) h.rest)
  views := g.views.trans h.views
  other := g.other.trans h.other
  sent := g.sent.trans h.sent
  execution := g.execution.trans h.execution
  cursor := g.cursor.trans h.cursor
  counter n hn := (g.counter n hn).trans (h.counter n hn)

theorem of_overheard {p : Side} {s t : State} (h : Overheard p s t) : ViewsStay p s t where
  rest := h.rest
  views := by rw [h.bands]
  other := h.other
  sent := h.sent
  execution := h.execution
  cursor := h.cursor
  counter n hn := h.counter n (.inl hn)

theorem of_bump (p : Side) {n : Nat} (h : 4 ≤ n) (s : State) : ViewsStay p s (bump n s) where
  rest := rfl
  views := rfl
  other := rfl
  sent := rfl
  execution := rfl
  cursor := rfl
  counter m hm := by rw [counter_bump, if_neg (by omega)]

theorem of_setBand (p : Side) (b : Nat) {v : Band} {s : State} (h : v.supervisor.view = (s.band p b).supervisor.view) :
    ViewsStay p s (s.setBand p b v) where
  rest := rfl
  views := by
    unfold State.setBand
    rw [port_setPort, if_pos rfl]
    exact Quad.map_set_of_eq (f := fun x : Band => x.supervisor.view) h
  other := by
    unfold State.setBand
    rw [port_setPort, if_neg (Side.other_ne p)]
  sent := by
    unfold State.setBand
    rw [port_setPort, if_pos rfl]
  execution := rfl
  cursor := rfl
  counter _ _ := rfl

theorem of_setSupervisor {p : Side} {b : Nat} {v : Supervisor} {s : State} (h : v.view = (s.band p b).supervisor.view) :
    ViewsStay p s (setSupervisor p b v s) := by
  rw [setSupervisor_unmoved h]
  exact of_setBand p b h

theorem view {p : Side} {s t : State} (h : ViewsStay p s t) (b : Nat) :
    (t.band p b).supervisor.view = (s.band p b).supervisor.view := by
  have hget := congrArg (fun q : Quad View => q.get b) h.views
  simp only [Quad.get_map] at hget
  exact hget

end ViewsStay

theorem mapReported_trans {s t u : State} (h : mapReported s t) (g : mapReported t u) (hs : u.settings = t.settings) :
    mapReported s u := by
  refine ⟨h.1.trans g.1, fun k hk hne => ?_⟩
  by_cases he : (u.span k).derived.map (fun d => (d.conditions, d.operator)) = (t.span k).derived.map (fun d => (d.conditions, d.operator))
  · rw [he] at hne
    exact fun hen => g.1.subset (h.2 k hk hne (hs ▸ hen))
  · exact g.2 k hk he

theorem ViewsStay.reported {p : Side} {s t : State} (h : ViewsStay p s t) : mapReported s t := by
  rw [h.rest]
  exact ⟨List.prefix_refl _, fun _ _ hne => absurd rfl hne⟩

theorem ViewsStay.settings {p : Side} {s t : State} (h : ViewsStay p s t) : t.settings = s.settings := by rw [h.rest]; rfl

theorem ViewsStay.now {p : Side} {s t : State} (h : ViewsStay p s t) : t.now = s.now := by rw [h.rest]

/-! ### A view that moves at most once -/

section
variable {p : Side} {b : Nat} {s t u x : State} {v : Supervisor}

/-- A view that moves at most once among a port's other work is answered (R56, R58, R85). -/
theorem viewsAnswered_of_between (h : ViewsStay p s t) (hu : u = setSupervisor p b v t) (g : ViewsStay p u x) : viewsAnswered s x := by
  have hkept : ∀ n, n ≠ 1 → n ≠ 2 → u.counter n = t.counter n := fun n h1 h2 => hu ▸ counter_setSupervisor h1 h2 p b v t
  obtain ⟨hreported, hanswers⟩ : mapReported t u ∧ engineAnswers t u := hu ▸ setSupervisor_answers p b v t
  obtain ⟨d, hd, hanswers⟩ := engineAnswers_counted hanswers hkept x.ports x.mgmt g.counter
  rw [← g.rest] at hanswers
  have hsettings : u.settings = t.settings := hu ▸ (undisturbed_setSupervisor p b v t).settings
  refine ⟨mapReported_trans (mapReported_trans h.reported hreported hsettings) g.reported g.settings,
    { s with counters := d }, rfl, fun n hn => (hd n hn).trans (h.counter n hn), ?_⟩
  rw [h.rest] at hanswers
  exact hanswers

/-- A view that moves at most once among a port's other work is handed on (R40, R44 to R46, R74, R75). -/
theorem viewHandedOn_of_between (hb : b < 4) (h : ViewsStay p s t) (hu : u = setSupervisor p b v t) (g : ViewsStay p u x) :
    viewHandedOn p b s x := by
  have hhanded : viewHandedOn p b t u := hu ▸ setSupervisor_handedOn p hb v t
  unfold viewHandedOn at hhanded ⊢
  rw [h.view b, h.rest] at hhanded
  rw [g.view, g.views, g.rest]
  exact hhanded

end

end Sys2Proof.Machine
end

section
/-! PROOF. One frame of a band, part by part: the receiver, the supervisor at a change of alignment, the overhead, the degrade
interval (R25 to R31, R34, R36, R37; log 30), and what each leaves as it was. -/

namespace Sys2Proof.Machine

/-! ### What an event of a line port keeps -/

theorem keepsBesidePort_trans {p : Side} {s t u : State} (h : keepsBesidePort p s t) (g : keepsBesidePort p t u) :
    keepsBesidePort p s u := by
  obtain ⟨h1, h2, h3, h4, h5, h6, h7, h8, h9, h10, h11, h12⟩ := h
  obtain ⟨g1, g2, g3, g4, g5, g6, g7, g8, g9, g10, g11, g12⟩ := g
  exact ⟨g1.trans h1, g2.trans h2, g3.trans h3, g4.trans h4, g5.trans h5, by rw [g6, h6], g7.trans h7, g8.trans h8, g9.trans h9,
    g10.trans h10, g11.trans h11, g12.trans h12⟩

theorem ViewsStay.keeps {p : Side} {s t : State} (h : ViewsStay p s t) : keepsBesidePort p s t := by
  have hrest := h.rest
  refine ⟨by rw [hrest], by rw [hrest], h.other, h.sent, by rw [hrest], by rw [hrest], by rw [hrest], by rw [hrest], by rw [hrest],
    h.execution, h.cursor, by rw [hrest]⟩

theorem keepsBesidePort_setSupervisor (p : Side) (b : Nat) (v : Supervisor) (s : State) :
    keepsBesidePort p s (setSupervisor p b v s) := by
  obtain ⟨hpending, _, hnode, htribs, hmgmt⟩ := setSupervisor_frame s p b v
  have hu := undisturbed_setSupervisor p b v s
  have hcarried := carried_setSupervisor p b v s
  refine ⟨hpending, hnode, ?_, ?_, htribs, hu.table, hu.service, hcarried.records, hcarried.connections, by rw [hmgmt],
    by rw [hmgmt], hcarried.reports.snapshot⟩
  · rw [port_setSupervisor, State.setBand, port_setPort, if_neg (Side.other_ne p)]
  · rw [port_setSupervisor, State.setBand, port_setPort, if_pos rfl]

/-! ### The supervisor -/

theorem setBand_self (p : Side) (b : Nat) (s : State) : s.setBand p b (s.band p b) = s := by
  unfold State.setBand State.setPort State.band State.port
  rw [Quad.set_get_self]
  exact congrArg (fun l : Pair LinePort => { s with ports := l }) (Pair.set_get_self s.ports p)

theorem setSupervisor_self (p : Side) (b : Nat) (s : State) : setSupervisor p b (s.band p b).supervisor s = s :=
  (setSupervisor_unmoved rfl).trans (setBand_self p b s)

/-- A supervisor's state after its band has been at one alignment and comes to another (R34, R38, R39). -/
def Supervisor.realigned (s : State) (before after : Alignment) (v : Supervisor) : Supervisor :=
  match before, after with
  | .aligned, .lost =>
    if s.settings.holdOff = 0 then deriveView true s.now s.returnPeriods { v with holdOffExpired := true }
    else { v with holdOff := some (s.now + ms s.settings.holdOff) }
  | .lost, .aligned =>
    { deriveView false s.now s.returnPeriods { v with holdOff := none, holdOffExpired := false } with firstAlignment := false }
  | _, _ => v

/-- A supervisor's state with one more frame in its degrade interval, the band at alignment `a` (R36, R37). -/
def Supervisor.framed (s : State) (a : Alignment) (errored : Bool) (v : Supervisor) : Supervisor :=
  let w := { v with errored := v.errored + errored.toNat, touched := v.touched || a == .lost }
  if v.position < 9999 then { w with position := v.position + 1 }
  else
    let raw := rawDegradeAfter s.settings.degradeSet s.settings.degradeClear w
    let x := { w with position := 0, errored := 0, touched := false, rawDegrade := raw }
    if raw = v.rawDegrade then x else deriveView (a == .lost) s.now s.returnPeriods x

theorem alignmentChanged_eq (p : Side) (b : Nat) (before : Alignment) (s : State) :
    alignmentChanged p b before s =
      setSupervisor p b ((s.band p b).supervisor.realigned s before (s.band p b).alignment) s := by
  unfold alignmentChanged Supervisor.realigned
  cases before <;> cases ha : (s.band p b).alignment
  · exact (setSupervisor_self p b s).symm
  · rfl
  · dsimp only [enterLost]
    rw [apply_ite (fun v => setSupervisor p b v s), deriveBand, ha]
    rfl
  · exact (setSupervisor_self p b s).symm

theorem intervalFrame_eq (p : Side) (b : Nat) (errored : Bool) (s : State) :
    intervalFrame p b errored s =
      setSupervisor p b ((s.band p b).supervisor.framed s (s.band p b).alignment errored) s := by
  unfold Supervisor.framed
  dsimp only
  rw [apply_ite (fun v => setSupervisor p b v s), apply_ite (fun v => setSupervisor p b v s)]
  rfl

theorem realigned_congr {s t : State} (hs : t.settings = s.settings) (hn : t.now = s.now) (before after : Alignment) (v : Supervisor) :
    v.realigned t before after = v.realigned s before after := by
  unfold Supervisor.realigned State.returnPeriods
  rw [hs, hn]

theorem framed_congr {s t : State} (hs : t.settings = s.settings) (hn : t.now = s.now) (a : Alignment) (errored : Bool)
    (v : Supervisor) : v.framed t a errored = v.framed s a errored := by
  unfold Supervisor.framed State.returnPeriods
  rw [hs, hn]

/-! ### The receiver -/

/-- The alignment and the run count that a frame brings (R25). -/
def State.aligns (s : State) (p : Side) (b : Nat) (f : BandFrame) : Alignment × Nat :=
  nextAlignment f.alignmentWord (s.band p b).alignment (s.band p b).run

/-- A band's receiver after a frame, its supervisor as it was (R25, R27). -/
def State.received (s : State) (p : Side) (b : Nat) (f : BandFrame) : Band :=
  { s.band p b with
    alignment := (s.aligns p b f).1, run := (s.aligns p b f).2, slots := deliveredSlots (s.aligns p b f).1 f.slots }

/-- The receiver's work: the band as the frame leaves it, and the counters of losses and errored frames (R25 to R27). -/
theorem receiveBand_eq (p : Side) (b : Nat) (f : BandFrame) (s : State) :
    receiveBand p b f s =
      let u := if (s.band p b).alignment = .aligned ∧ (s.aligns p b f).1 = .lost then
          bump (ctrLosses p b) (s.setBand p b (s.received p b f)) else s.setBand p b (s.received p b f)
      if erroredFrame (s.aligns p b f).1 f = true then bump (ctrErrored p b) u else u := rfl

theorem ports_receiveBand (p : Side) (b : Nat) (f : BandFrame) (s : State) :
    (receiveBand p b f s).ports = (s.setBand p b (s.received p b f)).ports := by
  rw [receiveBand_eq]
  dsimp only
  repeat' split
  all_goals rfl

theorem band_receiveBand (p q : Side) {b c : Nat} (f : BandFrame) (s : State) (hb : b < 4) (hc : c < 4) :
    (receiveBand p b f s).band q c = if q = p ∧ c = b then s.received p b f else s.band q c := by
  rw [← band_setBand s p q (s.received p b f) hb hc]
  exact congrArg (fun l : Pair LinePort => (l.get q).bands.get c) (ports_receiveBand p b f s)

theorem counter_bump_if (c : Prop) [Decidable c] (m n : Nat) (s : State) :
    (if c then bump m s else s).counter n = if n = m ∧ c then saturate (s.counter n) else s.counter n := by
  by_cases h : c
  · rw [if_pos h, counter_bump]
    by_cases hn : n = m
    · rw [if_pos hn, if_pos ⟨hn, h⟩, hn]
    · rw [if_neg hn, if_neg (fun e => hn e.1)]
  · rw [if_neg h, if_neg (fun e => h e.2)]

/-- The frame counts a loss or an errored frame of its band, and nothing else (R25, R26). -/
theorem counter_receiveBand (p : Side) (b : Nat) (f : BandFrame) (s : State) (n : Nat) :
    (receiveBand p b f s).counter n =
      if n = ctrErrored p b ∧ erroredFrame (s.aligns p b f).1 f = true then saturate (s.counter n)
      else if n = ctrLosses p b ∧ (s.band p b).alignment = .aligned ∧ (s.aligns p b f).1 = .lost then saturate (s.counter n)
      else s.counter n := by
  have hset : (s.setBand p b (s.received p b f)).counter n = s.counter n := rfl
  rw [receiveBand_eq]
  dsimp only
  rw [counter_bump_if, counter_bump_if, hset]
  by_cases he : n = ctrErrored p b ∧ erroredFrame (s.aligns p b f).1 f = true
  · have hl : ¬(n = ctrLosses p b ∧ (s.band p b).alignment = .aligned ∧ (s.aligns p b f).1 = .lost) := fun h => by
      have := he.1.symm.trans h.1
      unfold ctrErrored ctrLosses at this
      omega
    rw [if_pos he, if_pos he, if_neg hl]
  · rw [if_neg he, if_neg he]

theorem viewsStay_receiveBand (p : Side) (b : Nat) (f : BandFrame) (s : State) : ViewsStay p s (receiveBand p b f s) := by
  have hset : ViewsStay p s (s.setBand p b (s.received p b f)) := .of_setBand p b rfl
  have hlosses : 4 ≤ ctrLosses p b := by cases p <;> simp only [ctrLosses, ctrPort] <;> omega
  have herrored : 4 ≤ ctrErrored p b := by cases p <;> simp only [ctrErrored, ctrPort] <;> omega
  rw [receiveBand_eq]
  dsimp only
  repeat' split
  · exact (hset.trans (.of_bump p hlosses _)).trans (.of_bump p herrored _)
  · exact hset.trans (.of_bump p herrored _)
  · exact hset.trans (.of_bump p hlosses _)
  · exact hset

/-! ### The frame -/

/-- The supervisor's state between a frame's alignment and its place in the degrade interval (log 30). -/
def State.turned (s : State) (p : Side) (b : Nat) (f : BandFrame) : Supervisor :=
  (s.band p b).supervisor.realigned s (s.band p b).alignment (s.aligns p b f).1

/-- The supervisor's state after a frame. -/
def State.supervised (s : State) (p : Side) (b : Nat) (f : BandFrame) : Supervisor :=
  (s.turned p b f).framed s (s.aligns p b f).1 (erroredFrame (s.aligns p b f).1 f)

/-- The state in which a frame's overhead is taken: the receiver and the supervisor have moved with the alignment (log 30). -/
def State.beforeOverhead (s : State) (p : Side) (b : Nat) (f : BandFrame) : State :=
  setSupervisor p b (s.turned p b f) (receiveBand p b f s)

section
variable (p : Side) {b : Nat} (hb : b < 4) (f : BandFrame) (s : State)
include hb

theorem band_receiveBand_same : (receiveBand p b f s).band p b = s.received p b f := by
  rw [band_receiveBand p p f s hb hb, if_pos ⟨rfl, rfl⟩]

theorem band_beforeOverhead (q : Side) {c : Nat} (hc : c < 4) :
    (s.beforeOverhead p b f).band q c =
      if q = p ∧ c = b then { s.received p b f with supervisor := s.turned p b f } else s.band q c := by
  rw [State.beforeOverhead, band_setSupervisor p q _ _ hb hc, band_receiveBand_same p hb]
  split
  · rfl
  · rename_i h
    rw [band_receiveBand p q f s hb hc, if_neg h]

theorem band_portOverhead (q : Side) {c : Nat} (hc : c < 4) :
    (portOverhead p b f (s.beforeOverhead p b f)).band q c =
      if q = p ∧ c = b then { s.received p b f with supervisor := s.turned p b f } else s.band q c := by
  rw [← band_beforeOverhead p hb f s q hc]
  unfold State.band
  rw [(overheard_portOverhead p b f _).bands]

/-- A frame moves its supervisor twice, with the overhead between (log 30). -/
theorem bandFrame_eq :
    bandFrame p b f s = setSupervisor p b (s.supervised p b f) (portOverhead p b f (s.beforeOverhead p b f)) := by
  have hr := viewsStay_receiveBand p b f s
  have hv := ViewsStay.of_overheard (overheard_portOverhead p b f (s.beforeOverhead p b f))
  have hsettings : (portOverhead p b f (s.beforeOverhead p b f)).settings = s.settings :=
    hv.settings.trans ((undisturbed_setSupervisor p b _ _).settings.trans hr.settings)
  have hnow : (portOverhead p b f (s.beforeOverhead p b f)).now = s.now :=
    hv.now.trans ((setSupervisor_frame _ _ _ _).2.1.trans hr.now)
  have hturned : alignmentChanged p b (s.band p b).alignment (receiveBand p b f s) = s.beforeOverhead p b f := by
    rw [alignmentChanged_eq, band_receiveBand_same p hb, realigned_congr hr.settings hr.now]
    rfl
  unfold bandFrame
  dsimp only
  rw [hturned, intervalFrame_eq, band_portOverhead p hb f s p hb, if_pos ⟨rfl, rfl⟩, framed_congr hsettings hnow]
  rfl

theorem band_bandFrame (q : Side) {c : Nat} (hc : c < 4) :
    (bandFrame p b f s).band q c =
      if q = p ∧ c = b then { s.received p b f with supervisor := s.supervised p b f } else s.band q c := by
  have hsame := (band_portOverhead p hb f s p hb).trans (if_pos ⟨rfl, rfl⟩)
  rw [bandFrame_eq p hb, band_setSupervisor p q _ _ hb hc, hsame]
  split
  · rfl
  · rename_i h
    rw [band_portOverhead p hb f s q hc, if_neg h]

/-- The counters of the bands are the receiver's alone (R26, R27). -/
theorem counter_bandFrame {n : Nat} (hn : besideOverhead n) (h4 : 4 ≤ n) :
    (bandFrame p b f s).counter n = (receiveBand p b f s).counter n := by
  rw [bandFrame_eq p hb, counter_setSupervisor (by omega) (by omega), (overheard_portOverhead p b f _).counter n hn,
    State.beforeOverhead, counter_setSupervisor (by omega) (by omega)]

theorem keepsBesidePort_bandFrame : keepsBesidePort p s (bandFrame p b f s) := by
  have hbefore : keepsBesidePort p s (s.beforeOverhead p b f) :=
    keepsBesidePort_trans (viewsStay_receiveBand p b f s).keeps (keepsBesidePort_setSupervisor p b _ _)
  have hover := (ViewsStay.of_overheard (overheard_portOverhead p b f (s.beforeOverhead p b f))).keeps
  rw [bandFrame_eq p hb]
  exact keepsBesidePort_trans (keepsBesidePort_trans hbefore hover) (keepsBesidePort_setSupervisor p b _ _)

/-- Each span that a frame changes is reported (R58). -/
theorem mapReported_bandFrame : mapReported s (bandFrame p b f s) := by
  have hr := viewsStay_receiveBand p b f s
  have ho := ViewsStay.of_overheard (overheard_portOverhead p b f (s.beforeOverhead p b f))
  have hreported : ∀ {v u w}, mapReported u w → mapReported u (setSupervisor p b v w) := fun {v u w} h =>
    mapReported_trans h (setSupervisor_answers p b v w).1 (undisturbed_setSupervisor p b v w).settings
  rw [bandFrame_eq p hb]
  exact hreported (mapReported_trans (hreported hr.reported) ho.reported ho.settings)

/-- A frame that moves the view at most once hands it on (R40, R44 to R46, R56, R58, R74, R75, R85). -/
theorem bandFrame_handedOn (h : (s.turned p b f).view = (s.band p b).supervisor.view ∨
    (s.supervised p b f).view = (s.turned p b f).view) :
    viewsAnswered s (bandFrame p b f s) ∧ viewHandedOn p b s (bandFrame p b f s) := by
  have hr := viewsStay_receiveBand p b f s
  have ho := ViewsStay.of_overheard (overheard_portOverhead p b f (s.beforeOverhead p b f))
  rw [bandFrame_eq p hb]
  rcases h with h | h
  · have hfirst : ViewsStay p s (s.beforeOverhead p b f) :=
      hr.trans (.of_setSupervisor (by rw [band_receiveBand_same p hb]; exact h))
    exact ⟨viewsAnswered_of_between (hfirst.trans ho) rfl (.refl p _), viewHandedOn_of_between hb (hfirst.trans ho) rfl (.refl p _)⟩
  · have hsecond := ho.trans (.of_setSupervisor (b := b) (v := s.supervised p b f)
      (by rw [band_portOverhead p hb f s p hb, if_pos ⟨rfl, rfl⟩]; exact h))
    exact ⟨viewsAnswered_of_between hr rfl hsecond, viewHandedOn_of_between hb hr rfl hsecond⟩

end

end Sys2Proof.Machine
end

section
/-! PROOF. The view that a supervisor derives, its state after a frame, and the frame of a band (O16). -/

namespace Sys2Proof.Machine

/-! ### Views (R38, R39) -/

/-- A view that is derived afresh changes nothing but the view and the return timer. -/
theorem deriveView_eq (lost : Bool) (now delay : Nat) (v : Supervisor) :
    deriveView lost now delay v =
      { v with view := (deriveView lost now delay v).view, returnTimer := (deriveView lost now delay v).returnTimer } := by
  unfold deriveView
  dsimp only
  repeat' split
  all_goals rfl

theorem deriveView_failed {v : Supervisor} (now delay : Nat) (h : v.holdOffExpired = true) :
    deriveView true now delay v = { v with view := .failed, returnTimer := none } := by
  unfold deriveView
  rw [h]
  rfl

section
variable {lost : Bool} {v : Supervisor} (now delay : Nat) (h : lost = false ∨ v.holdOffExpired = false)
include h

theorem deriveView_degraded (hr : v.rawDegrade = true) :
    deriveView lost now delay v = { v with view := .degraded, returnTimer := none } := by
  have hlost : (lost && v.holdOffExpired) = false := Bool.and_eq_false_iff.mpr h
  unfold deriveView
  rw [hlost, hr]
  rfl

theorem deriveView_starts (hr : v.rawDegrade = false)
    (hs : (v.view = .failed ∨ v.view = .degraded) ∧ v.firstAlignment = false ∧ delay ≠ 0) :
    deriveView lost now delay v = { v with view := .returnWait, returnTimer := some (now + delay) } := by
  have hlost : (lost && v.holdOffExpired) = false := Bool.and_eq_false_iff.mpr h
  have hstart : ((v.view == .failed || v.view == .degraded) && !v.firstAlignment && delay != 0) = true := by
    simpa [and_assoc] using hs
  unfold deriveView
  rw [hlost, hr]
  simp [hstart]

theorem deriveView_settles (hr : v.rawDegrade = false)
    (hs : ¬((v.view = .failed ∨ v.view = .degraded) ∧ v.firstAlignment = false ∧ delay ≠ 0)) :
    deriveView lost now delay v = { v with view := if v.returnTimer = none then .clear else .returnWait } := by
  have hlost : (lost && v.holdOffExpired) = false := Bool.and_eq_false_iff.mpr h
  have hstart : ((v.view == .failed || v.view == .degraded) && !v.firstAlignment && delay != 0) = false := by
    rw [Bool.eq_false_iff]
    exact fun e => hs (by simpa [and_assoc] using e)
  unfold deriveView
  rw [hlost, hr]
  simp only [hstart]
  cases v.returnTimer <;> simp

end

theorem returnPeriods_eq (s : State) : s.returnPeriods = 10000 * s.settings.returnDelay := Nat.mul_comm _ _

theorem ms_eq (n : Nat) : ms n = 10 * n := Nat.mul_comm _ _

/-! ### A supervisor's state after a frame -/

/-- A change of alignment leaves the degrade interval and raw degrade as they were (R34). -/
theorem realigned_keeps (s : State) (before after : Alignment) (v : Supervisor) :
    (v.realigned s before after).position = v.position ∧ (v.realigned s before after).errored = v.errored ∧
      (v.realigned s before after).touched = v.touched ∧ (v.realigned s before after).rawDegrade = v.rawDegrade := by
  unfold Supervisor.realigned
  split
  · split
    · rw [deriveView_eq]
      exact ⟨rfl, rfl, rfl, rfl⟩
    · exact ⟨rfl, rfl, rfl, rfl⟩
  · rw [deriveView_eq]
    exact ⟨rfl, rfl, rfl, rfl⟩
  · exact ⟨rfl, rfl, rfl, rfl⟩

/-- An alignment that stays leaves the supervisor to its degrade interval. -/
theorem realigned_same (s : State) (a : Alignment) (v : Supervisor) : v.realigned s a a = v := by
  cases a <;> rfl

theorem framed_inside (s : State) (a : Alignment) (errored : Bool) {v : Supervisor} (h : v.position < 9999) :
    v.framed s a errored = { v with
      position := v.position + 1, errored := v.errored + errored.toNat, touched := v.touched || a == .lost } := if_pos h

/-- What a degrade interval leaves at its last frame: a new interval, with raw degrade by R37's table (R36, R37). -/
theorem framed_ends (s : State) (a : Alignment) (errored : Bool) {v : Supervisor} (h : v.position = 9999) :
    let raw := rawDegradeAfter s.settings.degradeSet s.settings.degradeClear
      { v with errored := v.errored + errored.toNat, touched := v.touched || a == .lost }
    let x := { v with position := 0, errored := 0, touched := false, rawDegrade := raw }
    v.framed s a errored = if raw = v.rawDegrade then x else deriveView (a == .lost) s.now s.returnPeriods x :=
  if_neg (by omega)

/-! ### The receiver (R25, R26) -/

theorem aligns_eq (s : State) (p : Side) (b : Nat) (f : BandFrame) :
    s.aligns p b f = match (s.band p b).alignment, f.alignmentWord with
        | .lost, true => if (s.band p b).run + 1 < 2 then (.lost, (s.band p b).run + 1) else (.aligned, 0)
        | .lost, false => (.lost, 0)
        | .aligned, true => (.aligned, 0)
        | .aligned, false => if (s.band p b).run + 1 < 3 then (.aligned, (s.band p b).run + 1) else (.lost, 0) := by
  unfold State.aligns nextAlignment
  cases (s.band p b).alignment <;> cases f.alignmentWord <;> simp only [Config.goodRun, Config.missingRun, ← Nat.not_lt, ite_not]

theorem erroredFrame_iff (a : Alignment) (f : BandFrame) :
    erroredFrame a f = true ↔ a = .aligned ∧ ¬(f.alignmentWord = true ∧ f.payloadGood = true) := by
  unfold erroredFrame
  cases f.alignmentWord <;> cases f.payloadGood <;> simp

theorem erroredFrame_toNat (a : Alignment) (f : BandFrame) :
    (erroredFrame a f).toNat = if a = .aligned ∧ ¬(f.alignmentWord = true ∧ f.payloadGood = true) then 1 else 0 := by
  by_cases h : erroredFrame a f = true
  · rw [h, if_pos ((erroredFrame_iff a f).mp h)]
    rfl
  · rw [Bool.eq_false_iff.mpr h, if_neg (fun e => h ((erroredFrame_iff a f).mpr e))]
    rfl

theorem ctrLosses_inj {p q : Side} {b c : Nat} (hb : b < 4) (hc : c < 4) : ctrLosses q c = ctrLosses p b ↔ q = p ∧ c = b := by
  cases p <;> cases q <;> simp only [ctrLosses, ctrPort, true_and, reduceCtorEq, false_and, iff_false] <;> omega

theorem ctrErrored_inj {p q : Side} {b c : Nat} (hb : b < 4) (hc : c < 4) : ctrErrored q c = ctrErrored p b ↔ q = p ∧ c = b := by
  cases p <;> cases q <;> simp only [ctrErrored, ctrPort, true_and, reduceCtorEq, false_and, iff_false] <;> omega

theorem ctrLosses_ne_ctrErrored (p q : Side) {b c : Nat} (hb : b < 4) (hc : c < 4) : ctrLosses q c ≠ ctrErrored p b := by
  cases p <;> cases q <;> simp only [ctrLosses, ctrErrored, ctrPort] <;> omega

section
variable (p q : Side) {b c : Nat} (hb : b < 4) (hc : c < 4) (f : BandFrame) (s : State)
include hb hc

theorem losses_bandFrame :
    (bandFrame p b f s).counter (ctrLosses q c) =
      if (q = p ∧ c = b) ∧ (s.band p b).alignment = .aligned ∧ (s.aligns p b f).1 = .lost then saturate (s.counter (ctrLosses q c))
      else s.counter (ctrLosses q c) := by
  have h4 : 4 ≤ ctrLosses q c := by cases q <;> simp only [ctrLosses, ctrPort] <;> omega
  rw [counter_bandFrame p hb f s (besideOverhead_ctrLosses q hc) h4, counter_receiveBand,
    if_neg (fun h => ctrLosses_ne_ctrErrored p q hb hc h.1)]
  simp only [ctrLosses_inj hb hc]

theorem errored_bandFrame :
    (bandFrame p b f s).counter (ctrErrored q c) =
      if (q = p ∧ c = b) ∧ erroredFrame (s.aligns p b f).1 f = true then saturate (s.counter (ctrErrored q c))
      else s.counter (ctrErrored q c) := by
  have h4 : 4 ≤ ctrErrored q c := by cases q <;> simp only [ctrErrored, ctrPort] <;> omega
  rw [counter_bandFrame p hb f s (besideOverhead_ctrErrored q hc) h4, counter_receiveBand]
  simp only [ctrErrored_inj hb hc, (ctrLosses_ne_ctrErrored q p hc hb).symm, false_and, if_false]

end

/-! ### A frame inside a degrade interval -/

section
variable (p : Side) (b : Fin 4) (f : BandFrame) (s : State)

theorem band_bandFrame_same :
    (bandFrame p b f s).band p b = { s.received p b f with supervisor := s.supervised p b f } := by
  rw [band_bandFrame p b.isLt f s p b.isLt, if_pos ⟨rfl, rfl⟩]

theorem band_bandFrame_other (q : Side) (c : Fin 4) (h : ¬(q = p ∧ c = b)) : (bandFrame p b f s).band q c = s.band q c := by
  rw [band_bandFrame p b.isLt f s q c.isLt, if_neg (fun e => h ⟨e.1, Fin.ext e.2⟩)]

theorem now_bandFrame : (bandFrame p b f s).now = s.now := (bandFrame_frame s p b f).2.1

variable (h : (s.band p b).supervisor.position < 9999)
include h

/-- Inside a degrade interval the supervisor counts the frame and moves with the alignment alone (R34, R36). -/
theorem supervised_inside :
    s.supervised p b f = { s.turned p b f with
      position := (s.band p b).supervisor.position + 1
      errored := (s.band p b).supervisor.errored +
        (if (s.aligns p b f).1 = .aligned ∧ ¬(f.alignmentWord = true ∧ f.payloadGood = true) then 1 else 0)
      touched := (s.band p b).supervisor.touched || (s.aligns p b f).1 == .lost } := by
  obtain ⟨hposition, herrored, htouched, _⟩ :=
    realigned_keeps s (s.band p b).alignment (s.aligns p b f).1 (s.band p b).supervisor
  rw [← erroredFrame_toNat, ← hposition, ← herrored, ← htouched]
  exact framed_inside s _ _ (v := s.turned p b f) (hposition ▸ h)

theorem handedOn_inside : viewsAnswered s (bandFrame p b f s) ∧ viewHandedOn p b s (bandFrame p b f s) :=
  bandFrame_handedOn p b.isLt f s (.inr (by rw [supervised_inside p b f s h]))

end

/-- Settles O16: the band by `band_bandFrame`, the counters by the receiver's alone, the view moved with the alignment alone. -/
theorem bandFrameMovesTheReceiver : Obligations.BandFrameMovesTheReceiver := by
  intro p b f s
  have hband := band_bandFrame_same p b f s
  refine ⟨bandFrame p b f s, rfl, ?_, fun ha => ?_, fun ha => ?_, ?_, ?_, fun q c hqc => ⟨?_, ?_, ?_⟩, fun hp => ?_,
    keepsBesidePort_bandFrame p b.isLt f s, now_bandFrame p b f s⟩
  · rw [hband]
    exact aligns_eq s p b f
  · rw [hband] at ha ⊢
    exact congrArg (fun a => deliveredSlots a f.slots) ha
  · rw [hband] at ha ⊢
    exact congrArg (fun a => deliveredSlots a f.slots) ha
  · rw [losses_bandFrame p p b.isLt b.isLt, hband]
    simp only [true_and, and_self]
    rfl
  · rw [errored_bandFrame p p b.isLt b.isLt, hband]
    simp only [erroredFrame_iff, true_and, and_self]
    rfl
  · exact band_bandFrame_other p b f s q c hqc
  · rw [losses_bandFrame p q b.isLt c.isLt, if_neg (fun e => hqc ⟨e.1.1, Fin.ext e.1.2⟩)]
  · rw [errored_bandFrame p q b.isLt c.isLt, if_neg (fun e => hqc ⟨e.1.1, Fin.ext e.1.2⟩)]
  · obtain ⟨hanswered, hhanded⟩ := handedOn_inside p b f s hp
    rw [hband]
    dsimp only
    rw [supervised_inside p b f s hp]
    refine ⟨rfl, ?_, rfl, hhanded, hanswered⟩
    exact congrArg (fun x => (s.band p b).supervisor.touched || x) (beq_eq_decide (s.aligns p b f).1 .lost)

end Sys2Proof.Machine
end

section
/-! PROOF. Band Supervisors: the entries into LOST and ALIGNED (O18, O19), the end of a degrade interval (O20) and the expiries of
the hold-off and the return timer (O21, O22). -/

namespace Sys2Proof.Machine

/-! ### The entries into LOST and ALIGNED -/

theorem exec_bandEntryIntoLost {p : Side} {b : Fin 4} {s : State} (ha : (s.band p b).alignment = .aligned)
    (hr : (s.band p b).run = 2) :
    exec (.bandEntryIntoLost p b) s = .next (bandFrame p b noSignal s) ∧ s.aligns p b noSignal = (.lost, 0) := by
  refine ⟨congrArg Host.Outcome.next (if_pos ⟨ha, by rw [hr]; rfl⟩), ?_⟩
  rw [aligns_eq, ha, hr]
  rfl

theorem exec_bandEntryIntoAligned {p : Side} {b : Fin 4} {f : BandFrame} {s : State} (ha : (s.band p b).alignment = .lost)
    (hr : (s.band p b).run = 1) (hw : f.alignmentWord = true) :
    exec (.bandEntryIntoAligned p b f) s = .next (bandFrame p b f s) ∧ s.aligns p b f = (.aligned, 0) := by
  refine ⟨congrArg Host.Outcome.next (if_pos ⟨ha, by rw [hr]; rfl, hw⟩), ?_⟩
  rw [aligns_eq, ha, hr, hw]
  rfl

/-- Entry into LOST without hold-off makes the view FAILED (R34). -/
theorem realigned_lost_failed {s : State} (h : s.settings.holdOff = 0) (v : Supervisor) :
    v.realigned s .aligned .lost = { v with holdOffExpired := true, view := .failed, returnTimer := none } :=
  (if_pos h).trans (deriveView_failed _ _ rfl)

/-- Entry into LOST with a hold-off starts the timer (R34). -/
theorem realigned_lost_held {s : State} (h : s.settings.holdOff ≠ 0) (v : Supervisor) :
    v.realigned s .aligned .lost = { v with holdOff := some (s.now + 10 * s.settings.holdOff) } := by
  rw [← ms_eq]
  exact if_neg h

/-- Settles O18: the frame period moves the band by `realigned_lost_failed` or `realigned_lost_held`, and the view at most once. -/
theorem entryIntoLostStartsHoldOff : Obligations.EntryIntoLostStartsHoldOff := by
  intro p b s ha hr hp
  obtain ⟨hexec, hlost⟩ := exec_bandEntryIntoLost ha hr
  obtain ⟨hanswered, hhanded⟩ := handedOn_inside p b noSignal s hp
  have hband := band_bandFrame_same p b noSignal s
  have hreceived : s.received p b noSignal = { s.band p b with alignment := .lost, run := 0, slots := [] } := by
    unfold State.received
    rw [hlost]
    rfl
  have hturned : s.turned p b noSignal = (s.band p b).supervisor.realigned s .aligned .lost := by
    unfold State.turned
    rw [hlost, ha]
  rw [hreceived, supervised_inside p b noSignal s hp, hlost, hturned] at hband
  refine ⟨_, hexec, by rw [hband], by rw [hband], by rw [hband], ?_, fun h0 => ?_, fun h0 => ?_,
    band_bandFrame_other p b noSignal s, keepsBesidePort_bandFrame p b.isLt noSignal s, now_bandFrame p b noSignal s,
    hanswered, hhanded⟩
  · rw [losses_bandFrame p p b.isLt b.isLt, if_pos ⟨⟨rfl, rfl⟩, ha, by rw [hlost]⟩]
  · rw [hband, realigned_lost_failed h0]
    exact ⟨rfl, rfl, rfl⟩
  · rw [hband, realigned_lost_held h0]
    simp

/-- Settles O19: the supervisor's new state is a view derived afresh (`deriveView`), by raw degrade and the return timer. -/
theorem entryIntoAlignedDerivesTheView : Obligations.EntryIntoAlignedDerivesTheView := by
  intro p b f s ha hr hw hp v starts
  obtain ⟨hexec, haligned⟩ := exec_bandEntryIntoAligned ha hr hw
  obtain ⟨hanswered, hhanded⟩ := handedOn_inside p b f s hp
  have hband := band_bandFrame_same p b f s
  have hreceived : s.received p b f = { s.band p b with
      alignment := .aligned, run := 0, slots := f.slots.map RawSlot.delivered } := by
    unfold State.received
    rw [haligned]
    rfl
  have hturned : s.turned p b f = { deriveView false s.now s.returnPeriods { v with holdOff := none, holdOffExpired := false } with
      firstAlignment := false } := by
    unfold State.turned
    rw [haligned, ha]
    rfl
  rw [hreceived, supervised_inside p b f s hp, haligned, hturned] at hband
  refine ⟨_, hexec, by rw [hband], by rw [hband], by rw [hband], ?_,
    band_bandFrame_other p b f s, keepsBesidePort_bandFrame p b.isLt f s, now_bandFrame p b f s, hanswered, hhanded⟩
  rw [hband]
  have hkept := deriveView_eq false s.now s.returnPeriods { v with holdOff := none, holdOffExpired := false }
  have hderived := fun h => deriveView_degraded (lost := false) (v := { v with holdOff := none, holdOffExpired := false })
    s.now s.returnPeriods (.inl rfl) h
  have hstarted := fun h => deriveView_starts (lost := false) (v := { v with holdOff := none, holdOffExpired := false })
    s.now s.returnPeriods (.inl rfl) h
  have hsettled := fun h => deriveView_settles (lost := false) (v := { v with holdOff := none, holdOffExpired := false })
    s.now s.returnPeriods (.inl rfl) h
  have hstarts : starts ↔ (v.view = .failed ∨ v.view = .degraded) ∧ v.firstAlignment = false ∧ s.returnPeriods ≠ 0 := by
    simp [starts, returnPeriods_eq]
  refine ⟨by rw [hkept], by rw [hkept], rfl, by rw [hkept], fun hraw => ?_, fun hraw hst => ?_, fun hraw hst => ?_⟩
  · rw [hderived hraw]
    exact ⟨rfl, rfl⟩
  · rw [hstarted hraw (hstarts.mp hst), returnPeriods_eq]
    exact ⟨rfl, rfl⟩
  · rw [hsettled hraw (fun h => hst (hstarts.mpr h))]
    exact ⟨rfl, rfl⟩

/-! ### The end of a degrade interval -/

/-- What the frame that ends a degrade interval leaves of it: a new interval, raw degrade by R37's table, and a view derived afresh
when raw degrade has changed (R36, R37). -/
theorem framed_ended (s : State) (a : Alignment) (errored : Bool) {v : Supervisor} (h : v.position = 9999) :
    let w := v.framed s a errored
    w.position = 0 ∧ w.errored = 0 ∧ w.touched = false ∧
      w.rawDegrade =
        (if s.settings.degradeSet = 0 then false
        else if v.touched = true ∨ a = .lost then v.rawDegrade
        else if s.settings.degradeSet ≤ v.errored + errored.toNat then true
        else if v.errored + errored.toNat < s.settings.degradeClear then false
        else v.rawDegrade) ∧
      (w.rawDegrade = v.rawDegrade → w.view = v.view ∧ w.returnTimer = v.returnTimer) ∧
      (w.rawDegrade ≠ v.rawDegrade → w = deriveView (a == .lost) s.now s.returnPeriods
        { v with position := 0, errored := 0, touched := false, rawDegrade := w.rawDegrade }) := by
  have htable : rawDegradeAfter s.settings.degradeSet s.settings.degradeClear
      { v with errored := v.errored + errored.toNat, touched := v.touched || a == .lost } =
      (if s.settings.degradeSet = 0 then false
      else if v.touched = true ∨ a = .lost then v.rawDegrade
      else if s.settings.degradeSet ≤ v.errored + errored.toNat then true
      else if v.errored + errored.toNat < s.settings.degradeClear then false
      else v.rawDegrade) := by
    unfold rawDegradeAfter
    simp only [Bool.or_eq_true, beq_iff_eq]
  intro w
  have hw : w = _ := framed_ends s a errored h
  rw [htable] at hw
  generalize (if s.settings.degradeSet = 0 then false else _ : Bool) = raw at hw ⊢
  by_cases hraw : raw = v.rawDegrade
  · rw [if_pos hraw] at hw
    rw [hw]
    exact ⟨rfl, rfl, rfl, rfl, fun _ => ⟨rfl, rfl⟩, fun hne => absurd hraw hne⟩
  · rw [if_neg hraw] at hw
    have hkept := hw
    rw [deriveView_eq] at hkept
    have hwraw : w.rawDegrade = raw := by rw [hkept]
    exact ⟨by rw [hkept], by rw [hkept], by rw [hkept], hwraw, fun he => absurd (hwraw.symm.trans he) hraw, fun _ => by rw [hwraw]; exact hw⟩

/-- A band that loses its alignment with the last frame of an interval moves its view at most once (R34, R37). -/
theorem framed_lost_view (s : State) (errored : Bool) {v : Supervisor} (h : v.position = 9999) :
    (v.realigned s .aligned .lost).view = v.view ∨
      ((v.realigned s .aligned .lost).framed s .lost errored).view = (v.realigned s .aligned .lost).view := by
  by_cases h0 : s.settings.holdOff = 0
  · right
    rw [realigned_lost_failed h0, framed_ends s .lost errored
      (v := { v with holdOffExpired := true, view := .failed, returnTimer := none }) h]
    split
    · rfl
    · rw [show ((Alignment.lost == .lost) = true) from rfl, deriveView_failed _ _ rfl]
  · left
    rw [realigned_lost_held h0]

/-- Settles O20: raw degrade by `framed_ended`; but for a band that enters ALIGNED with a changed raw degrade, one of the
supervisor's two moves in the frame leaves the view. -/
theorem degradeIntervalEndSetsRawDegrade : Obligations.DegradeIntervalEndSetsRawDegrade := by
  intro p b f s hp v
  have hexec : exec (.degradeIntervalEnd p b f) s = .next (bandFrame p b f s) := congrArg Host.Outcome.next (if_pos hp)
  have hband := band_bandFrame_same p b f s
  have halign : ((bandFrame p b f s).band p b).alignment = (s.aligns p b f).1 := by rw [hband]; rfl
  have hsup : ((bandFrame p b f s).band p b).supervisor = s.supervised p b f := by rw [hband]
  obtain ⟨hposition, herrored, htouched, hraw⟩ := realigned_keeps s (s.band p b).alignment (s.aligns p b f).1 v
  have hturned : s.turned p b f = v.realigned s (s.band p b).alignment (s.aligns p b f).1 := rfl
  rw [← hturned] at hposition herrored htouched hraw
  obtain ⟨hstart, hcount, htouch, hafter, hsame, hmoved⟩ := framed_ended s (s.aligns p b f).1 (erroredFrame (s.aligns p b f).1 f)
    (v := s.turned p b f) (hposition.trans hp)
  rw [← State.supervised] at hstart hcount htouch hafter hsame hmoved
  rw [hraw] at hafter hsame hmoved
  refine ⟨_, hexec, ?_, mapReported_bandFrame p b.isLt f s, fun honce => ?_, band_bandFrame_other p b f s,
    keepsBesidePort_bandFrame p b.isLt f s, now_bandFrame p b f s⟩
  · rw [hsup, halign]
    refine ⟨hstart, hcount, htouch, ?_, fun hb ha => ?_⟩
    · rw [hafter, herrored, htouched, erroredFrame_toNat]
    · have hstays : s.turned p b f = v := by rw [hturned, ha, hb, realigned_same]
      rw [hstays] at hsame hmoved
      rw [ha, show (Alignment.aligned == .lost) = false from rfl] at hmoved
      refine ⟨hsame, fun h1 h2 => ?_, fun h1 h2 hdegraded hfirst hdelay => ?_⟩
      · rw [hmoved (by rw [h1, h2]; decide), h1, deriveView_degraded _ _ (.inl rfl) rfl]
        exact ⟨rfl, rfl⟩
      · have hstarted := deriveView_starts (lost := false) s.now s.returnPeriods (.inl rfl) rfl
          (v := { v with position := 0, errored := 0, touched := false, rawDegrade := false })
          ⟨.inr hdegraded, hfirst, by rw [returnPeriods_eq]; omega⟩
        rw [hmoved (by rw [h1, h2]; decide), h1, hstarted, returnPeriods_eq]
        exact ⟨rfl, rfl⟩
  · rw [hsup, halign] at honce
    refine bandFrame_handedOn p b.isLt f s ?_
    cases hb : (s.band p b).alignment with
    | aligned =>
      cases ha : (s.aligns p b f).1 with
      | aligned => exact .inl (by rw [hturned, hb, ha, realigned_same])
      | lost =>
        rw [State.supervised, hturned, hb, ha]
        exact framed_lost_view s _ hp
    | lost =>
      cases ha : (s.aligns p b f).1 with
      | lost => exact .inl (by rw [hturned, hb, ha, realigned_same])
      | aligned =>
        rw [hb, ha] at honce
        have hkept : (s.supervised p b f).rawDegrade = v.rawDegrade := by simpa using honce
        exact .inr (hsame hkept).1

/-! ### Expiries -/

/-- What an expiry of a supervisor's timer at time `e` does, when it gives the supervisor the state `v` (R35, R39, R40). -/
theorem expiry_spec {p : Side} {b : Fin 4} {s : State} {e : Nat} {v : Supervisor} {x : State}
    (hx : x = setSupervisor p b v (s.reach e)) :
    x.now = max s.now e ∧ x.band p b = { s.band p b with supervisor := v } ∧
      (∀ q (c : Fin 4), ¬(q = p ∧ c = b) → x.band q c = s.band q c) ∧ keepsBesidePort p s x ∧ mapReported s x ∧
      engineAnswers s x ∧ viewHandedOn p b s x := by
  subst hx
  obtain ⟨hreported, hanswers⟩ := setSupervisor_answers p b v (s.reach e)
  refine ⟨(setSupervisor_frame _ p b v).2.1, ?_, fun q c hqc => ?_, keepsBesidePort_setSupervisor p b v (s.reach e), hreported,
    hanswers, setSupervisor_handedOn p b.isLt v (s.reach e)⟩
  · exact (band_setSupervisor p p v _ b.isLt b.isLt).trans (if_pos ⟨rfl, rfl⟩)
  · exact (band_setSupervisor p q v _ b.isLt c.isLt).trans (if_neg (fun h => hqc ⟨h.1, Fin.ext h.2⟩))

/-- Settles O21, by what an expiry does to a supervisor (`expiry_spec`). -/
theorem holdOffExpiryMakesTheViewFailed : Obligations.HoldOffExpiryMakesTheViewFailed := by
  intro p b s e he hlost
  have hderived : deriveView ((s.band p b).alignment == .lost) (max s.now e) s.returnPeriods
      { (s.band p b).supervisor with holdOff := none, holdOffExpired := true } =
      { (s.band p b).supervisor with holdOff := none, holdOffExpired := true, view := .failed, returnTimer := none } := by
    rw [hlost]
    exact deriveView_failed _ _ rfl
  have hexpiry : holdOffExpiry p b s = setSupervisor p b
      { (s.band p b).supervisor with holdOff := none, holdOffExpired := true, view := .failed, returnTimer := none } (s.reach e) := by
    rw [← hderived]
    unfold holdOffExpiry
    dsimp only
    rw [he]
    rfl
  obtain ⟨hnow, hband, hothers, hkeeps, hreported, hanswers, hhanded⟩ := expiry_spec hexpiry
  refine ⟨_, rfl, hnow, hband, hothers, hkeeps, hreported, hanswers, fun hview => ?_, hhanded⟩
  rw [hband, hexpiry]
  exact setSupervisor_unmoved (s := s.reach e) hview.symm

/-- Settles O22, by what an expiry does to a supervisor (`expiry_spec`). -/
theorem returnTimerExpiryClearsTheView : Obligations.ReturnTimerExpiryClearsTheView := by
  intro p b s e he hview hraw hup
  have hderived : deriveView ((s.band p b).alignment == .lost) (max s.now e) s.returnPeriods
      { (s.band p b).supervisor with returnTimer := none } =
      { (s.band p b).supervisor with returnTimer := none, view := .clear } := by
    refine deriveView_settles _ _ (hup.imp_left (fun h => by rw [h]; rfl)) hraw (fun h => ?_)
    simp [hview] at h
  have hexpiry : returnTimerExpiry p b s = setSupervisor p b
      { (s.band p b).supervisor with returnTimer := none, view := .clear } (s.reach e) := by
    rw [← hderived]
    unfold returnTimerExpiry
    dsimp only
    rw [he]
    rfl
  obtain ⟨hnow, hband, hothers, hkeeps, hreported, hanswers, hhanded⟩ := expiry_spec hexpiry
  exact ⟨_, rfl, hnow, hband, hothers, hkeeps, hreported, hanswers, hhanded⟩

end Sys2Proof.Machine
end

section
/-! PROOF. The transmitters of a line port (O23). -/

namespace Sys2Proof.Machine

/-- A slot that carries FILL_IDLE is sent with the tag field of a slot without a circuit (12_formats.md). -/
theorem raw_idle : Slot.idle.raw = { content := .fillIdle, tag := 0xFFFF } := rfl

/-- What an output's frame slot carries, by the output's source (R125). -/
theorem outputSlot_raw (s : State) (o : Nat) :
    match (s.connection o).source with
    | .fillIdle => (outputSlot s o).raw = { content := .fillIdle, tag := 0xFFFF }
    | .lineIn q u =>
      if (s.band q (u / 16)).alignment = .aligned then
        (outputSlot s o).raw = ((s.band q (u / 16)).slots.getD (u % 16) .idle).raw
      else (outputSlot s o).raw = { content := .fillIdle, tag := 0xFFFF }
    | .tribIn q u c =>
      if (s.trib q).alignment = .aligned then
        (outputSlot s o).raw = { content := ((s.trib q).slots.getD u .idle).content, tag := BitVec.ofNat 16 c }
      else (outputSlot s o).raw = { content := .fillIdle, tag := 0xFFFF } := by
  unfold outputSlot supplied
  cases (s.connection o).source with
  | fillIdle => rfl
  | lineIn q u =>
    dsimp only
    split
    · rfl
    · exact raw_idle
  | tribIn q u c =>
    dsimp only
    split
    · rfl
    · exact raw_idle

/-- The four frames that the transmitters of a port send (R32). -/
def framesSent (s : State) (p : Side) : Quad BandFrame :=
  { b0 := bandFrameSent s p 0, b1 := bandFrameSent s p 1, b2 := bandFrameSent s p 2, b3 := bandFrameSent s p 3 }

theorem framesSent_get (s : State) (p : Side) (b : Fin 4) : (framesSent s p).get b = bandFrameSent s p b := by
  match b with
  | 0 | 1 | 2 | 3 => rfl

/-- The state after the transmitters of a port have sent. -/
theorem bandFrameTransmit_eq (p : Side) (s : State) :
    bandFrameTransmit p s = { s with
      ports := s.ports.set p { s.port p with sent := some (framesSent s p) }
      notices := { s.notices with queues := s.notices.queues.set p (s.notices.queues.get p).tail }
      mgmt := { s.mgmt with
        queues := s.mgmt.queues.set (.line p)
          (dropSent (s.mgmt.queues.get (.line p)).frames ((s.mgmt.queues.get (.line p)).sent + 32)) } } := rfl

/-- Settles O23: the frames by `outputSlot_raw`, the outgoing stream by `dropSent_spec`. -/
theorem bandTransmittersSendTheOutputs : Obligations.BandTransmittersSendTheOutputs := by
  intro p s
  have hqueue : (bandFrameTransmit p s).mgmt.queues.get (.line p) =
      dropSent (s.mgmt.queues.get (.line p)).frames ((s.mgmt.queues.get (.line p)).sent + 32) := by
    rw [bandFrameTransmit_eq]
    exact (Trio.get_set _ _ _ _).trans (if_pos rfl)
  obtain ⟨hstream, hsuffix, hsent⟩ :=
    dropSent_spec (s.mgmt.queues.get (.line p)).frames ((s.mgmt.queues.get (.line p)).sent + 32)
  rw [← hqueue] at hstream hsuffix hsent
  refine ⟨bandFrameTransmit p s, framesSent s p, rfl, ?_, fun b => ?_, ?_, hsuffix, hsent, ?_⟩
  · rw [bandFrameTransmit_eq]
    exact congrArg LinePort.sent (Pair.get_set_same _ _ _)
  · rw [framesSent_get]
    exact ⟨rfl, rfl, fun i hi => ⟨(outputSlot s (lineOutput p (16 * b + i))).raw, by simp [bandFrameSent, hi], outputSlot_raw s _⟩, rfl, rfl, streamField_eq _⟩
  · rw [hstream]
    unfold FrameQueue.stream
    rw [List.drop_drop]
  · rw [hqueue]
    exact bandFrameTransmit_eq p s

end Sys2Proof.Machine
end

section
/-! PROOF. The overhead source band (R28) and what a frame of it delivers: the notice field and the management bytes (O17). -/

namespace Sys2Proof.Machine

/-! ### The overhead source band (R28) -/

theorem sourceBand_eq_some (l : LinePort) (c : Nat) :
    l.sourceBand = some c ↔ (l.bands.get c).alignment = .aligned ∧ c < 4 ∧ ∀ d, d < c → (l.bands.get d).alignment ≠ .aligned := by
  unfold LinePort.sourceBand
  rw [List.find?_range_eq_some]
  simp

theorem sourceBand_eq_none (l : LinePort) : l.sourceBand = none ↔ ∀ c, c < 4 → (l.bands.get c).alignment ≠ .aligned := by
  unfold LinePort.sourceBand
  rw [List.find?_range_eq_none]
  simp

section
variable {p : Side} {s : State} (f : BandFrame)

/-- A frame of a band above the source band has no overhead (R28). -/
theorem portOverhead_above {b c : Nat} (hb : b < 4) (hcb : c < b) (hc : (s.band p c).alignment = .aligned) : portOverhead p b f s = s := by
  unfold portOverhead
  cases hsrc : (s.port p).sourceBand with
  | none => exact absurd hc ((sourceBand_eq_none _).mp hsrc c (by omega))
  | some d =>
    obtain ⟨_, _, hlowest⟩ := (sourceBand_eq_some _ _).mp hsrc
    have hdb : d ≠ b := fun e => hlowest c (e ▸ hcb) hc
    exact if_neg hdb

/-- The overhead of a frame of the source band is taken (R28). -/
theorem portOverhead_source {b : Nat} (hb : b < 4) (ha : (s.band p b).alignment = .aligned)
    (hlower : ∀ c, c < b → (s.band p c).alignment = .lost) : portOverhead p b f s = takeOverhead p f s := by
  have hsrc : (s.port p).sourceBand = some b :=
    (sourceBand_eq_some _ _).mpr ⟨ha, hb, fun c hc h => by
      have := (hlower c hc).symm.trans h
      cases this⟩
  unfold portOverhead
  rw [hsrc]
  exact if_pos rfl

/-- The frame of band 3 that leaves no band ALIGNED leaves the port without a source (R31; log 6). -/
theorem portOverhead_none (hlost : ∀ c, c < 4 → (s.band p c).alignment = .lost) : portOverhead p 3 f s = setStreaming p false s := by
  have hsrc : (s.port p).sourceBand = none :=
    (sourceBand_eq_none _).mpr (fun c hc h => by
      have := (hlost c hc).symm.trans h
      cases this)
  unfold portOverhead
  rw [hsrc]
  exact if_pos rfl

end

/-! ### The notice field (R29, R30) -/

/-- A port whose latch holds a field of a class, with the class counted (R30). -/
def State.latched (s : State) (p : Side) (cls : NoticeClass) (g : NoticeField) : State :=
  bump (ctrNotice p cls) (s.setPort p { s.port p with latch := .held cls g })

/-- What reading a notice field does, by the outcome of its check and its kind byte (R29, R30). -/
theorem readNotice_eq (p : Side) (n : NoticeField) (s : State) :
    readNotice p n s = match checkField n with
      | (.uncorrectable, g) => s.latched p .uncorrectable g
      | (.clean, g) => if fieldByte g 0 = 0 then s else s.latched p (if fieldByte g 0 = 1 then .clean else .unknownKind) g
      | (.corrected, g) => if fieldByte g 0 = 0 then s else s.latched p (if fieldByte g 0 = 1 then .corrected else .unknownKind) g := by
  have hkind : ∀ cls g, (match (if fieldByte g 0 = 0 then none else if fieldByte g 0 = 1 then some (cls, g)
        else some (NoticeClass.unknownKind, g) : Option (NoticeClass × NoticeField)) with
      | none => s
      | some (cls, g) => bump (ctrNotice p cls) (s.setPort p { s.port p with latch := .held cls g })) =
      if fieldByte g 0 = 0 then s else s.latched p (if fieldByte g 0 = 1 then cls else .unknownKind) g := by
    intro cls g
    by_cases h0 : fieldByte g 0 = 0
    · rw [if_pos h0, if_pos h0]
    · rw [if_neg h0, if_neg h0]
      by_cases h1 : fieldByte g 0 = 1
      · rw [if_pos h1, if_pos h1]
        rfl
      · rw [if_neg h1, if_neg h1]
        rfl
  unfold readNotice readField
  cases h : checkField n with
  | mk outcome g =>
    cases outcome with
    | uncorrectable => rfl
    | clean => exact hkind .clean g
    | corrected => exact hkind .corrected g

theorem streaming_readNotice (p : Side) (n : NoticeField) (s : State) : ((readNotice p n s).port p).streaming = (s.port p).streaming := by
  unfold readNotice
  split
  · rfl
  · show ((s.ports.set p _).get p).streaming = _
    rw [Pair.get_set_same]

theorem streaming_receiveBand (p : Side) (b : Nat) (f : BandFrame) (s : State) :
    ((receiveBand p b f s).port p).streaming = (s.port p).streaming := by
  unfold State.port
  rw [ports_receiveBand]
  show ((s.ports.set p _).get p).streaming = _
  rw [Pair.get_set_same]
  rfl

/-! ### Overhead and the band's own state -/

theorem setBand_setBand (p : Side) (b : Nat) (v w : Band) (s : State) : (s.setBand p b v).setBand p b w = s.setBand p b w := by
  unfold State.setBand State.setPort State.port
  rw [Pair.get_set_same]
  have hset : ∀ q : Quad Band, (q.set b v).set b w = q.set b w := fun q => by
    match b with
    | 0 | 1 | 2 | 3 => rfl
    | _ + 4 => rfl
  cases p <;> simp only [Pair.set, hset]

theorem ChannelOnly.setBand {g : State → State} (h : ChannelOnly g) (p : Side) (b : Nat) (v : Band) (s : State) :
    (g s).setBand p b v = g (s.setBand p b v) := by
  have hports : (g s).ports = s.ports := by rw [h.rest]
  refine Eq.trans ?_ (h.ports s (s.setBand p b v).ports).symm
  unfold State.setBand State.setPort State.port
  rw [hports]

theorem setLatch_setBand (p : Side) (b : Nat) (v : Band) (latch : Latch) (s : State) :
    (s.setPort p { s.port p with latch := latch }).setBand p b v =
      (s.setBand p b v).setPort p { (s.setBand p b v).port p with latch := latch } := by
  unfold State.setBand State.setPort State.port
  cases p <;> rfl

theorem readNotice_setBand (p : Side) (b : Nat) (v : Band) (n : NoticeField) (s : State) :
    (readNotice p n s).setBand p b v = readNotice p n (s.setBand p b v) := by
  unfold readNotice
  split
  · rfl
  · rename_i cls g _
    exact congrArg (bump (ctrNotice p cls)) (setLatch_setBand p b v (.held cls g) s)

theorem band_receiveBand_lower {p : Side} {b c : Fin 4} (f : BandFrame) (s : State) (hc : c < b) :
    (receiveBand p b f s).band p c = s.band p c := by
  rw [band_receiveBand p p f s b.isLt c.isLt, if_neg (fun h => absurd h.2 (Nat.ne_of_lt hc))]

/-! ### A frame that leaves its band ALIGNED inside an interval -/

/-- The state after the receiver and the supervisor have taken a frame that leaves the band ALIGNED, inside its degrade interval
(R26, R27, R36). -/
def State.quietFrame (s : State) (p : Side) (b : Fin 4) (f : BandFrame) : State :=
  let errored : Bool := !(f.alignmentWord && f.payloadGood)
  let delivered := s.setBand p b
    { alignment := .aligned, run := if f.alignmentWord = true then 0 else (s.band p b).run + 1
      slots := f.slots.map RawSlot.delivered
      supervisor := { (s.band p b).supervisor with
        position := (s.band p b).supervisor.position + 1
        errored := (s.band p b).supervisor.errored + errored.toNat } }
  if errored = true then bump (ctrErrored p b) delivered else delivered

section
variable {p : Side} {b : Fin 4} {f : BandFrame} {s : State} (ha : (s.band p b).alignment = .aligned)
  (hw : f.alignmentWord = true ∨ (s.band p b).run < 2)
include ha hw

theorem aligns_aligned : s.aligns p b f = (.aligned, if f.alignmentWord = true then 0 else (s.band p b).run + 1) := by
  rw [aligns_eq, ha]
  cases hword : f.alignmentWord with
  | true => rfl
  | false =>
    have hrun : (s.band p b).run + 1 < 3 := by
      have := hw.resolve_left (by rw [hword]; decide)
      omega
    exact if_pos hrun

theorem receiveBand_aligned :
    receiveBand p b f s = if (!(f.alignmentWord && f.payloadGood)) = true then
      bump (ctrErrored p b) (s.setBand p b (s.received p b f)) else s.setBand p b (s.received p b f) := by
  have herrored : erroredFrame .aligned f = !(f.alignmentWord && f.payloadGood) := by
    unfold erroredFrame
    cases f.alignmentWord <;> cases f.payloadGood <;> rfl
  have hloss : ¬((s.band p b).alignment = .aligned ∧ Alignment.aligned = .lost) := fun h => nomatch h.2
  rw [receiveBand_eq, aligns_aligned ha hw, herrored]
  dsimp only
  rw [if_neg hloss]

variable (hp : (s.band p b).supervisor.position < 9999)
include hp

/-- Such a frame is the receiver's work, the overhead, and a supervisor whose view stays. -/
theorem bandFrame_aligned :
    bandFrame p b f s = (portOverhead p b f (receiveBand p b f s)).setBand p b
      { s.received p b f with supervisor := s.supervised p b f } := by
  have halign := aligns_aligned ha hw
  have hturned : s.turned p b f = (s.band p b).supervisor := by
    unfold State.turned
    rw [halign, ha, realigned_same]
  have hband := band_receiveBand_same p b.isLt f s
  have hself : s.beforeOverhead p b f = receiveBand p b f s := by
    have h := setSupervisor_self p b (receiveBand p b f s)
    rw [hband] at h
    rw [State.beforeOverhead, hturned]
    exact h
  have hover : (portOverhead p b f (receiveBand p b f s)).band p b = s.received p b f := by
    rw [← hband]
    unfold State.band
    rw [(overheard_portOverhead p b f _).bands]
  rw [bandFrame_eq p b.isLt, hself]
  refine (setSupervisor_unmoved ?_).trans (by rw [hover])
  rw [hover, supervised_inside p b f s hp, hturned]
  rfl

/-- Without its overhead such a frame is the receiver's and the supervisor's work. -/
theorem receiveBand_setBand_aligned :
    (receiveBand p b f s).setBand p b { s.received p b f with supervisor := s.supervised p b f } = s.quietFrame p b f := by
  have hband : ({ s.received p b f with supervisor := s.supervised p b f } : Band) =
      { alignment := .aligned, run := if f.alignmentWord = true then 0 else (s.band p b).run + 1
        slots := f.slots.map RawSlot.delivered
        supervisor := { (s.band p b).supervisor with
          position := (s.band p b).supervisor.position + 1
          errored := (s.band p b).supervisor.errored + (!(f.alignmentWord && f.payloadGood)).toNat } } := by
    rw [supervised_inside p b f s hp]
    unfold State.received State.turned
    rw [aligns_aligned ha hw, ha, realigned_same]
    cases f.alignmentWord <;> cases f.payloadGood <;> simp [deliveredSlots]
  unfold State.quietFrame
  rw [receiveBand_aligned ha hw, hband]
  dsimp only
  split
  · exact congrArg (bump (ctrErrored p b)) (setBand_setBand p b _ _ s)
  · exact setBand_setBand p b _ _ s

end

/-- Management bytes of a field without a frame leave an assembler in HUNT (R154). -/
theorem assembleField_zeros {q : MgmtPort} {s : State} (h : s.mgmt.assemblers.get q = .hunt) (n : Nat) :
    assembleField q (List.replicate n 0) s = s := by
  induction n with
  | zero => rfl
  | succ n ih =>
    have hbyte : assembleByte q s 0 = s := by
      rw [assembleByte_eq, h, assembleFrom, if_pos rfl]
    rw [List.replicate_succ]
    show assembleField q (List.replicate n 0) (assembleByte q s 0) = s
    rw [hbyte, ih]

/-- Settles O17: the view stays, so the supervisor's part commutes with the overhead, which is read from the state after it. -/
theorem goodFrameDeliversSlotsAndNotice : Obligations.GoodFrameDeliversSlotsAndNotice := by
  intro p b f s ha hw hp errored delivered quiet latched
  have hquiet := receiveBand_setBand_aligned ha hw hp
  refine ⟨fun ⟨c, hcb, hc⟩ => congrArg Host.Outcome.next ?_, ?_⟩
  · rw [bandFrame_aligned ha hw hp, portOverhead_above f b.isLt hcb (by rw [band_receiveBand_lower f s hcb]; exact hc), hquiet]
    rfl
  · intro hlower hstreaming read
    have hband := band_receiveBand_same p b.isLt f s
    have hsource : portOverhead p b f (receiveBand p b f s) = takeOverhead p f (receiveBand p b f s) := by
      refine portOverhead_source f b.isLt ?_ (fun c hc => ?_)
      · rw [hband]
        exact congrArg Prod.fst (aligns_aligned ha hw)
      · have hc' : c < 4 := by omega
        rw [band_receiveBand_lower f s (c := ⟨c, hc'⟩) hc]
        exact hlower ⟨c, hc'⟩ hc
    have hstreams : ((readNotice p f.notice (receiveBand p b f s)).port p).streaming = true := by
      rw [streaming_readNotice, streaming_receiveBand, hstreaming]
    have hread : readNotice p f.notice quiet = read := by
      rw [readNotice_eq]
      dsimp only [read]
      generalize checkField f.notice = outcome
      rcases outcome with ⟨_ | _ | _, g⟩ <;> rfl
    have hexec : exec (.bandFrame p b f) s = .next (assembleField (.line p) f.management read) := by
      refine congrArg Host.Outcome.next ?_
      rw [bandFrame_aligned ha hw hp, hsource, takeOverhead, setStreaming, if_pos hstreams,
        (channelOnly_assembleField _ _).setBand, readNotice_setBand, hquiet, ← hread]
      rfl
    refine ⟨hexec, fun hhunt hzeros => ?_⟩
    have hmgmt : read.mgmt = s.mgmt := by
      rw [← hread, (readNotice_frame _ _ _).2.2.2.2.2.2.2.2.2.2.1]
      simp only [quiet, delivered]
      split <;> rfl
    rw [hexec, hzeros, assembleField_zeros (by rw [hmgmt]; exact hhunt)]

end Sys2Proof.Machine
end

section
/-! PROOF. The frame assemblers (O60): byte by byte (R154), a frame as its bytes (R153 to R156), and the break at the loss and the
return of a line port's source (R31; log 6). -/

namespace Sys2Proof.Machine

/-! ### The assemblers of the ports -/

theorem Trio.set_set {α : Type} (q : Trio α) (p : MgmtPort) (v w : α) : (q.set p v).set p w = q.set p w := by
  rcases p with (_ | _) | _ <;> rfl

theorem Trio.set_get_self {α : Type} (q : Trio α) (p : MgmtPort) : q.set p (q.get p) = q := by
  rcases p with (_ | _) | _ <;> rfl

theorem setAssembler_setAssembler (q : MgmtPort) (a c : Assembler) (s : State) :
    setAssembler q a (setAssembler q c s) = setAssembler q a s := by
  unfold setAssembler
  dsimp only
  rw [Trio.set_set]

theorem setAssembler_self {q : MgmtPort} {a : Assembler} {s : State} (h : s.mgmt.assemblers.get q = a) : setAssembler q a s = s := by
  unfold setAssembler
  rw [← h, Trio.set_get_self]

theorem assembler_setAssembler (q : MgmtPort) (a : Assembler) (s : State) : (setAssembler q a s).mgmt.assemblers.get q = a :=
  (Trio.get_set _ _ _ _).trans (if_pos rfl)

/-! ### One byte (R154) -/

theorem assembleField_one (q : MgmtPort) (b : Byte) (s : State) :
    assembleField q [b] s = assembleFrom q b (s.mgmt.assemblers.get q) s := assembleByte_eq q s b

theorem assembleField_append (q : MgmtPort) (k l : List Byte) (s : State) :
    assembleField q (k ++ l) s = assembleField q l (assembleField q k s) := List.foldl_append ..

/-- The length field, read when the eighth byte arrives (R153, R154). -/
theorem halfAt_eighth {bytes : List Byte} (h : bytes.length = 7) (b : Byte) :
    halfAt (bytes ++ [b]) 6 = (bytes.getD 6 0).toNat * 256 + b.toNat := by
  unfold halfAt byteAt
  rw [List.getD_append _ _ _ _ (by omega), List.getD_append_right _ _ _ _ (by omega), h]
  rfl

/-! ### A whole frame (R153 to R156) -/

theorem halfAt_take (l : List Byte) {i n : Nat} (h : i + 1 < n) : halfAt (l.take n) i = halfAt l i := by
  have hat : ∀ j, j < n → (l.take n).getD j 0 = l.getD j 0 := fun j hj => by
    rw [List.getD_eq_getElem?_getD, List.getElem?_take, if_pos hj, List.getD_eq_getElem?_getD]
  unfold halfAt byteAt
  rw [hat i (by omega), hat (i + 1) h]

section
variable {q : MgmtPort} {l : List Byte} {s : State}

/-- The assembler's state when it has taken some bytes, not the last, of a run of bytes that is as long as its length field says. -/
def assemblerAfter (l : List Byte) (n : Nat) : Assembler := if n < 8 then .header (l.take n) else .body (l.take n) l.length

theorem assembleField_take (hhunt : s.mgmt.assemblers.get q = .hunt) (hkind : l.head? ≠ some 0) (hmin : 12 ≤ l.length)
    (hmax : l.length ≤ 1024) (hfield : halfAt l 6 = l.length) (n : Nat) (hn : n + 1 < l.length) :
    assembleField q (l.take (n + 1)) s = setAssembler q (assemblerAfter l (n + 1)) s := by
  induction n with
  | zero =>
    obtain ⟨b, rest, rfl⟩ : ∃ b rest, l = b :: rest := List.exists_cons_of_ne_nil (by rintro rfl; simp at hmin)
    have hb : b ≠ 0 := fun h => hkind (by rw [h]; rfl)
    show assembleField q [b] s = _
    rw [assembleField_one, hhunt, assembleFrom, if_neg hb]
    rfl
  | succ n ih =>
    have htake : l.take (n + 2) = l.take (n + 1) ++ [l[n + 1]] := List.take_succ_eq_append_getElem (by omega)
    have hlen : (l.take (n + 1) ++ [l[n + 1]]).length = n + 2 := by rw [← htake, List.length_take]; omega
    rw [htake, assembleField_append, ih (by omega), assembleField_one, assembler_setAssembler]
    unfold assemblerAfter
    by_cases h7 : n + 1 < 8
    · rw [if_pos h7, assembleFrom, hlen, ← htake]
      by_cases h8 : n + 2 < 8
      · rw [if_pos h8, if_pos h8, setAssembler_setAssembler]
      · rw [if_neg h8, if_neg h8, halfAt_take l (by omega), hfield, if_pos ⟨hmin, hmax⟩, setAssembler_setAssembler]
    · rw [if_neg h7, if_neg (by omega), assembleFrom, hlen, if_pos hn, ← htake, setAssembler_setAssembler]

/-- The bytes of a run as long as its length field says, which begin in HUNT, do what the run does as a whole. -/
theorem assembleField_whole (hhunt : s.mgmt.assemblers.get q = .hunt) (hkind : l.head? ≠ some 0) (hmin : 12 ≤ l.length)
    (hmax : l.length ≤ 1024) (hfield : halfAt l 6 = l.length) : assembleField q l s = frameTaken q l s := by
  obtain ⟨n, hn⟩ : ∃ n, l.length = n + 2 := ⟨l.length - 2, by omega⟩
  have hlast : l = l.take (n + 1) ++ [l[n + 1]] := by
    rw [← List.take_succ_eq_append_getElem (by omega), ← hn, List.take_length]
  have hbefore := assembleField_take hhunt hkind hmin hmax hfield n (by omega)
  have hbody : assemblerAfter l (n + 1) = .body (l.take (n + 1)) l.length := if_neg (by omega)
  have hfull : ¬(l.take (n + 1) ++ [l[n + 1]]).length < l.length := by rw [← hlast]; exact lt_irrefl _
  calc assembleField q l s = assembleField q (l.take (n + 1) ++ [l[n + 1]]) s := by rw [← hlast]
    _ = frameTaken q (l.take (n + 1) ++ [l[n + 1]]) s := by
      rw [assembleField_append, hbefore, hbody, assembleField_one, assembler_setAssembler, assembleFrom, if_neg hfull,
        setAssembler_setAssembler, setAssembler_self hhunt]
    _ = frameTaken q l s := by rw [← hlast]

end

/-- A frame's bytes carry its size in the length field (R153). -/
theorem halfAt_frame (f : Frame) (h : f.body.length ≤ 1014) : halfAt f.bytes 6 = f.bytes.length := by
  rw [Frame.bytes_length]
  exact bytes2_value (by unfold Frame.length; omega)

theorem assembleField_bytes {q : MgmtPort} {f : Frame} {s : State} (hhunt : s.mgmt.assemblers.get q = .hunt) (hkind : f.kind ≠ 0)
    (hmin : 2 ≤ f.body.length) (hmax : f.body.length ≤ 1014) : assembleField q f.bytes s = frameTaken q f.bytes s := by
  have hlen : f.bytes.length = f.body.length + 10 := Frame.bytes_length f
  exact assembleField_whole hhunt (fun h => hkind (Option.some.inj h)) (by omega) (by omega) (halfAt_frame f hmax)

/-! ### Breaks (R31, R154) -/

theorem ctrBad_ne_receiver (q : MgmtPort) (p : Side) {b : Nat} (hb : b < 4) : ctrBad q ≠ ctrLosses p b ∧ ctrBad q ≠ ctrErrored p b :=
  ⟨fun h => not_besideOverhead_ctrBad q (h ▸ besideOverhead_ctrLosses p hb),
    fun h => not_besideOverhead_ctrBad q (h ▸ besideOverhead_ctrErrored p hb)⟩

/-- From `s` to `t` the management stream of line port `p` has had a break, with the streaming flag now `on`: the assembler is in
HUNT, and a frame in progress is counted as bad (R31, R154). -/
def streamBroken (p : Side) (on : Bool) (s t : State) : Prop :=
  (t.port p).streaming = on ∧ t.mgmt = { s.mgmt with assemblers := s.mgmt.assemblers.set (.line p) .hunt } ∧
    t.counter (ctrBad (.line p)) = (if s.mgmt.assemblers.get (.line p) = .hunt then s.counter (ctrBad (.line p))
      else saturate (s.counter (ctrBad (.line p))))

/-- A change of a port's streaming flag is a break. -/
theorem setStreaming_broken {p : Side} {on : Bool} {s : State} (h : (s.port p).streaming ≠ on) :
    streamBroken p on s (setStreaming p on s) := by
  have ht : setStreaming p on s = if s.mgmt.assemblers.get (.line p) = .hunt then s.setPort p { s.port p with streaming := on }
      else bump (ctrBad (.line p)) (setAssembler (.line p) .hunt (s.setPort p { s.port p with streaming := on })) :=
    (if_neg h).trans (breakStream_eq _ _)
  have hport : ((s.setPort p { s.port p with streaming := on }).port p).streaming = on := by rw [port_setPort, if_pos rfl]
  unfold streamBroken
  by_cases hhunt : s.mgmt.assemblers.get (.line p) = .hunt
  · rw [ht, if_pos hhunt, if_pos hhunt, ← hhunt, Trio.set_get_self]
    exact ⟨hport, rfl, rfl⟩
  · rw [ht, if_neg hhunt, if_neg hhunt]
    exact ⟨hport, rfl, (counter_bump _ _ _).trans (if_pos rfl)⟩

theorem streaming_setSupervisor (p q : Side) (b : Nat) (v : Supervisor) (s : State) :
    ((setSupervisor p b v s).port q).streaming = (s.port q).streaming := by
  rw [port_setSupervisor, State.setBand, port_setPort]
  split
  · rename_i h; rw [h]
  · rfl

section
variable (p : Side) {b : Nat} (hb : b < 4) (f : BandFrame) (s : State)
include hb

theorem alignment_beforeOverhead {c : Nat} (hc : c < 4) :
    ((s.beforeOverhead p b f).band p c).alignment = if c = b then (s.aligns p b f).1 else (s.band p c).alignment := by
  rw [band_beforeOverhead p hb f s p hc, apply_ite Band.alignment]
  simp only [true_and]
  rfl

/-- Before the overhead a frame has touched neither the Management Unit nor the streaming flag nor the bad-frame counts. -/
theorem beforeOverhead_spec :
    ((s.beforeOverhead p b f).port p).streaming = (s.port p).streaming ∧ (s.beforeOverhead p b f).mgmt = s.mgmt ∧
      ∀ q, (s.beforeOverhead p b f).counter (ctrBad q) = s.counter (ctrBad q) := by
  refine ⟨?_, by simp [State.beforeOverhead], fun q => ?_⟩
  · rw [State.beforeOverhead, streaming_setSupervisor, streaming_receiveBand]
  · have hge : 4 ≤ ctrBad q := by rcases q with (_ | _) | _ <;> decide
    rw [State.beforeOverhead, counter_setSupervisor (by omega) (by omega), counter_receiveBand,
      if_neg (fun h => (ctrBad_ne_receiver q p hb).2 h.1), if_neg (fun h => (ctrBad_ne_receiver q p hb).1 h.1)]

/-- A frame whose overhead is a change of the streaming flag breaks the management stream (R31). -/
theorem bandFrame_broken {on : Bool} {y : State} (hover : portOverhead p b f (s.beforeOverhead p b f) = setStreaming p on y)
    (hstreaming : (y.port p).streaming = (s.port p).streaming) (hmgmt : y.mgmt = s.mgmt)
    (hbad : y.counter (ctrBad (.line p)) = s.counter (ctrBad (.line p))) (hs : (s.port p).streaming ≠ on) :
    streamBroken p on s (bandFrame p b f s) := by
  have hge : 4 ≤ ctrBad (.line p) := by cases p <;> decide
  obtain ⟨hon, hbroken, hcount⟩ := setStreaming_broken (s := y) (on := on) (by rw [hstreaming]; exact hs)
  rw [hmgmt] at hbroken hcount
  rw [hbad] at hcount
  unfold streamBroken
  rw [bandFrame_eq p hb, hover, streaming_setSupervisor, counter_setSupervisor (by omega) (by omega),
    (setSupervisor_frame _ _ _ _).2.2.2.2]
  exact ⟨hon, hbroken, hcount⟩

end

/-- The frame of band 3 that leaves no band of a streaming port ALIGNED breaks its management stream (R31; log 6). -/
theorem bandFrame_sourceLost {p : Side} {f : BandFrame} {s : State} (hs : (s.port p).streaming = true)
    (hothers : ∀ c, c < 3 → (s.band p c).alignment = .lost) (hlost : (s.aligns p 3 f).1 = .lost) :
    streamBroken p false s (bandFrame p 3 f s) := by
  obtain ⟨hstreaming, hmgmt, hbad⟩ := beforeOverhead_spec p (b := 3) (by decide) f s
  refine bandFrame_broken p (by decide) f s (portOverhead_none f (fun c hc => ?_)) hstreaming hmgmt (hbad _) (by rw [hs]; decide)
  rw [alignment_beforeOverhead p (by decide) f s hc]
  split
  · exact hlost
  · exact hothers c (by omega)

/-- The frame that aligns a port's first band breaks its management stream, before the bytes it carries (R31; log 6). -/
theorem bandFrame_sourceFound {p : Side} {b : Nat} (hb : b < 4) {f : BandFrame} {s : State} (hs : (s.port p).streaming = false)
    (hlower : ∀ c, c < b → (s.band p c).alignment = .lost) (haligned : (s.aligns p b f).1 = .aligned)
    (hzeros : f.management = List.replicate 32 0) :
    streamBroken p true s (bandFrame p b f s) := by
  obtain ⟨hstreaming, hmgmt, hbad⟩ := beforeOverhead_spec p hb f s
  have hsource : portOverhead p b f (s.beforeOverhead p b f) = takeOverhead p f (s.beforeOverhead p b f) := by
    refine portOverhead_source f hb ?_ (fun c hc => ?_)
    · rw [alignment_beforeOverhead p hb f s hb, if_pos rfl]
      exact haligned
    · rw [alignment_beforeOverhead p hb f s (by omega), if_neg (Nat.ne_of_lt hc)]
      exact hlower c hc
  have hread : (readNotice p f.notice (s.beforeOverhead p b f)).counter (ctrBad (.line p)) = s.counter (ctrBad (.line p)) := by
    rw [← hbad]
    have hne : ∀ cls, ctrBad (.line p) ≠ ctrNotice p cls := fun cls => by cases p <;> cases cls <;> decide
    unfold readNotice
    split
    · rfl
    · exact (counter_bump _ _ _).trans (if_neg (hne _))
  have hflag : ((readNotice p f.notice (s.beforeOverhead p b f)).port p).streaming = (s.port p).streaming :=
    (streaming_readNotice p f.notice _).trans hstreaming
  have hunit : (readNotice p f.notice (s.beforeOverhead p b f)).mgmt = s.mgmt := (by simp : _ = (s.beforeOverhead p b f).mgmt).trans hmgmt
  refine bandFrame_broken p hb f s (hsource.trans ?_) hflag hunit hread (by rw [hs]; decide)
  have hbroken := (setStreaming_broken (on := true) (s := readNotice p f.notice (s.beforeOverhead p b f))
    (by rw [hflag, hs]; decide)).2.1
  unfold takeOverhead
  rw [hzeros, assembleField_zeros]
  rw [hbroken]
  exact (Trio.get_set _ _ _ _).trans (if_pos rfl)

/-- Settles O60, by `assembleFrom` byte by byte, `assembleField_bytes` for a frame and `streamBroken` for the breaks. -/
theorem assemblersCollectFrames : Obligations.AssemblersCollectFrames := by
  intro s
  refine ⟨fun q => ?_, fun f hkind hmin hmax => ⟨fun p hhunt => ?_, fun hhunt => ?_⟩, fun p b f => ?_⟩
  · intro becomes takes
    have hone : ∀ b t, assembleFrom q b (s.mgmt.assemblers.get q) s = t → takes b t := fun b t h =>
      (assembleField_one q b s).trans h
    refine ⟨fun h => ⟨hone _ _ ?_, fun b hb => hone _ _ ?_⟩, fun bytes b h => ⟨fun hlen => hone _ _ ?_, fun hlen => ?_⟩,
      fun bytes n b h => ⟨fun hlen => hone _ _ ?_, fun hlen hno => hone _ _ ?_, fun f hlen hf => hone _ _ ?_⟩⟩
    · rw [h, assembleFrom, if_pos rfl]
    · rw [h, assembleFrom, if_neg hb]
      rfl
    · rw [h, assembleFrom, if_pos (by simp; omega)]
      rfl
    · intro n
      refine hone _ _ ?_
      rw [h, assembleFrom, if_neg (by simp; omega), halfAt_eighth hlen]
      rfl
    · rw [h, assembleFrom, if_pos (by simpa using hlen)]
      rfl
    · rw [h, assembleFrom, if_neg (by simp; omega), frameTaken, hno]
      rfl
    · rw [h, assembleFrom, if_neg (by simp; omega), frameTaken, hf]
      rfl
  · exact congrArg Host.Outcome.next (assembleField_bytes hhunt hkind hmin hmax).symm
  · exact congrArg Host.Outcome.next (assembleField_bytes hhunt hkind hmin hmax).symm
  · intro broken
    refine ⟨fun hs hb hothers hrun hword => ?_, fun hs hlower hrun hword hzeros => ?_⟩
    · subst hb
      refine ⟨bandFrame p 3 f s, rfl, bandFrame_sourceLost hs (fun c hc => ?_) ?_⟩
      · exact hothers ⟨c, by omega⟩ (fun h => by simp [Fin.ext_iff] at h; omega)
      · rw [aligns_eq, hword]
        rcases hrun with h | h
        · rw [show (s.band p 3).alignment = .lost from h]
        · rw [show (s.band p 3).run = 2 from h]
          cases (s.band p 3).alignment <;> rfl
    · refine ⟨bandFrame p b f s, rfl, bandFrame_sourceFound b.isLt hs (fun c hc => ?_) ?_ hzeros⟩
      · exact hlower ⟨c, by omega⟩ (Fin.le_def.mpr (Nat.le_of_lt hc))
      · rw [aligns_eq, hlower b (le_refl b), hrun, hword]
        rfl

end Sys2Proof.Machine
end

section
/-! PROOF. The sets of a derived map (O36): conditions, operator state, W and X of a span of the ring (R52 to R55). -/

namespace Sys2Proof.Machine

/-- In a derived map a span of the ring holds what is derived from its end records (R52 to R56). -/
theorem derived_span {s : State} {own k : Nat} (h : s.mapDerived) (hp : s.position = some own) (hk : k < s.ringSize) :
    (s.span k).derived = some (deriveSpan s.settings.actOnDegrade (s.span k)) := by
  have hlook := look_deriveSpans (spansOfRing s.table.ring s.node.strap) s.settings.actOnDegrade s.map.spans k
  rw [← show s.map.spans = _ from h, if_pos (by rw [spansOfRing_eq hp]; exact hk)] at hlook
  exact congrArg SpanEntry.derived hlook

/-- The worse of two views, as a condition: FAILED, then RETURN_WAIT, then DEGRADED, then CLEAR (R52). -/
theorem condition_worse (l h : View) :
    (worse l h).condition =
      if l = .failed ∨ h = .failed then .failed
      else if l = .returnWait ∨ h = .returnWait then .returnWait
      else if l = .degraded ∨ h = .degraded then .degraded
      else .clear := by
  cases l <;> cases h <;> rfl

theorem inWorkingBlocked_iff (act : Bool) (op : OperatorRequest) (c : Condition) :
    inWorkingBlocked act op c = true ↔
      c = .failed ∨ c = .returnWait ∨ (c = .degraded ∧ act = true) ∨ op = .force := by
  simp [inWorkingBlocked, or_assoc]

theorem inRestorationBarred_iff (act : Bool) (op : OperatorRequest) (c : Condition) :
    inRestorationBarred act op c = true ↔
      c = .failed ∨ c = .unknown ∨ (c = .degraded ∧ act = true) ∨ op = .lockout ∨ op = .force := by
  simp [inRestorationBarred, or_assoc]

/-- Settles O36: what a span of a derived map holds is `deriveSpan` of its end records, read clause by clause. -/
theorem setsFollowTheEndRecords : Obligations.SetsFollowTheEndRecords := by
  intro s own k hd hp hk
  have hspan := derived_span hd hp hk
  have hw : s.map.bandsInW k = (deriveSpan s.settings.actOnDegrade (s.span k)).inW := by
    show (s.span k).bandsInW = _
    unfold SpanEntry.bandsInW
    rw [hspan]
  have hx : s.map.bandsInX k = (deriveSpan s.settings.actOnDegrade (s.span k)).inX := by
    show (s.span k).bandsInX = _
    unfold SpanEntry.bandsInX
    rw [hspan]
  refine ⟨_, hspan, fun b => ?_, rfl, fun b => ?_⟩
  · show (combined (s.span k).lowViews (s.span k).highViews).get b = _
    cases (s.span k).lowViews with
    | none =>
      cases (s.span k).highViews with
      | none => revert b; decide
      | some h => exact Quad.get_map _ _ _
    | some l =>
      cases (s.span k).highViews with
      | none => exact Quad.get_map _ _ _
      | some h => exact (Quad.get_zip _ _ _ _).trans (condition_worse _ _)
  · rw [hw, hx]
    unfold deriveSpan
    dsimp only
    rw [Quad.get_map, Quad.get_map]
    exact ⟨inWorkingBlocked_iff _ _ _, inRestorationBarred_iff _ _ _⟩

end Sys2Proof.Machine
end

section
/-! PROOF. A write of the Failure Map that is delivered to the engine: what it leaves in the ends of the spans, and what it reports,
keeps and is answered by (R45, R47, R48, R56, R58, R85). -/

namespace Sys2Proof.Machine

/-! ### The write and its delivery -/

/-- From `s` to `u` map `m` has been put in place and its changed spans reported; beside the map, the reports, the time, the line
ports and the Notice Unit nothing has changed. -/
structure MapWritten (m : FailureMap) (s u : State) : Prop where
  map : u.map = (writeMap m s).map
  reported : mapReported s u
  reports : ReportsGrow s u
  pending : u.pending = s.pending
  node : u.node = s.node
  tribs : u.tribs = s.tribs
  table : u.table = s.table
  engine : u.engine = s.engine
  plans : u.plans = s.plans
  switch : u.switch = s.switch
  mgmt : u.mgmt = s.mgmt
  counters : u.counters = s.counters

namespace MapWritten

theorem of_writeMap (m : FailureMap) (s : State) : MapWritten m s (writeMap m s) where
  map := rfl
  reported := writeMap_reported m s
  reports := grow_writeMap m s
  pending := by simp
  node := by simp
  tribs := by simp
  table := by simp
  engine := by simp
  plans := by simp
  switch := by simp
  mgmt := by simp
  counters := by simp

/-- A write of the map in a state that differs in its time, its line ports and its Notice Unit alone. -/
theorem before {m : FailureMap} {s w u : State} (h : MapWritten m w u)
    (hw : w = { s with now := w.now, ports := w.ports, notices := w.notices }) : MapWritten m s u := by
  obtain ⟨hmap, hreported, hreports, hpending, hnode, htribs, htable, hengine, hplans, hswitch, hmgmt, hcounters⟩ := h
  rw [hw] at hmap hreported hreports hpending hnode htribs htable hengine hplans hswitch hmgmt hcounters
  refine ⟨hmap.trans ?_, hreported, ⟨hreports.subjects, hreports.number, hreports.snapshot⟩, hpending, hnode, htribs, htable, hengine,
    hplans, hswitch, hmgmt, hcounters⟩
  rw [writeMap_map, writeMap_map]
  rfl

/-- What comes after the write and changes the Notice Unit and the reports alone. -/
theorem after {m : FailureMap} {s u x : State} (h : MapWritten m s u) (hr : ReportsGrow u x)
    (hx : x = { u with notices := x.notices, reports := x.reports }) : MapWritten m s x where
  map := by rw [hx]; exact h.map
  reported := mapReported_keeps h.reported (by rw [hx]) (by rw [hx]; rfl) hr.subjects
  reports := h.reports.trans hr
  pending := by rw [hx]; exact h.pending
  node := by rw [hx]; exact h.node
  tribs := by rw [hx]; exact h.tribs
  table := by rw [hx]; exact h.table
  engine := by rw [hx]; exact h.engine
  plans := by rw [hx]; exact h.plans
  switch := by rw [hx]; exact h.switch
  mgmt := by rw [hx]; exact h.mgmt
  counters := by rw [hx]; exact h.counters

end MapWritten

/-- What a written map is once it is delivered: in place and derived, reported and answered by the engine, with every other block as
it was but for the time, the line ports and the Notice Unit (R56, R58, R85). -/
structure MapDelivered (m : FailureMap) (s t : State) : Prop where
  map : t.map = (writeMap m s).map
  derived : t.mapDerived
  reported : mapReported s t
  answered : engineAnswers s t
  node : t.node = s.node
  table : t.table = { s.table with circuits := t.table.circuits }
  service : inServiceOf t.table.circuits = inServiceOf s.table.circuits
  mgmt : t.mgmt = s.mgmt
  standing : keepsStanding s t

theorem MapWritten.delivered {m : FailureMap} {s u : State} (h : MapWritten m s u) :
    MapDelivered m s (deliverMapChange s.map u) := by
  obtain ⟨hpending, _, hnode, _, htribs, hmap, _, hmgmt⟩ := deliverMapChange_frame u s.map
  have hu := undisturbed_deliverMapChange s.map u
  have hcarried := carried_deliverMapChange s.map u
  have hanswers := deliverMapChange_answers h.engine h.plans h.table h.switch h.counters
  generalize deliverMapChange s.map u = t at *
  have hmap' := hmap.trans h.map
  have hsettings : t.settings = s.settings := hu.settings.trans (settings_of_table h.table)
  refine ⟨hmap', mapDerived_of_writeMap hmap' (by rw [hu.ring, h.table]) (by rw [hnode, h.node]) hsettings,
    mapReported_keeps h.reported hmap hu.settings hcarried.reports.subjects, hanswers, hnode.trans h.node,
    by rw [hu.table, h.table], by rw [hu.service, h.table], hmgmt.trans h.mgmt, ?_⟩
  exact ⟨hpending.trans h.pending, by rw [hnode, h.node], htribs.trans h.tribs, by rw [hcarried.connections, h.switch],
    hcarried.reports.number.trans h.reports.number, hcarried.reports.snapshot.trans h.reports.snapshot⟩

namespace MapDelivered

variable {m : FailureMap} {s t : State}

theorem ring (h : MapDelivered m s t) : t.table.ring = s.table.ring := by rw [h.table]

theorem settings (h : MapDelivered m s t) : t.settings = s.settings := by
  unfold State.settings; rw [h.table]

theorem position (h : MapDelivered m s t) : t.position = s.position := position_congr (by rw [h.node]) h.ring

theorem ringSize (h : MapDelivered m s t) : t.ringSize = s.ringSize := by
  unfold State.ringSize; rw [h.ring]

theorem copies (h : MapDelivered m s t) : t.map.copies = m.copies := by rw [h.map, writeMap_copies]

/-- The ends of a span of the ring are those of the map written (R43). -/
theorem ends (h : MapDelivered m s t) {own k : Nat} (hp : s.position = some own) (hk : k < s.ringSize) :
    (t.lowEnd k, t.highEnd k) = m.ends k := by
  rw [← writeMap_ends m s (by rw [spansOfRing_eq hp]; exact hk)]
  unfold State.lowEnd State.highEnd State.span
  rw [h.map]

end MapDelivered

/-! ### The ends of one position -/

/-- The span behind a position ends at it (R43). -/
theorem ringSub_one_succ {n q : Nat} (hq : q < n) : (ringSub n q 1 + 1) % n = q :=
  (eq_ringSub_one (Nat.mod_lt _ (Nat.zero_lt_of_lt hq)) hq).mp rfl

/-- The two ends of a position that are delivered, with every other end as it was (R47, R48). -/
theorem ends_of_setEndsOf {s t : State} {own q : Nat} {low high : Option (Quad View)} {lr hr : OperatorRequest}
    (h : MapDelivered (setEndsOf s.ringSize q low high lr hr s.map) s t) (hp : s.position = some own) (hq : q < s.ringSize) :
    ∀ k, k < s.ringSize → t.lowEnd k = (if k = q then (high, hr) else s.lowEnd k) ∧
      t.highEnd k = (if (k + 1) % s.ringSize = q then (low, lr) else s.highEnd k) := by
  intro k hk
  have hends := h.ends hp hk
  rw [ends_setEndsOf] at hends
  simp only [eq_ringSub_one hk hq] at hends
  exact Prod.mk.inj hends

/-- The own end of a port copy that is delivered, with every other end as it was (R45). -/
theorem ends_of_storeCopy {s t : State} {own : Nat} {m : FailureMap} {side : Side}
    (h : MapDelivered (storeCopy s.ringSize own s.settings.orientation m side) s t) (hm : m.spans = s.map.spans)
    (hp : s.position = some own) :
    ∀ k, k < s.ringSize →
      t.lowEnd k = (if side = clockwiseSide s.settings.orientation ∧ k = own then (m.copies.get side).asEnd else s.lowEnd k) ∧
      t.highEnd k = (if side = counterSide s.settings.orientation ∧ (k + 1) % s.ringSize = own then (m.copies.get side).asEnd
        else s.highEnd k) := by
  intro k hk
  have hends := h.ends hp hk
  have hself : m.ends k = (s.lowEnd k, s.highEnd k) := by
    unfold FailureMap.ends
    rw [hm]
    rfl
  rw [ends_storeCopy, hself] at hends
  simp only [ne_clockwiseSide_iff, eq_ringSub_one hk (position_lt hp)] at hends
  exact Prod.mk.inj hends

end Sys2Proof.Machine
end

section
/-! PROOF. A notice that is applied (O33) and a record that becomes STALE (O34): what each writes into the records, the outgoing queues
and the map, and what follows (R47, R48, R62, R67 to R71, R79). -/

namespace Sys2Proof.Machine

/-! ### Convergence -/

theorem evaluateConvergence_eq (s : State) : evaluateConvergence s =
    { s with notices := (evaluateConvergence s).notices, reports := (evaluateConvergence s).reports } := by
  unfold evaluateConvergence raise
  dsimp only
  repeat' split
  all_goals rfl

/-- A changed convergence status is reported (R79, R81). -/
theorem evaluateConvergence_reported {s : State}
    (h : (evaluateConvergence s).notices.convergence ≠ s.notices.convergence) : reported .node (evaluateConvergence s) := by
  unfold evaluateConvergence at h ⊢
  dsimp only at h ⊢
  split
  · rename_i hc
    rw [if_pos hc] at h
    exact absurd rfl h
  · exact reported_raise _ _

/-- A map change leaves the convergence status and what it is evaluated on (R79). -/
theorem convergenceFresh_deliverMapChange (m : FailureMap) {s : State} (h : s.convergenceFresh) :
    (deliverMapChange m s).convergenceFresh := by
  have hu := undisturbed_deliverMapChange m s
  unfold State.convergenceFresh at h ⊢
  rw [show (deliverMapChange m s).notices = s.notices by simp, h]
  exact (convergenceOf_congr (by simp) hu.ring (by simp) (by rw [hu.table])).symm

/-! ### A record and the ends of its position -/

/-- The state with a record written, a map put in place and convergence evaluated, as one change (R68, R69). -/
def endsRecorded (q : Nat) (r : NoticeRecord) (m : FailureMap) (s : State) : State :=
  evaluateConvergence (writeMap m (s.setRecord q r))

theorem endsRecorded_written (q : Nat) (r : NoticeRecord) (m : FailureMap) (s : State) : MapWritten m s (endsRecorded q r m s) :=
  ((MapWritten.of_writeMap _ _).before rfl).after (grow_evaluateConvergence _) (evaluateConvergence_eq _)

/-- What becomes of the Notice Unit: the record, and the convergence status as R79 gives it, which is reported when it changes. -/
theorem endsRecorded_notices (q : Nat) (r : NoticeRecord) (m : FailureMap) (s : State) :
    let u := endsRecorded q r m s
    u.notices = { s.notices with
      records := put .never s.notices.records q r, convergence := u.notices.convergence } ∧
    u.convergenceFresh ∧ (u.notices.convergence ≠ s.notices.convergence → reported .node u) := by
  have hbefore : (writeMap m (s.setRecord q r)).notices = { s.notices with records := put .never s.notices.records q r } := by
    simp [State.setRecord]
  refine ⟨?_, convergenceFresh_of_evaluated (s := writeMap m (s.setRecord q r)) rfl (by simp [endsRecorded])
    (by simp [endsRecorded]) (records_evaluateConvergence _) (by simp [endsRecorded]), fun h => ?_⟩
  · unfold endsRecorded
    rw [evaluateConvergence_notices, hbefore]
  · exact evaluateConvergence_reported (by rw [hbefore]; exact h)

/-! ### Forwarding -/

/-- A notice as it is forwarded: with one hop less, and not the node's own (R70). -/
def Notice.forwarded (v : Notice) : QueuedNotice := { notice := { v with hops := v.hops - 1 }, own := false }

/-- What forwarding does: with hops above 1 the notice is offered to the queue of the other port (R70). -/
theorem forward_eq (p : Side) (v : Notice) (s : State) :
    forward p v s = { s with notices := { s.notices with
      queues := if 1 < v.hops then s.notices.queues.set p.other (offerNotice v.forwarded (s.notices.queues.get p.other))
        else s.notices.queues } } := by
  unfold forward
  split <;> rfl

theorem ahead_iff (newer older : Byte) :
    ahead newer older = true ↔ 1 ≤ (newer - older).toNat ∧ (newer - older).toNat ≤ 127 := by
  simp [ahead]

/-- A queued notice gives way to one that is not the node's own when it is not the node's own either, and comes from another ID or is
behind in sequence (R71). -/
abbrev QueuedNotice.givesWay (w e : QueuedNotice) : Prop :=
  e.own = false ∧ (e.notice.id ≠ w.notice.id ∨
    (1 ≤ (w.notice.sequence - e.notice.sequence).toNat ∧ (w.notice.sequence - e.notice.sequence).toNat ≤ 127))

/-- Where R71's table places a notice that is not the node's own. -/
theorem offerNotice_foreign {w : QueuedNotice} (hw : w.own = false) (q : List QueuedNotice) :
    (w.notice.position ∉ q.map (fun e => e.notice.position) ∧ offerNotice w q = q ++ [w]) ∨
      ∃ e ∈ q, e.notice.position = w.notice.position ∧
        (w.givesWay e → offerNotice w q = replaceNotice w q) ∧ (¬w.givesWay e → offerNotice w q = q) := by
  unfold offerNotice
  cases hf : q.find? (fun e => e.notice.position == w.notice.position) with
  | none =>
    refine .inl ⟨fun hm => ?_, rfl⟩
    obtain ⟨e, he, hp⟩ := List.mem_map.mp hm
    exact List.find?_eq_none.mp hf e he (by simp [hp])
  | some e =>
    refine .inr ⟨e, List.mem_of_find?_eq_some hf, by simpa using List.find?_some hf, ?_⟩
    unfold QueuedNotice.givesWay
    rw [← ahead_iff]
    by_cases hown : e.own = true
    · simp [hw, hown]
    · by_cases hid : w.notice.id = e.notice.id
      · simp +contextual [hw, hown, hid]
      · simp [hw, hown, hid, Ne.symm hid]

/-- In a queue with one notice per position, a notice that is not the node's own takes the place of the one that gives way to it, and
stands at the tail when its position is new (R71). -/
theorem offerNotice_placed {w : QueuedNotice} (hw : w.own = false) {q : List QueuedNotice}
    (hq : (q.map (fun e => e.notice.position)).Nodup) :
    offerNotice w q = if w.notice.position ∈ q.map (fun e => e.notice.position) then
      q.map (fun e => if e.notice.position = w.notice.position ∧ w.givesWay e then w else e) else q ++ [w] := by
  rcases offerNotice_foreign hw q with ⟨hnew, h⟩ | ⟨e, he, hp, hyes, hno⟩
  · rw [if_neg hnew, h]
  · have honly : ∀ x ∈ q, x.notice.position = w.notice.position → x = e := fun x hx hxp =>
      List.inj_on_of_nodup_map hq hx he (hxp.trans hp.symm)
    rw [if_pos (List.mem_map.mpr ⟨e, he, hp⟩)]
    by_cases hg : w.givesWay e
    · rw [hyes hg]
      refine List.map_congr_left (fun x hx => ?_)
      by_cases hxp : x.notice.position = w.notice.position
      · rw [if_pos hxp, if_pos ⟨hxp, honly x hx hxp ▸ hg⟩]
      · rw [if_neg hxp, if_neg (fun h => hxp h.1)]
    · rw [hno hg]
      refine ((List.map_id q).symm.trans (List.map_congr_left (fun x hx => ?_)))
      refine (if_neg ?_).symm
      rintro ⟨hxp, hgives⟩
      exact hg (honly x hx hxp ▸ hgives)

/-! ### A notice taken and applied -/

/-- The latch that is taken from: the one that holds a notice, or of two the one R62 chooses. -/
theorem chooseLatch_eq {s : State} {p : Side} {cls : NoticeClass} {f : NoticeField} (h : (s.port p).latch = .held cls f)
    (hc : (s.port p.other).latch = .empty ∨ p = if s.notices.firstChoice = true then .east else s.notices.lastTaken.other) :
    chooseLatch s = some (p, !decide ((s.port p.other).latch = .empty)) := by
  cases p with
  | east =>
    change s.ports.east.latch = _ at h
    change s.ports.west.latch = _ ∨ _ at hc
    show _ = some (Side.east, !decide (s.ports.west.latch = .empty))
    unfold chooseLatch
    rw [h]
    cases hw : s.ports.west.latch with
    | empty => simp
    | held c g =>
      simp only [hw, reduceCtorEq, false_or] at hc
      simp only [reduceCtorEq, decide_false, Bool.not_false]
      split <;> simp_all
  | west =>
    change s.ports.west.latch = _ at h
    change s.ports.east.latch = _ ∨ _ at hc
    show _ = some (Side.west, !decide (s.ports.east.latch = .empty))
    unfold chooseLatch
    rw [h]
    cases hw : s.ports.east.latch with
    | empty => simp
    | held c g =>
      simp only [hw, reduceCtorEq, false_or] at hc
      simp only [reduceCtorEq, decide_false, Bool.not_false]
      split <;> simp_all

theorem accepts_iff (r : NoticeRecord) (q : Byte) : r.accepts q = true ↔
    ∀ c e, r = .fresh c e → 1 ≤ (q - c.sequence).toNat ∧ (q - c.sequence).toNat ≤ 127 := by
  cases r with
  | fresh c e =>
    refine (ahead_iff q c.sequence).trans ⟨fun h _ _ he => ?_, fun h => h c e rfl⟩
    cases he
    exact h
  | _ => simp [NoticeRecord.accepts]

/-- The map with the views and requests of a notice in the two ends of its position (R47). -/
def State.noticedMap (s : State) (v : Notice) : FailureMap :=
  setEndsOf s.ringSize v.position (some v.lowViews) (some v.highViews) v.lowRequest v.highRequest s.map

/-- The state with a notice recorded, written into the map and forwarded, its map change not yet delivered (R68, R70; log 8). -/
def noticeApplied (p : Side) (v : Notice) (s : State) : State := forward p v (applyNotice p v s)

/-- A notice that its record accepts is applied (R63, R68). -/
theorem handleNotice_applied {p : Side} {v : Notice} {s : State} (hown : s.ownId ≠ some v.id) (hruns : s.node.state.runs = true)
    (hpos : v.position < s.ringSize) (hid : look 0 s.table.ring v.position = v.id)
    (hacc : (s.record v.position).accepts v.sequence = true) :
    handleNotice p v s = deliverMapChange s.map (noticeApplied p v s) := by
  unfold handleNotice
  rw [if_neg (by simpa [ownOrigin] using hown), if_neg (by simp [hruns]), if_neg (by unfold foreign; rw [hid]; simp [hpos]), if_pos hacc]
  rfl

/-- A notice is applied as its record and the two ends of its position (R68). -/
theorem noticeApplied_eq (p : Side) (v : Notice) (s : State) : noticeApplied p v s = forward p v
    (endsRecorded v.position (.fresh (v.contents p) (s.now + 10 * s.settings.staleness)) (s.noticedMap v) s) := by
  rw [← ms_eq]
  rfl

/-- What applying a notice does to the map, before the engine takes it (R47, R58). -/
theorem noticeApplied_written (p : Side) (v : Notice) (s : State) : MapWritten (s.noticedMap v) s (noticeApplied p v s) := by
  rw [noticeApplied_eq]
  exact (endsRecorded_written _ _ _ s).after (.of_eq (by rw [forward_eq])) (by rw [forward_eq])

/-- What applying a notice does to the Notice Unit (R68, R70, R79, R81). -/
theorem noticeApplied_notices (p : Side) (v : Notice) (s : State) :
    let u := noticeApplied p v s
    u.notices = { s.notices with
      records := put .never s.notices.records v.position (.fresh (v.contents p) (s.now + 10 * s.settings.staleness))
      convergence := u.notices.convergence
      queues := if 1 < v.hops then s.notices.queues.set p.other (offerNotice v.forwarded (s.notices.queues.get p.other))
        else s.notices.queues } ∧
    u.convergenceFresh ∧ (u.notices.convergence ≠ s.notices.convergence → reported .node u) := by
  obtain ⟨hnotices, hfresh, hreported⟩ := endsRecorded_notices v.position
    (.fresh (v.contents p) (s.now + 10 * s.settings.staleness)) (s.noticedMap v) s
  dsimp only
  rw [noticeApplied_eq, forward_eq]
  exact ⟨by dsimp only; rw [hnotices], hfresh, hreported⟩

/-- A latch that is taken from, with a notice that its record accepts: the notice is applied and its map change delivered (R62, R63). -/
theorem takeNotice_applied {s : State} {p : Side} {cls : NoticeClass} {f : NoticeField} (hlatch : (s.port p).latch = .held cls f)
    (hchoice : (s.port p.other).latch = .empty ∨ p = if s.notices.firstChoice = true then .east else s.notices.lastTaken.other)
    (hcls : cls = .clean ∨ cls = .corrected) (hown : s.ownId ≠ some (noticeOf f).id) (hruns : s.node.state.runs = true)
    (hpos : (noticeOf f).position < s.ringSize) (hid : look 0 s.table.ring (noticeOf f).position = (noticeOf f).id)
    (hacc : ∀ c e, s.record (noticeOf f).position = .fresh c e →
      1 ≤ ((noticeOf f).sequence - c.sequence).toNat ∧ ((noticeOf f).sequence - c.sequence).toNat ≤ 127) :
    takeNotice s = deliverMapChange s.map
      (noticeApplied p (noticeOf f) (takeLatch p (!decide ((s.port p.other).latch = .empty)) s)) := by
  have hfield : ∀ u, handleField p cls f u = handleNotice p (noticeOf f) u := fun u => by
    rcases hcls with rfl | rfl <;> rfl
  unfold takeNotice
  rw [chooseLatch_eq hlatch hchoice]
  dsimp only
  rw [hlatch]
  dsimp only
  rw [hfield]
  exact handleNotice_applied hown hruns hpos hid ((accepts_iff _ _).mpr hacc)

/-- Settles O33: the latch by `takeNotice_applied`, the record and the queues by `noticeApplied_notices`, the map and the engine by
what a written map is once it is delivered. -/
theorem acceptedNoticesAreApplied : Obligations.AcceptedNoticesAreApplied := by
  intro s p cls f own hlatch hchoice hcls hruns hp v q w hown hpos hid hacc
  refine ⟨takeNotice s, rfl, ?_⟩
  rw [takeNotice_applied hlatch hchoice hcls hown hruns hpos hid hacc]
  have hdelivered : MapDelivered (s.noticedMap v) s (deliverMapChange s.map
      (noticeApplied p v (takeLatch p (!decide ((s.port p.other).latch = .empty)) s))) :=
    (MapWritten.before (s := s) (noticeApplied_written p v (takeLatch p (!decide ((s.port p.other).latch = .empty)) s)) rfl).delivered
  obtain ⟨hnotices, hfresh, hreported⟩ := noticeApplied_notices p v (takeLatch p (!decide ((s.port p.other).latch = .empty)) s)
  obtain ⟨hports, hnow⟩ : (noticeApplied p v (takeLatch p (!decide ((s.port p.other).latch = .empty)) s)).ports =
      s.ports.set p { s.port p with latch := .empty } ∧
      (noticeApplied p v (takeLatch p (!decide ((s.port p.other).latch = .empty)) s)).now = s.now := by
    simp [noticeApplied, takeLatch, State.setPort]
  generalize noticeApplied p v (takeLatch p (!decide ((s.port p.other).latch = .empty)) s) = u at *
  have hgrow := grow_deliverMapChange s.map u
  have hfresh' := convergenceFresh_deliverMapChange s.map hfresh
  obtain ⟨_, hnow', _, hports', _, _, hnotices', _⟩ := deliverMapChange_frame u s.map
  have hsettings := (undisturbed_deliverMapChange s.map u).settings
  generalize deliverMapChange s.map u = t at *
  have hends := ends_of_setEndsOf hdelivered hp hpos
  have hrecord : ∀ j, t.record j = if j = v.position then
      .fresh (v.contents p) (s.now + 10 * s.settings.staleness) else s.record j := fun j => by
    unfold State.record
    rw [hnotices', hnotices]
    show look .never (put .never s.notices.records v.position (.fresh (v.contents p) (s.now + 10 * s.settings.staleness))) j = _
    exact look_put _ _ _ _ _
  have hqueues : t.notices.queues = if 1 < v.hops then s.notices.queues.set p.other (offerNotice w (s.notices.queues.get p.other))
      else s.notices.queues := by
    rw [hnotices', hnotices]
    rfl
  refine ⟨hports'.trans hports, (hrecord _).trans (if_pos rfl), fun j hj => (hrecord j).trans (if_neg hj), hends, hdelivered.derived,
    hfresh', ?_, fun h => ?_, fun hunique h => ?_, ?_, ?_, hdelivered.reported, fun h => ?_, hdelivered.copies, hdelivered.node,
    hnow'.trans hnow, ?_, ?_, hdelivered.table, hdelivered.service, hdelivered.mgmt, hdelivered.standing, hdelivered.answered⟩
  · rw [hqueues]
    split
    · rw [Pair.get_set, if_neg (Side.other_ne p).symm]
    · rfl
  · rw [hqueues, if_neg (by omega)]
  · rw [hqueues, if_pos h, Pair.get_set_same]
    exact offerNotice_placed rfl (hunique.2 p.other)
  · rw [hnotices', hnotices]
    rfl
  · rw [hnotices', hnotices]
    simp [takeLatch, State.setPort]
  · exact hgrow.reported hsettings (hreported (by rw [← hnotices']; exact h))
  · rw [hnotices', hnotices]
    rfl
  · rw [hnotices', hnotices]
    rfl

/-! ### Staleness -/

/-- A FRESH record expires: it becomes STALE and the two ends of its position are withdrawn (R48, R69). -/
theorem stalenessExpiry_fresh {q : Nat} {s : State} {c : NoticeContents} {e : Nat} (h : s.record q = .fresh c e) :
    stalenessExpiry q s = deliverMapChange s.map
      (endsRecorded q (.stale c) (setEndsOf s.ringSize q none none .none .none s.map) (s.reach e)) := by
  unfold stalenessExpiry
  rw [h]
  rfl

/-- Settles O34: the record by `endsRecorded_notices`, the map and the engine by what a written map is once it is delivered. -/
theorem stalenessExpiryWithdrawsTheEnds : Obligations.StalenessExpiryWithdrawsTheEnds := by
  intro q s c e own hrec hp hq
  refine ⟨stalenessExpiry q s, rfl, ?_⟩
  rw [stalenessExpiry_fresh hrec]
  have hdelivered : MapDelivered (setEndsOf s.ringSize q none none .none .none s.map) s (deliverMapChange s.map
      (endsRecorded q (.stale c) (setEndsOf s.ringSize q none none .none .none s.map) (s.reach e))) :=
    (MapWritten.before (s := s) (endsRecorded_written _ _ _ (s.reach e)) rfl).delivered
  obtain ⟨hnotices, hfresh, hreported⟩ :=
    endsRecorded_notices q (.stale c) (setEndsOf s.ringSize q none none .none .none s.map) (s.reach e)
  obtain ⟨hports, hnow⟩ : (endsRecorded q (.stale c) (setEndsOf s.ringSize q none none .none .none s.map) (s.reach e)).ports = s.ports ∧
      (endsRecorded q (.stale c) (setEndsOf s.ringSize q none none .none .none s.map) (s.reach e)).now = max s.now e := by
    simp [endsRecorded, State.reach]
  generalize endsRecorded q (.stale c) (setEndsOf s.ringSize q none none .none .none s.map) (s.reach e) = u at *
  have hgrow := grow_deliverMapChange s.map u
  have hfresh' := convergenceFresh_deliverMapChange s.map hfresh
  obtain ⟨_, hnow', _, hports', _, _, hnotices', _⟩ := deliverMapChange_frame u s.map
  have hsettings := (undisturbed_deliverMapChange s.map u).settings
  generalize deliverMapChange s.map u = t at *
  have hends := ends_of_setEndsOf hdelivered hp hq
  have hrecord : ∀ j, t.record j = if j = q.val then .stale c else s.record j := fun j => by
    unfold State.record
    rw [hnotices', hnotices]
    show look .never (put .never s.notices.records q (.stale c)) j = _
    exact look_put _ _ _ _ _
  refine ⟨hnow'.trans hnow, (hrecord _).trans (if_pos rfl), fun j hj => (hrecord j).trans (if_neg hj), hends, hdelivered.reported,
    fun h => ?_, hdelivered.derived, hfresh', ?_, hports'.trans hports, ?_, ?_, hdelivered.copies, hdelivered.node, hdelivered.table,
    hdelivered.service, hdelivered.mgmt, hdelivered.standing, hdelivered.answered⟩
  · exact hgrow.reported hsettings (hreported (by rw [← hnotices']; exact h))
  · rw [hnotices', hnotices]; rfl
  · rw [hnotices', hnotices]; rfl
  · rw [hnotices', hnotices]; rfl

end Sys2Proof.Machine
end

section
/-! PROOF. OPERATOR (O56): the request of a port copy, its own end, and the notice of a request that changes (R45, R49, R75, R170). -/

namespace Sys2Proof.Machine

theorem originate_eq (s : State) : originate s = { s with notices := (originate s).notices } := by
  unfold originate
  split <;> rfl

/-! ### A request that is set -/

/-- The map with a request in a port copy (R49). -/
def FailureMap.withRequest (m : FailureMap) (side : Side) (r : OperatorRequest) : FailureMap :=
  { m with copies := m.copies.set side { m.copies.get side with request := r } }

/-- The map with a request in a port copy and in the own end of a node at position `own` (R45, R49). -/
def State.requestedMap (s : State) (own : Nat) (side : Side) (r : OperatorRequest) : FailureMap :=
  storeCopy s.ringSize own s.settings.orientation (s.map.withRequest side r) side

/-- The state with a request set, its map change not yet delivered: a request that changes is put on notice (R49, R75). -/
def requestNoticed (own : Nat) (side : Side) (r : OperatorRequest) (s : State) : State :=
  let t := writeMap (s.requestedMap own side r) s
  if (s.map.copies.get side).request = r then t else originate t

theorem setRequest_eq (own : Nat) (side : Side) (r : OperatorRequest) (s : State) :
    setRequest own side r s = deliverMapChange s.map (requestNoticed own side r s) := rfl

/-- What setting a request does to the map and the engine (R45, R49, R56, R58, R85). -/
theorem setRequest_delivered (own : Nat) (side : Side) (r : OperatorRequest) (s : State) :
    MapDelivered (s.requestedMap own side r) s (setRequest own side r s) := by
  have hwrite := MapWritten.of_writeMap (s.requestedMap own side r) s
  refine MapWritten.delivered (u := requestNoticed own side r s) ?_
  unfold requestNoticed
  dsimp only
  split
  · exact hwrite
  · exact hwrite.after (.of_eq (by simp)) (by rw [originate_eq])

theorem setRequest_copies (own : Nat) (side : Side) (r : OperatorRequest) (s : State) :
    (setRequest own side r s).map.copies = (s.map.withRequest side r).copies := by
  rw [(setRequest_delivered own side r s).copies]
  exact storeCopy_copies _ _ _ _ _

/-- What setting a request leaves in the ends: the own end of the port's copy is the copy, every other end is as it was (R45, R49). -/
theorem setRequest_ends {s : State} {own : Nat} (hp : s.position = some own) (side : Side) (r : OperatorRequest) :
    let t := setRequest own side r s
    let c := (t.map.copies.get side).asEnd
    ∀ k, k < s.ringSize →
      t.lowEnd k = (if side = clockwiseSide s.settings.orientation ∧ k = own then c else s.lowEnd k) ∧
      t.highEnd k = (if side = counterSide s.settings.orientation ∧ (k + 1) % s.ringSize = own then c else s.highEnd k) := by
  dsimp only
  rw [setRequest_copies]
  exact ends_of_storeCopy (setRequest_delivered own side r s) rfl hp

/-- A STARTING or ACTIVE node originates one notice of a request that changes, and none of one repeated or in another state
(R73, R75). -/
theorem setRequest_notices (own : Nat) (side : Side) (r : OperatorRequest) (s : State) :
    let t := setRequest own side r s
    (s.node.state.runs = false ∨ (s.map.copies.get side).request = r → t.notices = s.notices) ∧
      (s.node.state.runs = true → (s.map.copies.get side).request ≠ r → originated s t) ∧
      t.notices.records = s.notices.records := by
  have hdelivered := setRequest_delivered own side r s
  have hnotices : (setRequest own side r s).notices = (requestNoticed own side r s).notices := by
    rw [setRequest_eq]
    simp
  have hnow : (setRequest own side r s).now = s.now := by simp
  generalize setRequest own side r s = t at *
  refine ⟨fun h => ?_, fun hruns hne => ?_, ?_⟩
  · rw [hnotices]
    unfold requestNoticed
    dsimp only
    split
    · simp
    · rename_i hne
      rw [originate_idle _ (.inl (by simpa using h.resolve_right hne))]
      simp
  · have hnoticed : requestNoticed own side r s = originate (writeMap (s.requestedMap own side r) s) := if_neg hne
    refine originated_congr (originate_originated (writeMap (s.requestedMap own side r) s) (by simpa using hruns))
      (position_congr (by simp) (by simp)).symm (by simp) ?_ ?_ ?_ ?_ ?_
    · rw [hdelivered.node]; simp
    · rw [hdelivered.table]; simp
    · rw [hdelivered.copies]; simp
    · rw [hnow]; simp
    · rw [hnotices, hnoticed]
  · rw [hnotices]
    unfold requestNoticed
    dsimp only
    split <;> simp [records_originate]

/-! ### The directive -/

theorem exec_operator {s : State} (h : s.canTake) (side value : Byte) :
    exec (.operator side value) s = .next ((doOperator side.toNat value.toNat s).state.answeredWith
      (doOperator side.toNat value.toNat s).code (doOperator side.toNat value.toNat s).count []) :=
  congrArg Host.Outcome.next (directive_answered h rfl)

theorem sideOf_toNat (side : Byte) : sideOf side.toNat = if side = 0 then .east else .west := by
  unfold sideOf
  simp [BitVec.toNat_eq]

theorem requestOf_toNat {value : Byte} (h : value.toNat ≤ 2) :
    requestOf value.toNat = if value = 0 then .none else if value = 1 then .lockout else .force := by
  obtain rfl | rfl | rfl : value = 0 ∨ value = 1 ∨ value = 2 := by bv_omega
  all_goals rfl

/-- An OPERATOR with its codes in range, in a placed node (R49, R170). -/
theorem exec_operator_placed {s : State} (h : s.canTake) {side value : Byte} (hs : side.toNat ≤ 1) (hv : value.toNat ≤ 2) {own : Nat}
    (hp : s.position = some own) :
    exec (.operator side value) s = .next ((setRequest own (if side = 0 then .east else .west)
      (if value = 0 then .none else if value = 1 then .lockout else .force) s).answeredWith .ok 0 []) := by
  rw [exec_operator h, ← sideOf_toNat, ← requestOf_toNat hv]
  unfold doOperator
  rw [if_neg (by omega), hp]

/-- Settles O56: the codes by `doOperator`'s own checks, the rest by what setting a request does to the map, the ends and the notices. -/
theorem operatorSetsTheOwnRequest : Obligations.OperatorSetsTheOwnRequest := by
  intro side value s h
  refine ⟨fun hrange => ?_, fun hs hv => ⟨fun hp => ?_, fun own hp => ?_⟩⟩
  · rw [exec_operator h]
    unfold doOperator
    rw [if_pos hrange]
  · rw [exec_operator h]
    unfold doOperator
    rw [if_neg (by omega), hp]
  · intro p r
    have hexec : exec (.operator side value) s = .next ((setRequest own p r s).answeredWith .ok 0 []) :=
      exec_operator_placed h hs hv hp
    have hdelivered := setRequest_delivered own p r s
    have hcopies := setRequest_copies own p r s
    have hends := setRequest_ends hp p r
    obtain ⟨hquiet, hnoticed, hrecords⟩ := setRequest_notices own p r s
    obtain ⟨_, hnow, _, hports, _⟩ := setRequest_frame s own p r
    have hbehind : ringSub s.ringSize own 1 < s.ringSize := Nat.mod_lt _ (Nat.zero_lt_of_lt (position_lt hp))
    generalize setRequest own p r s = t at *
    have hget : ∀ q, t.map.copies.get q =
        if q = p then { s.map.copies.get p with request := r } else s.map.copies.get q := fun q => by
      rw [hcopies]
      exact Pair.get_set _ _ _ _
    have hend : (t.map.copies.get p).asEnd.2 = r := by rw [hget, if_pos rfl]; rfl
    have hlow : p = clockwiseSide s.settings.orientation → (t.lowEnd own).2 = r := fun hside => by
      rw [(hends own (position_lt hp)).1, if_pos ⟨hside, rfl⟩, hend]
    have hhigh : p = counterSide s.settings.orientation → (t.highEnd (ringSub s.ringSize own 1)).2 = r := fun hside => by
      rw [(hends _ hbehind).2, if_pos ⟨hside, ringSub_one_succ (position_lt hp)⟩, hend]
    refine ⟨t.answeredWith .ok 0 [], hexec, (hget p).trans (if_pos rfl), (hget _).trans (if_neg (Side.other_ne p)), hlow, hhigh, hdelivered.derived,
      hnoticed, hquiet, hdelivered.reported, hdelivered.answered, hdelivered.node, hports, hdelivered.table, hdelivered.service,
      hrecords, hnow, hdelivered.standing, answeredWith_mgmt hdelivered.mgmt _ _ _⟩

end Sys2Proof.Machine
end

section
/-! PROOF. What keeps a map derived and its end records as their owners say (R43 to R50, R60, R66, R73): the shapes a change can have. -/

namespace Sys2Proof.Machine

/-! ### What the end records hold, position by position -/

/-- The views of a line port's four supervisors (R44). -/
def State.viewsOf (s : State) (p : Side) : Quad View := (s.port p).bands.map (fun x => x.supervisor.view)

theorem viewsOf_congr {s t : State} (h : t.ports = s.ports) (p : Side) : t.viewsOf p = s.viewsOf p := by
  unfold State.viewsOf State.port
  rw [h]

/-- A port that changes beside its bands keeps its views. -/
theorem viewsOf_setPort {s : State} {p : Side} {v : LinePort} (h : v.bands = (s.port p).bands) (q : Side) :
    (s.setPort p v).viewsOf q = s.viewsOf q := by
  unfold State.viewsOf
  rw [port_setPort]
  split
  · rename_i hq; rw [hq, h]
  · rfl

/-- The two ends that a position speaks for: the low one of the span ahead of it, the high one of the span behind it (R43). -/
def State.endsAt (s : State) (q : Nat) : (Option (Quad View) × OperatorRequest) × (Option (Quad View) × OperatorRequest) :=
  (s.lowEnd q, s.highEnd (ringSub s.ringSize q 1))

/-- What a position says of its two ends to a node at position `own`: the node's port copies, or the position's record (R45, R47,
R48). -/
def State.saidOf (s : State) (own q : Nat) : (Option (Quad View) × OperatorRequest) × (Option (Quad View) × OperatorRequest) :=
  if q = own then
    ((s.map.copies.get (clockwiseSide s.settings.orientation)).asEnd, (s.map.copies.get (counterSide s.settings.orientation)).asEnd)
  else (s.record q).ends

/-- The records of all positions but the others of the ring are NEVER (R66, R73). -/
def State.recordsConfined (s : State) : Prop :=
  ∀ q, s.position = none ∨ s.position = some q ∨ s.ringSize ≤ q → s.record q = .never

theorem endsHeld_iff (s : State) : s.endsHeld ↔ (∀ p, (s.map.copies.get p).views = s.viewsOf p) ∧ s.recordsConfined ∧
    ∀ own, s.position = some own → ∀ q, q < s.ringSize → s.endsAt q = s.saidOf own q := by
  refine and_congr_right (fun _ => and_congr_right (fun _ => forall₂_congr (fun own hp => ?_)))
  unfold State.endsAt State.saidOf
  refine ⟨fun ⟨hlow, hhigh, hothers⟩ q hq => ?_, fun h => ⟨?_, ?_, fun q hq hne => (h q hq).trans (if_neg hne)⟩⟩
  · split
    · subst_vars
      rw [hlow, hhigh]
    · exact hothers q hq ‹_›
  · have hown := (h own (position_lt hp)).trans (if_pos rfl)
    exact congrArg Prod.fst hown
  · have hown := (h own (position_lt hp)).trans (if_pos rfl)
    exact congrArg Prod.snd hown

/-! ### What the conditions read -/

section
variable {s t : State} (hposition : t.position = s.position) (hsize : t.ringSize = s.ringSize)
  (hq : t.notices.records = s.notices.records)
include hposition hsize hq

theorem recordsConfined_congr (h : s.recordsConfined) : t.recordsConfined := by
  intro q hc
  rw [hposition, hsize] at hc
  unfold State.record
  rw [hq]
  exact h q hc

/-- The ends of the spans of the ring, their owners and the orientation are all that the ends held turn on. -/
theorem endsHeld_congr (hc : t.map.copies = s.map.copies)
    (he : s.placed = true → ∀ k, k < s.ringSize → t.lowEnd k = s.lowEnd k ∧ t.highEnd k = s.highEnd k)
    (hv : ∀ p, t.viewsOf p = s.viewsOf p) (ho : t.settings.orientation = s.settings.orientation) (h : s.endsHeld) : t.endsHeld := by
  obtain ⟨hviews, hconfined, hends⟩ := (endsHeld_iff s).mp h
  refine (endsHeld_iff t).mpr ⟨fun p => by rw [hc, hv, hviews], recordsConfined_congr hposition hsize hq hconfined,
    fun own hp q hlt => ?_⟩
  rw [hposition] at hp
  rw [hsize] at hlt
  have hplaced := (placed_iff s).mpr ⟨own, hp⟩
  have h := hends own hp q hlt
  unfold State.endsAt State.saidOf State.record at h ⊢
  rw [hsize, (he hplaced q hlt).1, (he hplaced (ringSub s.ringSize q 1) (Nat.mod_lt _ (Nat.zero_lt_of_lt hlt))).2, hc, ho, hq]
  exact h

/-- A port copy that changes, with its own end and nothing else, leaves the ends held (R44, R45). -/
theorem endsHeld_of_ownEnd {side : Side} (hs : t.settings = s.settings) (hviews : ∀ p, (t.map.copies.get p).views = t.viewsOf p)
    (hother : t.map.copies.get side.other = s.map.copies.get side.other)
    (hends : ∀ own, s.position = some own → ∀ k, k < s.ringSize →
      t.lowEnd k = (if side = clockwiseSide s.settings.orientation ∧ k = own then (t.map.copies.get side).asEnd else s.lowEnd k) ∧
      t.highEnd k = (if side = counterSide s.settings.orientation ∧ (k + 1) % s.ringSize = own then (t.map.copies.get side).asEnd
        else s.highEnd k)) (h : s.endsHeld) : t.endsHeld := by
  obtain ⟨_, hconfined, hheld⟩ := (endsHeld_iff s).mp h
  refine (endsHeld_iff t).mpr ⟨hviews, recordsConfined_congr hposition hsize hq hconfined, fun own hp q hlt => ?_⟩
  rw [hposition] at hp
  rw [hsize] at hlt
  have hsaid := hheld own hp q hlt
  have hlow := (hends own hp q hlt).1
  have hhigh := (hends own hp (ringSub s.ringSize q 1) (Nat.mod_lt _ (Nat.zero_lt_of_lt hlt))).2
  rw [ringSub_one_succ hlt] at hhigh
  unfold State.endsAt State.saidOf at hsaid ⊢
  rw [hsize, hlow, hhigh, hs, show t.record q = s.record q by unfold State.record; rw [hq]]
  by_cases hown : q = own
  · rw [if_pos hown] at hsaid ⊢
    obtain ⟨hsaidLow, hsaidHigh⟩ := Prod.mk.inj hsaid
    by_cases hside : side = clockwiseSide s.settings.orientation
    · have hcounter : counterSide s.settings.orientation = side.other := by rw [hside]; rfl
      rw [if_pos ⟨hside, hown⟩, if_neg (fun he => counterSide_ne _ (he.1.symm.trans hside)), hsaidHigh, hcounter, hother, ← hside]
    · have hcounter := (ne_clockwiseSide_iff _ _).mp hside
      have hclockwise : clockwiseSide s.settings.orientation = side.other := by
        rw [hcounter]
        unfold counterSide
        cases clockwiseSide s.settings.orientation <;> rfl
      rw [if_neg (fun he => hside he.1), if_pos ⟨hcounter, hown⟩, hsaidLow, hclockwise, hother, ← hcounter]
  · rw [if_neg (fun he => hown he.2), if_neg (fun he => hown he.2), hsaid, if_neg hown, if_neg hown]

end

/-- A record that is written together with the two ends of its position leaves the ends held (R47, R48). -/
theorem endsHeld_of_setEndsOf {s t : State} {own q : Nat} {low high : Option (Quad View)} {lr hr : OperatorRequest} {r : NoticeRecord}
    (hd : MapDelivered (setEndsOf s.ringSize q low high lr hr s.map) s t) (hp : s.position = some own) (hlt : q < s.ringSize)
    (hne : q ≠ own) (hviews : ∀ p, t.viewsOf p = s.viewsOf p) (hrecord : ∀ j, t.record j = if j = q then r else s.record j)
    (hsaid : r.ends = ((high, hr), (low, lr))) (h : s.endsHeld) : t.endsHeld := by
  obtain ⟨hcopies, hconfined, hheld⟩ := (endsHeld_iff s).mp h
  refine (endsHeld_iff t).mpr ⟨fun p => ?_, fun j hj => ?_, fun own' hp' j hj => ?_⟩
  · rw [hd.copies, hviews]
    exact hcopies p
  · rw [hd.position, hd.ringSize] at hj
    have hjq : j ≠ q := by
      rintro rfl
      rw [hp] at hj
      rcases hj with hj | hj | hj
      · cases hj
      · exact hne (Option.some.inj hj).symm
      · omega
    rw [hrecord, if_neg hjq]
    exact hconfined j hj
  · rw [hd.position, hp] at hp'
    obtain rfl := Option.some.inj hp'
    rw [hd.ringSize] at hj
    have hlow := (ends_of_setEndsOf hd hp hlt j hj).1
    have hhigh := (ends_of_setEndsOf hd hp hlt (ringSub s.ringSize j 1) (Nat.mod_lt _ (Nat.zero_lt_of_lt hj))).2
    rw [ringSub_one_succ hj] at hhigh
    have hbefore := hheld own hp j hj
    unfold State.endsAt State.saidOf at hbefore ⊢
    rw [hd.ringSize, hlow, hhigh, hd.settings, hrecord, hd.copies]
    by_cases hjq : j = q
    · rw [if_pos hjq, if_pos hjq, if_neg (hjq ▸ hne), if_pos hjq, hsaid]
    · rw [if_neg hjq, if_neg hjq, if_neg hjq]
      exact hbefore

/-- A map rebuilt with the port copies in the own ends holds its ends when the other ends are as the records say (R45, R50, R51). -/
theorem endsHeld_of_ownEndsStored {t : State}
    {held : Nat → (Option (Quad View) × OperatorRequest) × (Option (Quad View) × OperatorRequest)} (h : t.ownEndsStored held)
    (hrequest : ∀ p, (t.map.copies.get p).request = .none) (hviews : ∀ p, (t.map.copies.get p).views = t.viewsOf p)
    (hconfined : t.recordsConfined)
    (hheld : ∀ own, t.position = some own → ∀ q, q < t.ringSize → q ≠ own →
      ((held q).1, (held (ringSub t.ringSize q 1)).2) = (t.record q).ends) : t.endsHeld := by
  refine (endsHeld_iff t).mpr ⟨hviews, hconfined, fun own hp q hlt => ?_⟩
  have hlow := (h own hp q hlt).1
  have hhigh := (h own hp (ringSub t.ringSize q 1) (Nat.mod_lt _ (Nat.zero_lt_of_lt hlt))).2
  have hend : ∀ p, (t.map.copies.get p).asEnd = (some (t.map.copies.get p).views, .none) := fun p => by
    rw [PortCopy.asEnd, hrequest]
  rw [ringSub_one_succ hlt] at hhigh
  unfold State.endsAt State.saidOf
  rw [hlow, hhigh, hend, hend]
  by_cases hown : q = own
  · rw [if_pos hown, if_pos hown, if_pos hown]
  · rw [if_neg hown, if_neg hown, if_neg hown]
    exact hheld own hp q hlt hown

/-! ### Changes that keep the map -/

/-- From `s` to `t` a derived map stays derived, and end records that hold what their owners say go on to hold it. -/
structure MapKept (s t : State) : Prop where
  derived : s.mapDerived → t.mapDerived
  ends : s.endsHeld → t.endsHeld

namespace MapKept

theorem refl (s : State) : MapKept s s := ⟨id, id⟩

theorem trans {s t u : State} (h : MapKept s t) (g : MapKept t u) : MapKept s u :=
  ⟨fun hs => g.derived (h.derived hs), fun hs => g.ends (h.ends hs)⟩

theorem after {s t u : State} (g : MapKept t u) (h : MapKept s t) : MapKept s u := h.trans g

/-- What leaves the map, the views, the records, the node's place and the settings as they were. -/
theorem of_views {s t : State} (hm : t.map = s.map) (hv : ∀ p, t.viewsOf p = s.viewsOf p)
    (hq : t.notices.records = s.notices.records) (hn : t.node.strap = s.node.strap) (hr : t.table.ring = s.table.ring)
    (hs : t.settings = s.settings) : MapKept s t :=
  ⟨mapDerived_congr hm hr hn hs, endsHeld_congr (position_congr hn hr) (by unfold State.ringSize; rw [hr]) hq (by rw [hm])
    (fun _ k _ => by unfold State.lowEnd State.highEnd State.span; rw [hm]; exact ⟨rfl, rfl⟩) hv (by rw [hs])⟩

/-- What leaves the map, the line ports, the records, the strap, the ring map and the settings as they were. -/
theorem of_ports {s t : State} (hr : t.table.ring = s.table.ring) (hs : t.settings = s.settings) (hm : t.map = s.map := by simp)
    (hp : t.ports = s.ports := by simp) (hq : t.notices.records = s.notices.records := by simp)
    (hn : t.node.strap = s.node.strap := by simp) : MapKept s t :=
  of_views hm (viewsOf_congr hp) hq hn hr hs

/-- What leaves the map, the line ports, the records, the strap and the circuit table as they were. -/
theorem of_eq {s t : State} (hm : t.map = s.map := by simp) (hp : t.ports = s.ports := by simp)
    (hq : t.notices.records = s.notices.records := by simp) (hn : t.node.strap = s.node.strap := by simp)
    (ht : t.table = s.table := by simp) : MapKept s t :=
  of_ports (by rw [ht]) (settings_of_table ht) hm hp hq hn

/-- An undisturbing step that leaves the map, the line ports, the records and the strap as they were. -/
theorem of_undisturbed {s t : State} (hu : Undisturbed s t) (hm : t.map = s.map := by simp) (hp : t.ports = s.ports := by simp)
    (hq : t.notices.records = s.notices.records := by simp) (hn : t.node.strap = s.node.strap := by simp) : MapKept s t :=
  of_ports hu.ring hu.settings hm hp hq hn

theorem of_viewsStay {p : Side} {s t : State} (h : ViewsStay p s t) : MapKept s t := by
  have hrest := h.rest
  refine of_views (by rw [hrest]) (fun q => ?_) (by rw [hrest]) (by rw [hrest]) (by rw [hrest]) h.settings
  by_cases hq : q = p
  · rw [hq]
    exact h.views
  · have hother : q = p.other := by
      revert hq
      cases p <;> cases q <;> simp [Side.other]
    unfold State.viewsOf
    rw [hother, h.other]

end MapKept

end Sys2Proof.Machine
end

section
/-! PROOF. The operations that keep the map derived and its end records as their owners say (O8): Band Supervisors, requests,
staleness and notices (R40, R44, R45, R47 to R49, R68, R69). -/

namespace Sys2Proof.Machine

/-! ### Line ports -/

/-- A supervisor's new state keeps the map: a view that moves goes into its port copy and its own end (R40, R44, R45). -/
theorem mapKept_setSupervisor (p : Side) (b : Nat) (v : Supervisor) (s : State) : MapKept s (setSupervisor p b v s) := by
  by_cases h : v.view = (s.band p b).supervisor.view
  · exact .of_viewsStay (.of_setSupervisor h)
  · have hu := undisturbed_setSupervisor p b v s
    have hcarried := carried_setSupervisor p b v s
    have hviews : ∀ q, (setSupervisor p b v s).viewsOf q = if q = p then viewsWith p b v s else s.viewsOf q := fun q => by
      unfold State.viewsOf viewsWith
      rw [port_setSupervisor]
      split
      · rename_i hq; rw [hq]
      · rename_i hq; rw [State.setBand, port_setPort, if_neg hq]
    rw [setSupervisor_moved h] at hu hcarried hviews ⊢
    have hraised : (viewRaised p b v s).map = s.map ∧ (viewRaised p b v s).node = s.node ∧
        (viewRaised p b v s).table = s.table := by simp [viewRaised, State.setBand, State.setPort]
    obtain ⟨hmap, hnode, htable⟩ := hraised
    have hcopies := viewsDelivered_copies p (viewsWith p b v s) (viewRaised p b v s)
    have hstrap : (viewsDelivered p (viewsWith p b v s) (viewRaised p b v s)).node.strap = (viewRaised p b v s).node.strap := by simp
    refine ⟨fun hs => (endsCarried_viewsDelivered p (viewsWith p b v s) (viewRaised p b v s)).derived
      (mapDerived_congr hmap (by rw [htable]) (by rw [hnode]) (settings_of_table htable) hs), fun hs => ?_⟩
    refine endsHeld_of_ownEnd (side := p) (position_congr (hstrap.trans (by rw [hnode])) hu.ring)
      (by unfold State.ringSize; rw [hu.ring]) hcarried.records hu.settings (fun q => ?_) ?_
      (fun own hp k hk => ?_) hs
    · rw [hviews, hcopies, hmap]
      show ((s.map.copies.set p _).get q).views = _
      rw [Pair.get_set]
      split
      · rfl
      · exact ((endsHeld_iff s).mp hs).1 q
    · rw [hcopies, hmap]
      exact Pair.get_set_other _ _ _
    · have hends := viewsDelivered_ends (s := viewRaised p b v s) (own := own)
        ((position_congr (by rw [hnode]) (by rw [htable])).trans hp) p (viewsWith p b v s)
      unfold State.settings State.ringSize State.lowEnd State.highEnd State.span at hends ⊢
      rw [hmap, htable] at hends
      exact hends k hk

theorem mapKept_deriveBand (p : Side) (b : Nat) (v : Supervisor) (s : State) : MapKept s (deriveBand p b v s) :=
  mapKept_setSupervisor p b _ s

theorem mapKept_bandFrame (p : Side) (b : Fin 4) (f : BandFrame) (s : State) : MapKept s (bandFrame p b f s) := by
  rw [bandFrame_eq p b.isLt]
  exact (((MapKept.of_viewsStay (viewsStay_receiveBand p b f s)).trans (mapKept_setSupervisor p b _ _)).trans
    (.of_viewsStay (.of_overheard (overheard_portOverhead p b f _)))).trans (mapKept_setSupervisor p b _ _)

/-- The time comes to an expiry. -/
theorem mapKept_reach (s : State) (e : Nat) : MapKept s (s.reach e) := .of_eq rfl rfl rfl rfl rfl

theorem mapKept_holdOffExpiry (p : Side) (b : Nat) (s : State) : MapKept s (holdOffExpiry p b s) := by
  unfold holdOffExpiry
  dsimp only
  split
  · exact .refl s
  · exact (mapKept_reach s _).trans (mapKept_deriveBand _ _ _ _)

theorem mapKept_returnTimerExpiry (p : Side) (b : Nat) (s : State) : MapKept s (returnTimerExpiry p b s) := by
  unfold returnTimerExpiry
  dsimp only
  split
  · exact .refl s
  · exact (mapKept_reach s _).trans (mapKept_deriveBand _ _ _ _)

/-- A frame sent leaves its port with the bands it had. -/
theorem mapKept_bandFrameTransmit (p : Side) (s : State) : MapKept s (bandFrameTransmit p s) := by
  exact .of_views (by simp) (viewsOf_setPort (p := p) rfl) (by simp [bandFrameTransmit]) (by simp) (by simp)
    (settings_of_table (by simp))

theorem mapKept_deliverThreshold (s : State) : MapKept s (deliverThreshold s) := by
  have hclear : ∀ (u : State) (e : Side × Nat), MapKept u (clearDegrade u e) := fun u e => by
    unfold clearDegrade
    dsimp only
    split
    · exact mapKept_deriveBand _ _ _ u
    · exact .refl u
  have hfold : ∀ (l : List (Side × Nat)) (u : State), MapKept u (l.foldl clearDegrade u) := by
    intro l
    induction l with
    | nil => exact .refl
    | cons e l ih => exact fun u => (hclear u e).trans (ih _)
  unfold deliverThreshold
  split
  · exact hfold _ s
  · exact .refl s

/-! ### Requests -/

theorem mapKept_setRequest {own : Nat} {s : State} (hp : s.position = some own) (side : Side) (r : OperatorRequest) :
    MapKept s (setRequest own side r s) := by
  have hd := setRequest_delivered own side r s
  have hcopies := setRequest_copies own side r s
  obtain ⟨_, _, hrecords⟩ := setRequest_notices own side r s
  have hends := setRequest_ends hp side r
  have hports : (setRequest own side r s).ports = s.ports := by simp
  generalize setRequest own side r s = t at *
  refine ⟨fun _ => hd.derived, fun hs => ?_⟩
  refine endsHeld_of_ownEnd (side := side) hd.position hd.ringSize hrecords hd.settings (fun q => ?_) ?_ (fun own' hp' => ?_) hs
  · rw [hcopies, viewsOf_congr hports, ← ((endsHeld_iff s).mp hs).1]
    show ((s.map.copies.set side _).get q).views = _
    rw [Pair.get_set]
    split
    · rename_i h; rw [h]
    · rfl
  · rw [hcopies]
    exact Pair.get_set_other _ _ _
  · obtain rfl := Option.some.inj (hp.symm.trans hp')
    exact hends

theorem mapKept_doOperator (side value : Nat) (s : State) : MapKept s (doOperator side value s).state := by
  unfold doOperator
  split
  · exact .refl s
  · split
    · exact .refl s
    · exact mapKept_setRequest ‹_› _ _

/-! ### Notices -/

/-- A record that becomes STALE has its ends withdrawn with it (R48, R69). -/
theorem mapKept_stalenessExpiry (q : Nat) (s : State) : MapKept s (stalenessExpiry q s) := by
  cases hrec : s.record q with
  | fresh c e =>
    rw [stalenessExpiry_fresh hrec]
    have hd : MapDelivered (setEndsOf s.ringSize q none none .none .none s.map) s (deliverMapChange s.map
        (endsRecorded q (.stale c) (setEndsOf s.ringSize q none none .none .none s.map) (s.reach e))) :=
      (MapWritten.before (s := s) (endsRecorded_written _ _ _ (s.reach e)) rfl).delivered
    refine ⟨fun _ => hd.derived, fun hs => ?_⟩
    have hconfined : ¬(s.position = none ∨ s.position = some q ∨ s.ringSize ≤ q) := fun h => by
      rw [((endsHeld_iff s).mp hs).2.1 q h] at hrec
      cases hrec
    simp only [not_or, not_le] at hconfined
    obtain ⟨hplaced, hne, hlt⟩ := hconfined
    obtain ⟨own, hp⟩ := Option.ne_none_iff_exists'.mp hplaced
    obtain ⟨hnotices, _, _⟩ :=
      endsRecorded_notices q (.stale c) (setEndsOf s.ringSize q none none .none .none s.map) (s.reach e)
    refine endsHeld_of_setEndsOf (r := .stale c) hd hp hlt (fun h => hne (h ▸ hp)) (fun p => ?_) (fun j => ?_) rfl hs
    · exact viewsOf_congr (by simp [endsRecorded, State.reach]) p
    · unfold State.record
      rw [(carried_deliverMapChange _ _).records, hnotices]
      show look .never (put .never s.notices.records q (.stale c)) j = _
      exact look_put _ _ _ _ _
  | never => unfold stalenessExpiry; rw [hrec]; exact .refl s
  | stale c => unfold stalenessExpiry; rw [hrec]; exact .refl s

/-- A placed node stands at its own ID in the ring map (R1). -/
theorem ringId_of_position {s : State} {own : Nat} (h : s.position = some own) :
    s.ownId = some (look 0 s.table.ring own) := by
  unfold State.position ownPositionOf at h
  unfold State.ownId
  split at h
  · cases h
  · rename_i id hid
    split at h
    · have hfound := List.find?_some h
      rw [hid, ← beq_iff_eq.mp hfound]
    · cases h

theorem mapKept_forward (p : Side) (v : Notice) (s : State) : MapKept s (forward p v s) := by
  rw [forward_eq]
  exact .of_eq rfl rfl rfl rfl rfl

theorem mapKept_countForeign (p : Side) (s : State) : MapKept s (countForeign p s) :=
  .of_eq (hq := by simp [countForeign])

/-- An applied notice is recorded together with the ends of its position, which is another than the own one (R47, R68). -/
theorem mapKept_noticeApplied {p : Side} {v : Notice} {s : State} (hown : s.ownId ≠ some v.id) (hplaced : s.position ≠ none)
    (hpos : v.position < s.ringSize) (hid : look 0 s.table.ring v.position = v.id) :
    MapKept s (deliverMapChange s.map (noticeApplied p v s)) := by
  have hd := (noticeApplied_written p v s).delivered
  obtain ⟨hnotices, _, _⟩ := noticeApplied_notices p v s
  obtain ⟨own, hp⟩ := Option.ne_none_iff_exists'.mp hplaced
  refine ⟨fun _ => hd.derived, endsHeld_of_setEndsOf
    (r := .fresh (v.contents p) (s.now + 10 * s.settings.staleness)) hd hp hpos ?_ (fun q => ?_) (fun j => ?_) rfl⟩
  · rintro rfl
    exact hown (hid ▸ ringId_of_position hp)
  · exact viewsOf_congr (by simp [noticeApplied]) q
  · unfold State.record
    rw [(carried_deliverMapChange _ _).records, hnotices]
    show look .never (put .never s.notices.records v.position (.fresh (v.contents p) (s.now + 10 * s.settings.staleness))) j = _
    exact look_put _ _ _ _ _

theorem mapKept_takeLatch (p : Side) (chosen : Bool) (s : State) : MapKept s (takeLatch p chosen s) :=
  .of_views rfl (viewsOf_setPort (p := p) rfl) rfl rfl rfl rfl

/-- A notice is applied, or leaves the map and the records as they were (R63). -/
theorem handleNotice_cases (p : Side) (v : Notice) (s : State) : MapKept s (handleNotice p v s) ∨
    (s.ownId ≠ some v.id ∧ s.node.state.runs = true ∧ v.position < s.ringSize ∧ look 0 s.table.ring v.position = v.id) ∧
      handleNotice p v s = deliverMapChange s.map (noticeApplied p v s) := by
  unfold handleNotice
  split
  · exact .inl (.refl s)
  · rename_i hown
    split
    · exact .inl (mapKept_forward p v s)
    · rename_i hruns
      split
      · exact .inl ((mapKept_countForeign p s).trans (mapKept_forward p v _))
      · rename_i hforeign
        split
        · obtain ⟨hpos, hid⟩ : v.position < s.ringSize ∧ look 0 s.table.ring v.position = v.id := by
            simpa [foreign] using hforeign
          exact .inr ⟨⟨by simpa [ownOrigin] using hown, by simpa using hruns, hpos, hid⟩, rfl⟩
        · exact .inl (mapKept_forward p v s)

/-- A notice handled keeps the map derived, and the ends held in a node whose state runs only when it is placed (R145). -/
theorem handleNotice_keeps (p : Side) (v : Notice) (s : State) : (s.mapDerived → (handleNotice p v s).mapDerived) ∧
    ((s.node.state.runs = true → s.position ≠ none) → s.endsHeld → (handleNotice p v s).endsHeld) := by
  rcases handleNotice_cases p v s with h | ⟨⟨hown, hruns, hpos, hid⟩, h⟩
  · exact ⟨h.derived, fun _ => h.ends⟩
  · rw [h]
    exact ⟨fun _ => (noticeApplied_written p v s).delivered.derived,
      fun hplaced => (mapKept_noticeApplied hown (hplaced hruns) hpos hid).ends⟩

theorem takeNotice_keeps (s : State) : (s.mapDerived → (takeNotice s).mapDerived) ∧
    ((s.node.state.runs = true → s.position ≠ none) → s.endsHeld → (takeNotice s).endsHeld) := by
  have hhandle : ∀ p chosen v, (s.mapDerived → (handleNotice p v (takeLatch p chosen s)).mapDerived) ∧
      ((s.node.state.runs = true → s.position ≠ none) → s.endsHeld → (handleNotice p v (takeLatch p chosen s)).endsHeld) :=
    fun p chosen v => by
      have hlatch := mapKept_takeLatch p chosen s
      obtain ⟨hderived, hends⟩ := handleNotice_keeps p v (takeLatch p chosen s)
      exact ⟨fun h => hderived (hlatch.derived h), fun hplaced h => hends hplaced (hlatch.ends h)⟩
  unfold takeNotice
  split
  · exact ⟨id, fun _ => id⟩
  · rename_i p chosen _
    split
    · exact ⟨id, fun _ => id⟩
    · rename_i cls f _
      have hlatch := mapKept_takeLatch p chosen s
      cases cls with
      | uncorrectable => exact ⟨hlatch.derived, fun _ => hlatch.ends⟩
      | unknownKind => exact ⟨hlatch.derived, fun _ => hlatch.ends⟩
      | clean => exact hhandle p chosen _
      | corrected => exact hhandle p chosen _

end Sys2Proof.Machine
end

section
/-! PROOF. LOAD and RESTART keep the map derived and its end records as their owners say (R3, R45, R50, R51, R57, R60, R172). -/

namespace Sys2Proof.Machine

/-! ### LOAD on the RING table -/

/-- Two ring maps with the same 32 entries place a node alike (R1). -/
theorem ownPositionOf_congr {r t : Table Byte} (h : ∀ k, k < 32 → look 0 r k = look 0 t k) (strap : Byte) :
    ownPositionOf r strap = ownPositionOf t strap := by
  have hvalid : ∀ own, ringValidOf r own = ringValidOf t own := fun own => by
    have hall : ∀ n, (List.range Config.ringMax).all (fun k => decide (k < n) || look 0 r k == 0) =
        (List.range Config.ringMax).all (fun k => decide (k < n) || look 0 t k == 0) := fun n => by
      rw [Bool.eq_iff_iff, List.all_eq_true, List.all_eq_true]
      exact forall₂_congr (fun k hk => by rw [h k (List.mem_range.mp hk)])
    unfold ringValidOf
    dsimp only
    rw [ringSizeOf_congr h, ringIdsOf_congr h, hall]
  have hfound : ∀ id, positionOf r id = positionOf t id := fun id => by
    unfold positionOf
    rw [ringSizeOf_congr h]
    exact List.find?_congr (fun k hk => by rw [h k ((List.mem_range.mp hk).trans_le (ringSizeOf_le t))])
  unfold ownPositionOf
  split
  · rfl
  · rw [hvalid, hfound]

/-- A ring map written with the entries it had. -/
theorem mapKept_sameRing {ring : Table Byte} {mgmt : Management} {s : State} (h : sameRing s.table.ring ring = true) :
    MapKept s { s with table := { s.table with ring := ring }, mgmt := mgmt } := by
  have hring := (sameRing_iff _ _).mp h
  have hposition := ownPositionOf_congr hring s.node.strap
  have hsize := ringSizeOf_congr hring
  refine ⟨fun hs => ?_, endsHeld_congr hposition.symm hsize.symm rfl rfl (fun _ _ _ => ⟨rfl, rfl⟩) (fun _ => rfl) rfl⟩
  unfold State.mapDerived spansOfRing at hs ⊢
  rw [hposition, hsize] at hs
  exact hs

theorem port_nodeAfterRing (s : State) (p : Side) : (nodeAfterRing (ringDelivered s)).port p = s.port p := by
  unfold State.port
  rw [(nodeAfterRing_frame _).2.2.1, (ringDelivered_rest s).2.1]

/-- A changed ring map has the map rebuilt, with every end but the own ones ABSENT and every record NEVER (R50, R80). -/
theorem mapKept_ringChanged {s u : State} (hmap : u.map = s.map) (hports : u.ports = s.ports) :
    MapKept s (nodeAfterRing (ringDelivered u)) := by
  obtain ⟨hrecords, _, hderived, _, hcopies, hends, _⟩ := ringChanged_spec u
  refine ⟨fun _ => hderived, fun hs => endsHeld_of_ownEndsStored hends (fun p => by rw [hcopies]) (fun p => ?_)
    (fun q _ => hrecords q) (fun own _ q _ _ => by rw [hrecords]; rfl)⟩
  have hports' : (nodeAfterRing (ringDelivered u)).ports = s.ports := by
    rw [(nodeAfterRing_frame _).2.2.1, (ringDelivered_rest u).2.1, hports]
  rw [hcopies, hmap, viewsOf_congr hports']
  exact ((endsHeld_iff s).mp hs).1 p

theorem mapKept_loadRing (bulk : List Byte) (s : State) : MapKept s (loadRing bulk s).state := by
  rcases loadRing_cases bulk s with h | ⟨_, ring, mgmt, h⟩ <;> rw [h]
  · exact .refl s
  · cases hsame : sameRing s.table.ring ring with
    | true =>
      rw [evaluateRing_same hsame]
      exact mapKept_sameRing hsame
    | false =>
      rw [evaluateRing_changed hsame]
      exact mapKept_ringChanged rfl rfl

/-! ### LOAD on the SETTINGS table -/

/-- A changed orientation puts the port copies into the own ends of the new orientation, with request NONE, and leaves the others
(R51). -/
theorem endsHeld_deliverOrientation (g : Settings) {s : State} (h : s.endsHeld) :
    (deliverOrientation s.settings (s.withSettings g)).endsHeld := by
  by_cases ho : (s.withSettings g).settings.orientation = s.settings.orientation
  · rw [deliverOrientation, if_pos ho]
    exact endsHeld_congr (s := s) rfl rfl rfl rfl (fun _ _ _ => ⟨rfl, rfl⟩) (fun _ => rfl) ho h
  · rw [deliverOrientation_turned ho]
    obtain ⟨hderived, hcopies, hends, _⟩ := orientationChanged_spec (s.withSettings g)
    have hcarried := carried_orientationChanged (s.withSettings g)
    have hu := undisturbed_orientationChanged (s.withSettings g)
    have hnode : (orientationChanged (s.withSettings g)).node = s.node := by simp
    have hports : (orientationChanged (s.withSettings g)).ports = s.ports := by simp
    refine (MapKept.of_eq (s := orientationChanged (s.withSettings g)) rfl rfl rfl rfl rfl).ends ?_
    generalize orientationChanged (s.withSettings g) = t at *
    have hposition : t.position = s.position := position_congr (by rw [hnode]) hu.ring
    have hsize : t.ringSize = s.ringSize := by unfold State.ringSize; rw [hu.ring]; rfl
    have hrecords : t.notices.records = s.notices.records := hcarried.records
    obtain ⟨hviews, hconfined, hheld⟩ := (endsHeld_iff s).mp h
    refine endsHeld_of_ownEndsStored hends (fun p => by rw [hcopies]) (fun p => ?_)
      (recordsConfined_congr hposition hsize hrecords hconfined) (fun own hp q hlt hne => ?_)
    · rw [hcopies, viewsOf_congr hports]
      exact hviews p
    · rw [hposition] at hp
      rw [hsize] at hlt ⊢
      have hsaid := (hheld own hp q hlt).trans (if_neg hne)
      unfold State.record at hsaid ⊢
      rw [hrecords]
      exact hsaid

/-- A changed act on degrade leaves the ends (R57). -/
theorem endsHeld_deliverActOnDegrade (before : Settings) {s : State} (h : s.endsHeld) :
    (deliverActOnDegrade before s).endsHeld := by
  unfold deliverActOnDegrade
  split
  · exact h
  · obtain ⟨_, _, _, hcopies, hends, _⟩ := actOnDegradeDelivered_spec s
    have hcarried := (carried_refreshDigest s).trans (carried_actOnDegradeChanged _)
    have hring : (actOnDegradeChanged (refreshDigest s)).table.ring = s.table.ring :=
      (undisturbed_actOnDegradeChanged _).ring.trans (by rw [refreshDigest_table])
    have hsettings : (actOnDegradeChanged (refreshDigest s)).settings = s.settings :=
      (undisturbed_actOnDegradeChanged _).settings.trans (by unfold State.settings; rw [refreshDigest_table])
    refine endsHeld_congr (position_congr (by simp) hring) (by unfold State.ringSize; rw [hring]) hcarried.records hcopies hends
      (viewsOf_congr (by simp)) (by rw [hsettings]) h

/-- A SETTINGS record that changes the orientation or act on degrade has the map derived afresh (R51, R57). -/
theorem derived_deliverSettings (g : Settings) {s : State} (h : s.mapDerived) :
    (deliverActOnDegrade s.settings (deliverOrientation s.settings (s.withSettings g))).mapDerived := by
  have hsettings := (undisturbed_deliverOrientation s.settings (s.withSettings g)).settings
  unfold deliverActOnDegrade
  split
  · rename_i ha
    rw [hsettings] at ha
    unfold deliverOrientation
    split
    · unfold State.mapDerived at h ⊢
      show s.map.spans = deriveSpans _ g.actOnDegrade s.map.spans
      rw [show g.actOnDegrade = _ from ha]
      exact h
    · exact (orientationChanged_spec (s.withSettings g)).1
  · exact (actOnDegradeDelivered_spec _).2.2.1

theorem mapKept_storeSettings (g : Settings) (s : State) : MapKept s (storeSettings g s) := by
  rw [storeSettings_eq]
  refine MapKept.trans ⟨derived_deliverSettings g, fun h => ?_⟩ (mapKept_deliverThreshold _)
  exact endsHeld_deliverActOnDegrade _ (endsHeld_deliverOrientation g h)

theorem mapKept_advanceCursor (s : State) : MapKept s (advanceCursor s) := .of_eq rfl rfl rfl rfl rfl

theorem mapKept_loadSettings (bulk : List Byte) (s : State) : MapKept s (loadSettings bulk s).state := by
  rcases loadSettings_cases bulk s with h | ⟨image, h, _⟩ <;> rw [h]
  · exact .refl s
  · exact (mapKept_advanceCursor s).trans (mapKept_storeSettings _ _)

/-! ### LOAD on the CIRCUIT table, and LOAD -/

theorem mapKept_loadCircuits (bulk : List Byte) (s : State) : MapKept s (loadCircuits bulk s).state := by
  have htable := (loadCircuits_table bulk s).1
  exact .of_ports (by rw [htable]) (by unfold State.settings; rw [htable])

theorem mapKept_doLoad (bulk : List Byte) (s : State) : MapKept s (doLoad bulk s).state := by
  rcases doLoad_cases bulk s with h | h | h | h <;> rw [h]
  · exact .refl s
  · exact mapKept_loadSettings bulk s
  · exact mapKept_loadRing bulk s
  · exact mapKept_loadCircuits bulk s

/-! ### RESTART -/

theorem records_enterStarting (s : State) : (enterStarting s).notices.records = s.notices.records := by
  unfold enterStarting
  simp [records_evaluateConvergence, records_originate]

/-- RESTART leaves every record NEVER (R82). -/
theorem records_restart (s : State) : (restart s).notices.records = [] := by
  have hsignals : (restartSignals (restartTables s)).notices.records = [] := by
    rw [(restartSignals_spec _).2.1]
  have hnode : ∀ u : State, (restartNode u).notices.records = u.notices.records := fun u => by
    unfold restartNode
    split
    · exact records_enterStarting u
    · exact records_evaluateConvergence u
  obtain ⟨_, _, _, _, _, _, _, _, _, _, _, _, _, hnotices⟩ := restart_frames s
  rw [hnotices]
  split
  · rw [records_originate, hnode, hsignals]
  · rw [hnode, hsignals]

theorem mapKept_restart (s : State) : MapKept s (restart s) := by
  obtain ⟨hports, hcopies, hderived, hends, _⟩ := restart_map s
  have hrecords : ∀ q, (restart s).record q = .never := fun q => by
    unfold State.record
    rw [records_restart]
    rfl
  refine ⟨fun _ => hderived, fun hs => endsHeld_of_ownEndsStored hends (fun p => by rw [hcopies]) (fun p => ?_)
    (fun q _ => hrecords q) (fun own _ q _ _ => by rw [hrecords]; rfl)⟩
  rw [hcopies]
  unfold State.viewsOf
  rw [hports]
  exact ((endsHeld_iff s).mp hs).1 p

end Sys2Proof.Machine
end

section
/-! PROOF. Every step keeps the map derived and its end records as their owners say (O8): chains, the remaining commands, and the
statement. -/

namespace Sys2Proof.Machine

/-! ### Chains -/

theorem mapKept_sendReply (c : Chain) (s : State) : MapKept s (sendReply c s) :=
  .of_eq

/-- A chain's end delivers the restart that is due (R172). -/
theorem mapKept_endChain (c : Chain) (s : State) : MapKept s (endChain c s) := by
  unfold endChain
  dsimp only
  split
  · refine (mapKept_restart _).after ((mapKept_sendReply c s).trans ?_)
    exact .of_eq rfl rfl rfl rfl rfl
  · exact (mapKept_sendReply c s).trans (.of_eq rfl rfl rfl rfl rfl)

theorem mapKept_setExecution (e : Execution) (s : State) : MapKept s (setExecution e s) := .of_eq rfl rfl rfl rfl rfl

theorem mapKept_answer (c : Chain) (more : Bool) (code : ResultCode) (count : Nat) (s : State) :
    MapKept s (answer c more code count s) := by
  unfold answer
  split
  · exact mapKept_endChain _ s
  · exact mapKept_setExecution _ s

/-- A change of the in-service set leaves the map and the Notice Records (R18, R19). -/
theorem mapKept_deliverService (c : Nat) (s : State) : MapKept s (deliverService c s) := by
  have hu := undisturbed_deliverService c s
  refine .of_ports (by rw [hu.table]; rfl) (by unfold State.settings; rw [hu.table]; rfl) (hq := ?_)
  unfold deliverService
  rw [records_refreshDigest]
  simp

theorem mapKept_service (a : ServiceAction) (c : Nat) (s : State) : MapKept s (service a c s).1 := by
  cases a with
  | in_ =>
    rcases serviceIn_cases c s with h | ⟨f, att, _, h⟩
    · rw [show (service .in_ c s).1 = s from h]
      exact .refl s
    · rw [show (service .in_ c s).1 = bringIn c f att s from h]
      exact (mapKept_deliverService c _).after (.of_views rfl (fun _ => rfl) rfl rfl rfl rfl)
  | out =>
    rcases serviceOut_cases c s with h | ⟨f, att, _, _, _, h⟩
    · rw [show (service .out c s).1 = s from h]
      exact .refl s
    · rw [show (service .out c s).1 = takeOut c f att s from h]
      exact (mapKept_deliverService c _).after (.of_views rfl (fun _ => rfl) rfl rfl rfl rfl)

theorem mapKept_takeService (c : Chain) (more : Bool) (a : ServiceAction) (n : Nat) (s : State) :
    MapKept s (takeService c more a n s) := by
  unfold takeService
  split
  · exact mapKept_setExecution _ s
  · exact (mapKept_service a n s).trans (mapKept_answer _ _ _ _ _)

theorem mapKept_takeDirective (c : Chain) (more : Bool) (d : Directive) (s : State) : MapKept s (takeDirective c more d s) := by
  cases d with
  | select table index => exact (mapKept_answer _ _ _ _ _).after .of_eq
  | load bulk => exact (mapKept_doLoad bulk s).trans (mapKept_answer _ _ _ _ _)
  | read count =>
    unfold takeDirective
    dsimp only
    split
    · exact mapKept_answer _ _ _ _ s
    · exact mapKept_setExecution _ s
  | service circuit action =>
    unfold takeDirective
    dsimp only
    split
    · exact mapKept_answer _ _ _ _ s
    · split
      · exact mapKept_answer _ _ _ _ s
      · exact mapKept_takeService _ _ _ _ s
  | operator side value => exact (mapKept_doOperator side value s).trans (mapKept_answer _ _ _ _ _)
  | capture flag => exact (mapKept_answer _ _ _ _ _).after .of_eq
  | restart => exact mapKept_answer _ _ _ _ s

theorem mapKept_readRecord (c : Chain) (r : Reading) (s : State) : MapKept s (readRecord c r s) := by
  unfold readRecord
  dsimp only
  split
  · exact mapKept_answer _ _ _ _ s
  · split
    · exact mapKept_answer _ _ _ _ s
    · split
      · exact (mapKept_advanceCursor s).trans (mapKept_setExecution _ _)
      · exact mapKept_answer _ _ _ _ s

theorem mapKept_chainStep (c : Chain) (s : State) : MapKept s (chainStep c s) := by
  unfold chainStep
  split
  · exact mapKept_readRecord _ _ s
  · split
    · split
      · exact mapKept_answer _ _ _ _ s
      · exact mapKept_takeDirective _ _ _ s
    · exact mapKept_endChain c s

theorem mapKept_runChain (n : Nat) (s : State) : MapKept s (runChain n s) := by
  induction n generalizing s with
  | zero => exact .refl s
  | succ n ih =>
    unfold runChain
    split
    · exact (mapKept_chainStep _ s).trans (ih _)
    · exact .refl s

theorem mapKept_runPaused (pause : Option Nat) (s : State) : MapKept s (runPaused pause s) := by
  unfold runPaused
  split
  · exact mapKept_runChain _ s
  · exact .refl s

theorem mapKept_executeRequest (pause : Option Nat) (s : State) : MapKept s (executeRequest pause s) := by
  unfold executeRequest
  split
  · exact .refl s
  · split
    · exact (mapKept_runPaused pause _).after .of_eq
    · exact mapKept_runPaused pause s
    · exact .refl s

theorem mapKept_directive (d : Directive) (s : State) : MapKept s (directive d s) := by
  unfold directive
  split
  · exact .refl s
  · split
    · exact (mapKept_takeDirective _ _ d s).trans (mapKept_runPaused none _)
    · split
      · split
        · dsimp only
          split
          · exact (mapKept_takeDirective _ _ _ s).trans (mapKept_runPaused none _)
          · exact mapKept_takeDirective _ _ _ s
        · exact .refl s
      · exact .refl s
    · exact .refl s

theorem mapKept_holdTimerExpiry (s : State) : MapKept s (holdTimerExpiry s) := by
  unfold holdTimerExpiry
  split
  · exact (mapKept_reach s _).trans (mapKept_answer _ _ _ _ _)
  · exact .refl s

theorem mapKept_heldServiceRelease (s : State) : MapKept s (heldServiceRelease s) := by
  unfold heldServiceRelease
  split
  · split
    · exact .refl s
    · exact mapKept_takeService _ _ _ _ s
  · exact .refl s

/-! ### The remaining commands -/

theorem mapKept_refreshExpiry (s : State) : MapKept s (refreshExpiry s) := by
  unfold refreshExpiry
  split
  · exact .of_eq (hq := records_originate _)
  · exact .refl s

theorem mapKept_listenExpiry (s : State) : MapKept s (listenExpiry s) := by
  refine .of_undisturbed (undisturbed_listenExpiry s) (hq := ?_) (hn := ?_)
  all_goals
    unfold listenExpiry
    split
  · simp [records_evaluateConvergence, records_originate, setNodeState, State.reach]
  · rfl
  · simp [setNodeState, State.reach]
  · rfl

/-! ### The statement -/

/-- What a command other than POWER_RESET and NOTICE_TAKEN does to the map. -/
theorem mapKept_exec {c : Instr} {s t : State} (hreset : ∀ strap, c ≠ .powerReset strap) (hnotice : c ≠ .noticeTaken)
    (h : exec c s = .next t) : MapKept s t := by
  have kept : ∀ {u}, MapKept s u → exec c s = .next u → MapKept s t := fun hu e => by
    rw [e] at h; cases h; exact hu
  cases c with
  | powerReset strap => exact absurd rfl (hreset strap)
  | noticeTaken => exact absurd rfl hnotice
  | bandFrame p b f => exact kept (mapKept_bandFrame p b f s) rfl
  | bandEntryIntoLost p b =>
    refine kept ?_ rfl
    unfold bandEntryIntoLost
    split
    · exact mapKept_bandFrame p b _ s
    · exact .refl s
  | bandEntryIntoAligned p b f =>
    refine kept ?_ rfl
    unfold bandEntryIntoAligned
    split
    · exact mapKept_bandFrame p b f s
    · exact .refl s
  | degradeIntervalEnd p b f =>
    refine kept ?_ rfl
    unfold degradeIntervalEnd
    split
    · exact mapKept_bandFrame p b f s
    · exact .refl s
  | holdOffExpiry p b => exact kept (mapKept_holdOffExpiry p b s) rfl
  | returnTimerExpiry p b => exact kept (mapKept_returnTimerExpiry p b s) rfl
  | bandFrameTransmit p => exact kept (mapKept_bandFrameTransmit p s) rfl
  | tributaryFrame n f => exact kept .of_eq rfl
  | tributaryAlignmentChange n f => exact kept .of_eq rfl
  | tributaryFrameTransmit n => exact kept .of_eq rfl
  | switchFrameBoundary =>
    exact kept (.of_undisturbed (undisturbed_frameBoundary s)) rfl
  | tagCheckStateChange n =>
    have htable := (tagStateChange_table n s).1
    exact kept (.of_ports (by rw [htable]) (by unfold State.settings; rw [htable])) rfl
  | stalenessExpiry q => exact kept (mapKept_stalenessExpiry q s) rfl
  | refreshTimerExpiry => exact kept (mapKept_refreshExpiry s) rfl
  | gatherExpiry =>
    exact kept (.of_undisturbed (undisturbed_gatherExpiry s)) rfl
  | passCompletion =>
    exact kept (.of_undisturbed (undisturbed_passCompletion s)) rfl
  | buildStart => exact kept .of_eq rfl
  | buildEnd => exact kept .of_eq rfl
  | listenExpiry => exact kept (mapKept_listenExpiry s) rfl
  | managementFrameFromLine p bytes => exact kept .of_eq rfl
  | managementFrameFromTributary bytes => exact kept .of_eq rfl
  | executeRequest pause => exact kept (mapKept_executeRequest pause s) rfl
  | select table index => exact kept (mapKept_directive _ s) rfl
  | load bulk => exact kept (mapKept_directive _ s) rfl
  | read count => exact kept (mapKept_directive _ s) rfl
  | serviceIn n => exact kept (mapKept_directive _ s) rfl
  | serviceOut n => exact kept (mapKept_directive _ s) rfl
  | holdTimerExpiry => exact kept (mapKept_holdTimerExpiry s) rfl
  | heldServiceRelease => exact kept (mapKept_heldServiceRelease s) rfl
  | operator side value => exact kept (mapKept_directive _ s) rfl
  | capture flag => exact kept (mapKept_directive _ s) rfl
  | restart => exact kept (mapKept_directive _ s) rfl
  | reportEmission => exact kept .of_eq rfl

/-- What every command does to a derived map, and to ends held in a node that is placed whenever its state runs (R145). -/
theorem exec_keeps {c : Instr} {s t : State} (h : exec c s = .next t) : (s.mapDerived → t.mapDerived) ∧
    ((s.node.state.runs = true → s.position ≠ none) → s.endsHeld → t.endsHeld) := by
  by_cases hreset : ∃ strap, c = .powerReset strap
  · obtain ⟨strap, rfl⟩ := hreset
    cases h
    obtain ⟨_, _, _, hderived, _, _, _, _, _, _, _, _, hends⟩ := powerResetMeetsTheInvariants.2 strap
    exact ⟨fun _ => hderived, fun _ _ => hends⟩
  · by_cases hnotice : c = .noticeTaken
    · subst hnotice
      cases h
      exact takeNotice_keeps s
    · have hkept := mapKept_exec (fun strap he => hreset ⟨strap, he⟩) hnotice h
      exact ⟨hkept.derived, fun _ => hkept.ends⟩

/-- A step does what the command at the front of the queue does, which reads nothing of the queue itself. -/
theorem step_keeps {s t : State} (h : step s = .next t) : (s.mapDerived → t.mapDerived) ∧
    ((s.node.state.runs = true → s.position ≠ none) → s.endsHeld → t.endsHeld) := by
  unfold step at h
  split at h
  · cases h
    exact ⟨id, fun _ => id⟩
  · rename_i c rest _
    exact exec_keeps (s := { s with pending := rest }) h

/-- Settles O8: `step_keeps`, with the node placed when its state runs by `State.stateAllows`. -/
theorem stepsKeepTheMapDerived : Obligations.StepsKeepTheMapDerived := by
  refine ⟨fun s t hs h => (step_keeps h).1 hs, fun s t _ hallows hs h => (step_keeps h).2 (fun hruns => ?_) hs⟩
  obtain ⟨own, hp⟩ := (placed_iff s).mp (hallows.1.symm.trans hruns)
  rw [hp]
  exact Option.some_ne_none own

end Sys2Proof.Machine
end

section
/-! PROOF. What the operations of the part keep of three conditions at once: no double in the pending list and in the outgoing notice
queues (O7), the convergence status that R79's test gives (O10), and a placement, node state, engine and refresh timer that agree
(O12). -/

namespace Sys2Proof.Machine

/-! ### The three conditions -/

/-- The node states in which an engine state occurs: a build in STARTING and ACTIVE, a gather and a pass in ACTIVE (R86). -/
def EngineState.allowedIn (n : NodeState) : EngineState → Prop
  | .idle => True
  | .build _ _ => n.runs = true
  | .gather _ => n = .active
  | .pass _ => n = .active

theorem EngineState.allowedIn_active (e : EngineState) : e.allowedIn .active := by
  cases e <;> simp [allowedIn, NodeState.runs]

/-- What a node that is neither STARTING nor ACTIVE allows its engine. -/
theorem EngineState.allowedIn_stopped {n : NodeState} (h : n.runs = false) (e : EngineState) : e.allowedIn n ↔ e = .idle := by
  have hactive : n ≠ .active := by rintro rfl; cases h
  cases e <;> simp [allowedIn, h, hactive]

/-- What a STARTING or ACTIVE node allows its engine. -/
theorem EngineState.allowedIn_running {n : NodeState} (h : n.runs = true) (e : EngineState) :
    e.allowedIn n ↔ (n ≠ .active → (∀ x, e ≠ .gather x) ∧ ∀ i, e ≠ .pass i) := by
  by_cases hactive : n = .active
  · subst hactive
    simp [allowedIn_active]
  · cases e <;> simp [allowedIn, h, hactive]

/-- `State.stateAllows` as what the node state allows the engine and the refresh timer. -/
theorem stateAllows_iff (s : State) : s.stateAllows ↔ s.node.state.runs = s.placed ∧
    s.engine.state.allowedIn s.node.state ∧ (s.node.state.runs = false → s.notices.refresh = none) := by
  unfold State.stateAllows
  cases hruns : s.node.state.runs with
  | false =>
    rw [EngineState.allowedIn_stopped hruns]
    refine ⟨fun ⟨hplaced, hstopped, _⟩ => ⟨hplaced, (hstopped rfl).1, fun _ => (hstopped rfl).2⟩,
      fun ⟨hplaced, he, hr⟩ => ⟨hplaced, fun _ => ⟨he, hr rfl⟩, fun _ => ?_⟩⟩
    simp [he]
  | true =>
    rw [EngineState.allowedIn_running hruns]
    simp

/-- From `s` to `t` no double comes into the pending list or an outgoing notice queue, and placement, node state, engine and refresh
timer go on to agree; the convergence status may be due to be evaluated. -/
structure Orderly (s t : State) : Prop where
  lists : s.listsUnique → t.listsUnique
  allows : s.stateAllows → t.stateAllows

/-- `Orderly`, with the convergence status evaluated where it is due. -/
structure Settled (s t : State) : Prop extends Orderly s t where
  fresh : s.convergenceFresh → t.convergenceFresh

namespace Orderly

theorem refl (s : State) : Orderly s s := ⟨id, id⟩

theorem trans {s t u : State} (h : Orderly s t) (g : Orderly t u) : Orderly s u :=
  ⟨fun hs => g.lists (h.lists hs), fun hs => g.allows (h.allows hs)⟩

/-- What leaves the lists, the node, its place, the engine state and the refresh timer as they were. -/
theorem of_eq {s t : State} (hs : t.reports.subjects = s.reports.subjects := by simp)
    (hq : t.notices.queues = s.notices.queues := by simp) (hf : t.notices.refresh = s.notices.refresh := by simp)
    (hn : t.node = s.node := by simp) (hr : t.table.ring = s.table.ring := by simp)
    (he : t.engine.state = s.engine.state := by simp) : Orderly s t := by
  refine ⟨fun h => ?_, fun h => ?_⟩
  · unfold State.listsUnique at h ⊢
    rwa [hs, hq]
  · unfold State.stateAllows State.placed at h ⊢
    rwa [hn, he, hf, position_congr (by rw [hn]) hr]

end Orderly

namespace Settled

theorem refl (s : State) : Settled s s := ⟨.refl s, id⟩

theorem trans {s t u : State} (h : Settled s t) (g : Settled t u) : Settled s u :=
  ⟨h.toOrderly.trans g.toOrderly, fun hs => g.fresh (h.fresh hs)⟩

theorem after {s t u : State} (g : Settled t u) (h : Settled s t) : Settled s u := h.trans g

/-- What leaves the Notice Unit, the node, its place and the digest as they were, puts no double into the pending list, and takes the
engine into no state that the node does not allow. -/
theorem of_frame {s t : State} (hs : s.reports.subjects.Nodup → t.reports.subjects.Nodup)
    (he : s.engine.state.allowedIn s.node.state → t.engine.state.allowedIn s.node.state)
    (hnotices : t.notices = s.notices := by simp) (hn : t.node = s.node := by simp)
    (hr : t.table.ring = s.table.ring := by simp) (hd : t.table.digest = s.table.digest := by simp) : Settled s t := by
  refine ⟨⟨fun h => ?_, fun h => ?_⟩, fun h => ?_⟩
  · exact ⟨hs h.1, by rw [hnotices]; exact h.2⟩
  · rw [stateAllows_iff] at h ⊢
    obtain ⟨hplaced, hallowed, hrefresh⟩ := h
    unfold State.placed at hplaced ⊢
    rw [hn, hnotices, position_congr (by rw [hn]) hr]
    exact ⟨hplaced, he hallowed, hrefresh⟩
  · unfold State.convergenceFresh at h ⊢
    rw [convergenceOf_congr hn hr (by rw [hnotices]) hd, hnotices, h]

/-- What leaves the pending list, the Notice Unit, the node, its place, the digest and the engine state as they were. -/
theorem of_eq {s t : State} (hs : t.reports.subjects = s.reports.subjects := by simp)
    (he : t.engine.state = s.engine.state := by simp) (hnotices : t.notices = s.notices := by simp)
    (hn : t.node = s.node := by simp) (hr : t.table.ring = s.table.ring := by simp)
    (hd : t.table.digest = s.table.digest := by simp) : Settled s t :=
  .of_frame (fun h => by rwa [hs]) (fun h => by rwa [he]) hnotices hn hr hd

/-- What leaves the node, its place, the records, the digest and the convergence status as they were. -/
theorem of_orderly {s t : State} (h : Orderly s t) (hc : t.notices.convergence = s.notices.convergence := by simp)
    (hq : t.notices.records = s.notices.records := by simp) (hn : t.node = s.node := by simp)
    (hr : t.table.ring = s.table.ring := by simp) (hd : t.table.digest = s.table.digest := by simp) : Settled s t := by
  refine ⟨h, fun hs => ?_⟩
  unfold State.convergenceFresh at hs ⊢
  rw [hc, convergenceOf_congr hn hr hq hd, hs]

end Settled

/-! ### Reports -/

theorem settled_raise (x : Subject) (s : State) : Settled s (raise x s) := .of_frame (nodup_raise x s) (by simp)

theorem settled_raiseAll (xs : List Subject) (s : State) : Settled s (raiseAll xs s) :=
  .of_frame (nodup_raiseAll xs s) (by simp)

/-- An emission takes reports off the pending list (R178). -/
theorem subjects_reportEmission (s : State) : (reportEmission s).reports.subjects.Sublist s.reports.subjects := by
  unfold reportEmission
  repeat' split
  · exact .refl _
  · exact .refl _
  · exact .refl _
  · exact List.nil_sublist _
  · rw [(offerFrame_frame _ _ _).2.2.2.2.2.2.2.2.2.2.2]
    exact (List.drop_sublist _ _).trans List.filter_sublist

theorem settled_reportEmission (s : State) : Settled s (reportEmission s) :=
  .of_frame (fun h => h.sublist (subjects_reportEmission s)) (by simp)

/-! ### The Restoration Engine -/

theorem settled_setEngine {e : EngineState} {s : State} (h : s.engine.state.allowedIn s.node.state → e.allowedIn s.node.state) :
    Settled s (setEngine e s) := .of_frame id h

theorem settled_setPlan (k : Nat) (v : Plan) (s : State) : Settled s (s.setPlan k v) := .of_eq

theorem settled_bump (n : Nat) (s : State) : Settled s (bump n s) := .of_eq

theorem settled_deriveTarget (s : State) : Settled s (deriveTarget s) := .of_eq

theorem settled_stalePlans (s : State) : Settled s (stalePlans s) := .of_eq

theorem settled_install (r : PassResult) (s : State) : Settled s (install r s) := by
  refine .of_frame (fun h => nodup_raise _ _ (nodup_raiseAll _ _ h)) (fun h => ?_) (hr := ?_) (hd := ?_)
  · rw [(install_spec r s).1]
    exact h
  all_goals rw [(install_spec r s).2.1]

theorem settled_abandonBuild (s : State) : Settled s (abandonBuild s) := by
  unfold abandonBuild
  split
  · exact (settled_setPlan _ _ s).trans (settled_setEngine (fun _ => trivial))
  · exact .refl s

theorem settled_endWork (s : State) : Settled s (endWork s) :=
  .of_frame (by simp) (fun _ => by rw [endWork_engine]; trivial)

/-- A gather starts in ACTIVE alone (R85, R87). -/
theorem settled_startGather {s : State} (h : s.node.state = .active) : Settled s (startGather s) :=
  settled_setEngine (fun _ => h)

/-- A pass that starts afresh was a pass before (R92). -/
theorem settled_restartPass {s : State} (h : s.node.state = .active) : Settled s (restartPass s) :=
  (settled_bump _ s).trans (settled_setEngine (fun _ => h))

theorem settled_answerMapChange {s : State} (h : s.node.state = .active) : Settled s (answerMapChange s) := by
  rcases answerMapChange_cases s with ⟨r, _, he⟩ | ⟨_, he⟩ <;> rw [he]
  · exact (settled_install r s).trans (settled_bump _ _)
  · exact settled_startGather h

theorem settled_mapChange (s : State) : Settled s (mapChange s) := by
  unfold mapChange
  split
  · rename_i h
    split
    · exact settled_answerMapChange h
    · exact (settled_abandonBuild s).trans (settled_answerMapChange (by simpa using h))
    · exact .refl s
    · exact settled_restartPass h
  · exact settled_abandonBuild s
  · exact .refl s

theorem settled_generationChange (s : State) : Settled s (generationChange s) := by
  unfold generationChange
  split
  · rename_i h
    split
    · split
      · exact .refl s
      · exact settled_startGather h
    · split
      · exact .refl s
      · exact (settled_abandonBuild s).trans (settled_startGather (by simpa using h))
    · exact .refl s
    · exact settled_restartPass h
  · exact .refl s

theorem settled_reach (s : State) (e : Nat) : Settled s (s.reach e) := .of_eq

theorem settled_gatherExpiry (s : State) : Settled s (gatherExpiry s) := by
  unfold gatherExpiry
  split
  · rename_i h
    exact (settled_reach s _).trans (settled_setEngine (fun ha => by
      rw [(State.reach_frame s _).2.2.2.2.2.2.2.1, h] at ha
      exact ha))
  · exact .refl s

theorem settled_passCompletion (s : State) : Settled s (passCompletion s) := by
  unfold passCompletion
  split
  · exact ((settled_install _ s).trans (settled_bump _ _)).trans (settled_setEngine (fun _ => trivial))
  · exact .refl s

/-- A build starts in STARTING and ACTIVE alone (R114). -/
theorem settled_buildStart (s : State) : Settled s (buildStart s) := by
  unfold buildStart
  split
  · rename_i hruns _
    exact (settled_setPlan _ _ s).trans (settled_setEngine (fun _ => hruns))
  · exact .refl s

theorem settled_buildEnd (s : State) : Settled s (buildEnd s) := by
  unfold buildEnd
  split
  · rename_i k i _
    have hbuilt : Settled s (setEngine .idle (s.setPlan k (builtPlan s.table.generation (computePass i) (s.plan k)))) :=
      (settled_setPlan _ _ s).trans (settled_setEngine (fun _ => trivial))
    dsimp only
    split
    · exact hbuilt.trans (settled_raise _ _)
    · exact hbuilt
  · exact .refl s

/-! ### The Failure Map -/

theorem settled_writeMap (m : FailureMap) (s : State) : Settled s (writeMap m s) :=
  .of_frame (fun h => nodup_raiseAll _ _ h) (by simp)

theorem settled_deliverMapChange (m : FailureMap) (s : State) : Settled s (deliverMapChange m s) := by
  unfold deliverMapChange
  split
  · exact .refl s
  · exact settled_mapChange s

/-! ### The Notice Unit -/

/-- An outgoing queue to which a notice is offered (R71). -/
theorem nodup_queueNotice {p : Side} {v : QueuedNotice} {s : State}
    (h : ∀ q, ((s.notices.queues.get q).map (fun e => e.notice.position)).Nodup) (q : Side) :
    (((queueNotice p v s).notices.queues.get q).map (fun e => e.notice.position)).Nodup := by
  unfold queueNotice
  rw [Pair.get_set]
  split
  · exact nodup_offerNotice _ _ (h p)
  · exact h q

theorem settled_queueNotice (p : Side) (v : QueuedNotice) (s : State) : Settled s (queueNotice p v s) :=
  .of_orderly ⟨fun h => ⟨h.1, nodup_queueNotice h.2⟩, id⟩ rfl rfl rfl rfl rfl

theorem settled_forward (p : Side) (v : Notice) (s : State) : Settled s (forward p v s) := by
  unfold forward
  split
  · exact settled_queueNotice _ _ s
  · exact .refl s

/-- An origination puts one own notice in each queue and sets the refresh timer of a STARTING or ACTIVE node (R71, R74, R76). -/
theorem settled_originate (s : State) : Settled s (originate s) := by
  have hkept := originate_notices_kept s
  refine .of_orderly ⟨fun h => ⟨by simpa using h.1, ?_⟩, fun h => ?_⟩ (by rw [hkept]) (records_originate s)
  · unfold originate
    split
    · exact nodup_queueNotice (nodup_queueNotice h.2)
    · exact h.2
  · by_cases hruns : s.node.state.runs = true
    · rw [stateAllows_iff] at h ⊢
      obtain ⟨hplaced, hallowed, _⟩ := h
      have hposition : (originate s).placed = s.placed := by
        unfold State.placed
        rw [position_congr (s := s) (by simp) (by simp)]
      simp only [hposition, originate_frame]
      exact ⟨hplaced, hallowed, fun hno => absurd (hruns.symm.trans hno) Bool.noConfusion⟩
    · rwa [originate_idle s (.inl (by simpa using hruns))]

theorem convergenceFresh_evaluateConvergence (s : State) : (evaluateConvergence s).convergenceFresh :=
  convergenceFresh_of_evaluated rfl (by simp) (by simp) (records_evaluateConvergence s) (by simp)

theorem nodup_evaluateConvergence {s : State} (h : s.reports.subjects.Nodup) : (evaluateConvergence s).reports.subjects.Nodup := by
  unfold evaluateConvergence
  dsimp only
  split
  · exact h
  · exact nodup_raise _ _ h

theorem orderly_evaluateConvergence (s : State) : Orderly s (evaluateConvergence s) := by
  have hnotices := evaluateConvergence_notices s
  refine ⟨fun h => ⟨nodup_evaluateConvergence h.1, by rw [hnotices]; exact h.2⟩, fun h => ?_⟩
  unfold State.stateAllows State.placed at h ⊢
  rw [hnotices, position_congr (s := s) (by simp) (by simp)]
  simpa using h

/-- The status is settled by its evaluation, whatever was written before (R79). -/
theorem Orderly.evaluated {s t : State} (h : Orderly s t) : Settled s (evaluateConvergence t) :=
  ⟨h.trans (orderly_evaluateConvergence t), fun _ => convergenceFresh_evaluateConvergence t⟩

theorem settled_refreshDigest (s : State) : Settled s (refreshDigest s) := by
  unfold refreshDigest
  dsimp only
  split
  · exact .refl s
  · have hdigest : Orderly s (s.withDigest (digestOf s.table)) := .of_eq
    exact (hdigest.trans (settled_originate _).toOrderly).evaluated

theorem settled_refreshExpiry (s : State) : Settled s (refreshExpiry s) := by
  unfold refreshExpiry
  split
  · refine (settled_originate _).after (.of_orderly ⟨id, fun h => ?_⟩ rfl rfl rfl rfl rfl)
    rw [stateAllows_iff] at h ⊢
    obtain ⟨hplaced, hallowed, _⟩ := h
    exact ⟨hplaced, hallowed, fun _ => rfl⟩
  · exact .refl s

/-- A record written with the ends of its position, and the status evaluated on it (R68, R69). -/
theorem settled_endsRecorded (q : Nat) (r : NoticeRecord) (m : FailureMap) (s : State) : Settled s (endsRecorded q r m s) := by
  have hrecord : Orderly s (s.setRecord q r) := .of_eq (hq := rfl) (hf := rfl)
  exact (hrecord.trans (settled_writeMap m _).toOrderly).evaluated

theorem settled_stalenessExpiry (q : Nat) (s : State) : Settled s (stalenessExpiry q s) := by
  cases h : s.record q with
  | fresh c e =>
    rw [stalenessExpiry_fresh h]
    exact ((settled_reach s e).trans (settled_endsRecorded _ _ _ _)).trans (settled_deliverMapChange _ _)
  | never => unfold stalenessExpiry; rw [h]; exact .refl s
  | stale c => unfold stalenessExpiry; rw [h]; exact .refl s

theorem settled_noticeApplied (p : Side) (v : Notice) (s : State) : Settled s (noticeApplied p v s) := by
  rw [noticeApplied_eq]
  exact (settled_endsRecorded _ _ _ s).trans (settled_forward p v _)

theorem settled_handleNotice (p : Side) (v : Notice) (s : State) : Settled s (handleNotice p v s) := by
  unfold handleNotice
  repeat' split
  · exact .refl s
  · exact settled_forward p v s
  · exact ((settled_bump _ s).trans (settled_raise _ _)).trans (settled_forward p v _)
  · exact (settled_noticeApplied p v s).trans (settled_deliverMapChange _ _)
  · exact settled_forward p v s

theorem settled_takeNotice (s : State) : Settled s (takeNotice s) := by
  unfold takeNotice
  split
  · exact .refl s
  · split
    · exact .refl s
    · rename_i p chosen _ _ cls f _
      have hlatch : Settled s (takeLatch p chosen s) := .of_orderly (.of_eq (hq := rfl) (hf := rfl)) rfl rfl
      cases cls with
      | uncorrectable => exact hlatch
      | unknownKind => exact hlatch
      | clean => exact hlatch.trans (settled_handleNotice p _ _)
      | corrected => exact hlatch.trans (settled_handleNotice p _ _)

/-- A frame sent takes the head notice off its queue (R72). -/
theorem settled_bandFrameTransmit (p : Side) (s : State) : Settled s (bandFrameTransmit p s) := by
  refine .of_orderly ⟨fun h => ⟨by simpa using h.1, fun q => ?_⟩, id⟩ rfl rfl
  show (((s.notices.queues.set p (s.notices.queues.get p).tail).get q).map (fun e => e.notice.position)).Nodup
  rw [Pair.get_set]
  split
  · exact (h.2 p).sublist ((List.tail_sublist _).map _)
  · exact h.2 q

end Sys2Proof.Machine
end

section
/-! PROOF. The same three conditions over what moves the node state and writes the tables: a changed ring map, RESTART, the line ports,
the Slot Switch, SETTINGS, SERVICE and LOAD (O7, O10, O12). -/

namespace Sys2Proof.Machine

/-! ### Node states -/

theorem settled_evaluateConvergence (s : State) : Settled s (evaluateConvergence s) := (Orderly.refl s).evaluated

/-- What follows every move of the node state: the status evaluated, a target derived and the node reported (R79, R129, R146). -/
theorem Orderly.entered {s t : State} (h : Orderly s t) : Settled s (raise .node (deriveTarget (evaluateConvergence t))) :=
  (h.evaluated.trans (settled_deriveTarget _)).trans (settled_raise _ _)

/-- A node state that is set puts no double anywhere. -/
theorem lists_enterStarting {s : State} (h : s.listsUnique) : (enterStarting s).listsUnique :=
  (settled_originate _).toOrderly.entered.lists (s := setNodeState (.starting (s.now + ms s.settings.listen)) s) h

/-- A placed node with its engine IDLE may enter STARTING (R145, R146). -/
theorem stateAllows_enterStarting {s : State} (hp : s.placed = true) (he : s.engine.state = .idle) :
    (enterStarting s).stateAllows := by
  refine (settled_originate _).toOrderly.entered.allows (s := setNodeState (.starting (s.now + ms s.settings.listen)) s) ?_
  rw [stateAllows_iff]
  refine ⟨hp.symm, ?_, fun h => Bool.noConfusion h⟩
  rw [show (setNodeState (.starting (s.now + ms s.settings.listen)) s).engine.state = .idle from he]
  trivial

/-- A node that loses its place enters UNPLACED with its engine IDLE (R145, R150). -/
theorem settled_enterUnplaced {s t : State} (hl : s.listsUnique → t.listsUnique) (hp : t.placed = false)
    (he : t.engine.state = .idle) : Settled s (enterUnplaced t) := by
  refine Orderly.entered ⟨fun h => hl h, fun _ => ?_⟩
  rw [stateAllows_iff]
  refine ⟨hp.symm, ?_, fun _ => rfl⟩
  show t.engine.state.allowedIn .unplaced
  rw [he]
  trivial

theorem settled_engineEntersActive (s : State) : Settled s (engineEntersActive s) := by
  unfold engineEntersActive
  split
  · exact .refl s
  · exact settled_mapChange s

/-- What STARTING allows the engine, ACTIVE allows it too (R86, R148). -/
theorem settled_listenExpiry (s : State) : Settled s (listenExpiry s) := by
  unfold listenExpiry
  split
  · rename_i e hstate
    have hactive : Orderly s (setNodeState .active (s.reach e)) := by
      refine ⟨id, fun h => ?_⟩
      rw [stateAllows_iff, hstate] at h
      rw [stateAllows_iff]
      exact ⟨h.1, EngineState.allowedIn_active _, fun hno => Bool.noConfusion hno⟩
    have hevaluated := (hactive.trans (settled_originate _).toOrderly).evaluated
    exact ((hevaluated.trans (settled_engineEntersActive _)).trans (settled_deriveTarget _)).trans (settled_raise _ _)
  · exact .refl s

/-! ### A changed ring map -/

theorem nodup_nil_queues (p : Side) :
    ((({ east := [], west := [] } : Pair (List QueuedNotice)).get p).map (fun e => e.notice.position)).Nodup := by
  cases p <;> exact List.nodup_nil

/-- The lists after a changed ring map: both queues empty but for the notice of a changed digest (R80; log 12). -/
theorem lists_ringDelivered {s : State} (h : s.listsUnique) : (ringDelivered s).listsUnique := by
  have hcleared : (clearNotices (plansOfRing (countRingChange (endWork s)))).listsUnique :=
    ⟨by simpa using h.1, nodup_nil_queues⟩
  have hrebuilt : (ringRebuilt s).listsUnique := (settled_writeMap _ _).lists hcleared
  rw [ringDelivered_eq]
  split
  · exact hrebuilt
  · exact (settled_originate _).lists hrebuilt

/-- A changed ring map that leaves the node without a place originates nothing (R73). -/
theorem ringDelivered_unplaced {s : State} (hp : s.position = none) : ringDelivered s = ringRebuilt s := by
  obtain ⟨htable, _, hnode, _⟩ := ringRebuilt_spec s
  rw [ringDelivered_eq]
  split
  · rfl
  · exact originate_idle _ (.inr ((position_congr (by rw [hnode]) (by rw [htable])).trans hp))

/-- A node that neither runs nor is placed is DIVERGENT (R79). -/
theorem convergenceOf_stopped {s : State} (h : s.node.state.runs = false) : convergenceOf s = .divergent := by
  unfold convergenceOf
  rw [h]

/-- The three conditions after a changed ring map, which places the node, takes its place away, or leaves it as it was without one
(R3, R79, R145); `u` is the state with the entries written. -/
theorem settled_ringChanged {s u : State} (hs : u.reports = s.reports) (hnotices : u.notices = s.notices) (hn : u.node = s.node) :
    Settled s (nodeAfterRing (ringDelivered u)) := by
  have hlists : s.listsUnique → (ringDelivered u).listsUnique := fun h =>
    lists_ringDelivered (by unfold State.listsUnique at h ⊢; rwa [hs, hnotices])
  obtain ⟨hnode, _⟩ := ringDelivered_spec u
  have hidle : (ringDelivered u).engine.state = .idle := by rw [(ringDelivered_tables u).2.1]
  have hposition : (ringDelivered u).position = u.position :=
    position_congr (by rw [hnode]) (by rw [(ringDelivered_tables u).1])
  unfold nodeAfterRing
  split
  · rename_i hplaced
    exact ⟨⟨fun h => lists_enterStarting (hlists h), fun _ => stateAllows_enterStarting hplaced hidle⟩,
      fun _ => (enterStarting_spec _).2.2.2.2⟩
  · rename_i hplaced
    rw [Bool.not_eq_true] at hplaced
    split
    · exact settled_enterUnplaced hlists hplaced hidle
    · rename_i hruns
      rw [Bool.not_eq_true] at hruns
      have hrebuilt := ringDelivered_unplaced (hposition.symm.trans ((placed_eq_false _).mp hplaced))
      have hkept := (ringRebuilt_spec u).2.1
      rw [← hrebuilt, hnotices] at hkept
      have hruns' : s.node.state.runs = false := by rw [← hn, ← hnode]; exact hruns
      refine ⟨⟨hlists, fun h => ?_⟩, fun h => ?_⟩
      · rw [stateAllows_iff] at h ⊢
        rw [hkept, hidle]
        exact ⟨hruns.trans hplaced.symm, trivial, fun _ => h.2.2 hruns'⟩
      · unfold State.convergenceFresh at h ⊢
        rw [convergenceOf_stopped hruns, hkept, ← convergenceOf_stopped hruns', ← h]

/-- A ring map written with the entries it had. -/
theorem settled_sameRing {ring : Table Byte} {mgmt : Management} {s : State} (h : sameRing s.table.ring ring = true) :
    Settled s { s with table := { s.table with ring := ring }, mgmt := mgmt } := by
  have hring := (sameRing_iff _ _).mp h
  have hposition : ({ s with table := { s.table with ring := ring }, mgmt := mgmt } : State).position = s.position :=
    (ownPositionOf_congr hring s.node.strap).symm
  refine ⟨⟨id, fun hs => ?_⟩, fun hs => ?_⟩
  · unfold State.stateAllows State.placed at hs ⊢
    rw [hposition]
    exact hs
  · unfold State.convergenceFresh convergenceOf at hs ⊢
    rw [hposition]
    unfold State.ringSize at hs ⊢
    dsimp only
    rw [← ringSizeOf_congr hring]
    exact hs

theorem settled_loadRing (bulk : List Byte) (s : State) : Settled s (loadRing bulk s).state := by
  rcases loadRing_cases bulk s with h | ⟨_, ring, mgmt, h⟩ <;> rw [h]
  · exact .refl s
  · cases hsame : sameRing s.table.ring ring with
    | true =>
      rw [evaluateRing_same hsame]
      exact settled_sameRing hsame
    | false =>
      rw [evaluateRing_changed hsame]
      exact settled_ringChanged rfl rfl rfl

/-! ### RESTART -/

theorem settled_restartTables (s : State) : Settled s (restartTables s) := by
  have hengine : Settled s (restartEngine s) := (settled_endWork s).trans (.of_eq rfl rfl rfl rfl rfl rfl)
  have hcircuits : Settled (restartEngine s) (restartCircuits (restartEngine s)) :=
    (settled_raiseAll _ _).after (.of_eq rfl rfl rfl rfl rfl rfl)
  exact (hengine.trans hcircuits).trans (settled_stalePlans _)

/-- RESTART empties the outgoing queues and sets every record NEVER (R82). -/
theorem orderly_restartSignals (s : State) : Orderly s (restartSignals s) := by
  refine Orderly.trans ?_ (settled_writeMap _ _).toOrderly
  exact ⟨fun h => ⟨h.1, nodup_nil_queues⟩, id⟩

/-- A RESTART of a node whose engine is IDLE (R142, R149). -/
theorem Orderly.restarted {s t : State} (h : Orderly s t) (he : t.engine.state = .idle) : Settled s (restartNode t) := by
  refine ⟨⟨fun hs => ?_, fun hs => ?_⟩, fun _ => (restartNode_spec t).2.2.1⟩
  all_goals
    unfold restartNode
    split
  · exact lists_enterStarting (h.lists hs)
  · exact ((settled_evaluateConvergence t).trans (settled_deriveTarget _)).lists (h.lists hs)
  · rename_i hruns
    exact stateAllows_enterStarting ((h.allows hs).1.symm.trans hruns) he
  · exact ((settled_evaluateConvergence t).trans (settled_deriveTarget _)).allows (h.allows hs)

theorem settled_restart (s : State) : Settled s (restart s) := by
  have hidle : (restartSignals (restartTables s)).engine.state = .idle := by
    obtain ⟨_, _, _, _, _, _, _, _, _, _, _, _, hengine, _⟩ := restartSignals_spec (restartTables s)
    rw [hengine, (restartTables_spec s).1]
  have hnode := ((settled_restartTables s).toOrderly.trans (orderly_restartSignals _)).restarted hidle
  rw [restart_eq]
  split
  · exact (hnode.trans (settled_originate _)).trans (settled_raise _ _)
  · exact hnode.trans (settled_raise _ _)

/-! ### Line ports -/

theorem settled_viewsDelivered (side : Side) (views : Quad View) (s : State) : Settled s (viewsDelivered side views s) := by
  cases hp : s.position with
  | none =>
    rw [viewsDelivered_unplaced hp]
    exact .of_eq rfl rfl rfl rfl rfl rfl
  | some own =>
    rw [viewsDelivered_placed hp]
    exact ((settled_writeMap _ s).trans (settled_originate _)).trans (settled_deliverMapChange _ _)

theorem settled_setSupervisor (p : Side) (b : Nat) (v : Supervisor) (s : State) : Settled s (setSupervisor p b v s) := by
  have hband : Settled s (s.setBand p b { s.band p b with supervisor := v }) := .of_eq
  by_cases h : v.view = (s.band p b).supervisor.view
  · rw [setSupervisor_unmoved h]
    exact hband
  · rw [setSupervisor_moved h]
    exact (hband.trans (settled_raise _ _)).trans (settled_viewsDelivered _ _ _)

theorem settled_of_viewsStay {p : Side} {s t : State} (h : ViewsStay p s t) : Settled s t := by
  rw [h.rest]
  exact .of_eq rfl rfl rfl rfl rfl rfl

theorem settled_bandFrame (p : Side) (b : Fin 4) (f : BandFrame) (s : State) : Settled s (bandFrame p b f s) := by
  rw [bandFrame_eq p b.isLt]
  exact (((settled_of_viewsStay (viewsStay_receiveBand p b f s)).trans (settled_setSupervisor p b _ _)).trans
    (settled_of_viewsStay (.of_overheard (overheard_portOverhead p b f _)))).trans (settled_setSupervisor p b _ _)

theorem settled_holdOffExpiry (p : Side) (b : Nat) (s : State) : Settled s (holdOffExpiry p b s) := by
  unfold holdOffExpiry
  dsimp only
  split
  · exact .refl s
  · exact (settled_reach s _).trans (settled_setSupervisor _ _ _ _)

theorem settled_returnTimerExpiry (p : Side) (b : Nat) (s : State) : Settled s (returnTimerExpiry p b s) := by
  unfold returnTimerExpiry
  dsimp only
  split
  · exact .refl s
  · exact (settled_reach s _).trans (settled_setSupervisor _ _ _ _)

theorem settled_clearAllDegrade (s : State) : Settled s (clearAllDegrade s) := by
  unfold clearAllDegrade
  generalize allBandsOfPorts = l
  induction l generalizing s with
  | nil => exact .refl s
  | cons e l ih =>
    refine Settled.trans ?_ (ih _)
    unfold clearDegrade
    dsimp only
    split
    · exact settled_setSupervisor _ _ _ s
    · exact .refl s

/-! ### The Slot Switch -/

/-- Tag checks that are counted, swung and opened touch the circuit records and the pending list alone (R134, R136 to R139). -/
theorem settled_frameBoundary (s : State) : Settled s (frameBoundary s) := by
  have hcounted : Settled s (countFrames s) := (settled_raiseAll _ _).after (.of_eq rfl rfl rfl rfl rfl rfl)
  have hswung : Settled (countFrames s) (swing (countFrames s)) := by
    unfold swing
    split
    · exact .refl _
    · exact .of_eq rfl rfl rfl rfl rfl rfl
  exact (hcounted.trans hswung).trans (.of_eq rfl rfl rfl rfl rfl rfl)

theorem settled_tagStateChange (c : Nat) (s : State) : Settled s (tagStateChange c s) := by
  unfold tagStateChange
  split
  · dsimp only
    split
    · exact .refl s
    · exact (settled_raise _ _).after (.of_eq rfl rfl rfl rfl rfl rfl)
  · exact .refl s

/-! ### OPERATOR and SETTINGS -/

theorem settled_setRequest (own : Nat) (side : Side) (r : OperatorRequest) (s : State) : Settled s (setRequest own side r s) := by
  unfold setRequest
  dsimp only
  refine Settled.trans ?_ (settled_deliverMapChange _ _)
  split
  · exact settled_writeMap _ s
  · exact (settled_writeMap _ s).trans (settled_originate _)

theorem settled_doOperator (side value : Nat) (s : State) : Settled s (doOperator side value s).state := by
  unfold doOperator
  split
  · exact .refl s
  · split
    · exact .refl s
    · exact settled_setRequest _ _ _ s

theorem settled_orientationChanged (s : State) : Settled s (orientationChanged s) := by
  unfold orientationChanged
  dsimp only
  have hwritten := settled_writeMap (storeOwnEnds s (clearRequests s.map)) s
  split
  · exact hwritten.trans (settled_deliverMapChange _ _)
  · refine Settled.trans ?_ (settled_deliverMapChange _ _)
    split
    · exact hwritten
    · exact hwritten.trans (settled_originate _)

theorem settled_storeSettings (g : Settings) (s : State) : Settled s (storeSettings g s) := by
  have horientation : Settled (s.withSettings g) (deliverOrientation s.settings (s.withSettings g)) := by
    unfold deliverOrientation
    split
    · exact .refl _
    · exact (settled_orientationChanged _).trans (settled_deriveTarget _)
  have hdegrade : ∀ u, Settled u (deliverActOnDegrade s.settings u) := fun u => by
    unfold deliverActOnDegrade
    split
    · exact .refl u
    · exact ((settled_refreshDigest u).trans (settled_writeMap _ _)).trans (settled_deliverMapChange _ _)
  have hthreshold : ∀ u, Settled u (deliverThreshold u) := fun u => by
    unfold deliverThreshold
    split
    · exact settled_clearAllDegrade u
    · exact .refl u
  rw [storeSettings_eq]
  have hstored : Settled s (s.withSettings g) := .of_eq
  exact ((hstored.trans horientation).trans (hdegrade _)).trans (hthreshold _)

/-! ### LOAD -/

theorem settled_loadSettings (bulk : List Byte) (s : State) : Settled s (loadSettings bulk s).state := by
  rcases loadSettings_cases bulk s with h | ⟨image, h, _⟩ <;> rw [h]
  · exact .refl s
  · have hcursor : Settled s (advanceCursor s) := .of_eq
    exact hcursor.trans (settled_storeSettings _ _)

theorem settled_loadCircuits (bulk : List Byte) (s : State) : Settled s (loadCircuits bulk s).state := by
  have htable := (loadCircuits_table bulk s).1
  exact .of_eq (hr := by rw [htable]) (hd := by rw [htable])

theorem settled_doLoad (bulk : List Byte) (s : State) : Settled s (doLoad bulk s).state := by
  rcases doLoad_cases bulk s with h | h | h | h <;> rw [h]
  · exact .refl s
  · exact settled_loadSettings bulk s
  · exact settled_loadRing bulk s
  · exact settled_loadCircuits bulk s

/-! ### SERVICE -/

/-- A change of the in-service set: the status is evaluated with the digest (R18, R19, R23). -/
theorem settled_deliverService (c : Nat) (s : State) : Settled s (deliverService c s) :=
  ((((settled_stalePlans s).trans (settled_deriveTarget _)).trans (settled_generationChange _)).trans (settled_raise _ _)).trans
    (settled_refreshDigest _)

theorem settled_service (a : ServiceAction) (c : Nat) (s : State) : Settled s (service a c s).1 := by
  cases a with
  | in_ =>
    rcases serviceIn_cases c s with h | ⟨f, att, _, h⟩
    · rw [show (service .in_ c s).1 = s from h]
      exact .refl s
    · rw [show (service .in_ c s).1 = bringIn c f att s from h]
      exact (settled_deliverService c _).after (.of_eq rfl rfl rfl rfl rfl rfl)
  | out =>
    rcases serviceOut_cases c s with h | ⟨f, att, _, _, _, h⟩
    · rw [show (service .out c s).1 = s from h]
      exact .refl s
    · rw [show (service .out c s).1 = takeOut c f att s from h]
      exact (settled_deliverService c _).after (.of_eq rfl rfl rfl rfl rfl rfl)

end Sys2Proof.Machine
end

section
/-! PROOF. Chains of directives walked once, for every relation that their parts keep (R160 to R162, R167 to R169, R172). -/

namespace Sys2Proof.Machine

/-- A relation between the states before and after that the parts of a chain keep: work on the Management Unit, the snapshot, the
counters and the time, a RESTART, a SERVICE directive taken with the lock FREE, a LOAD and an OPERATOR directive. -/
structure ChainClosed (R : State → State → Prop) : Prop where
  refl : ∀ s, R s s
  trans : ∀ {s t u}, R s t → R t u → R s u
  channel : ∀ {s t : State}, t = { s with
    now := t.now, mgmt := t.mgmt, counters := t.counters
    reports := { s.reports with snapshot := t.reports.snapshot } } → R s t
  restart : ∀ s, R s (restart s)
  service : ∀ (a : ServiceAction) (c : Nat) {s : State}, s.lockHeld = false → R s (service a c s).1
  load : ∀ (bulk : List Byte) (s : State), R s (doLoad bulk s).state
  operator : ∀ (side value : Nat) (s : State), R s (doOperator side value s).state

namespace ChainClosed

variable {R : State → State → Prop} (hR : ChainClosed R)
include hR

theorem sendReply (c : Chain) (s : State) : R s (sendReply c s) := by
  refine hR.channel ?_
  unfold Machine.sendReply
  cases c.requester with
  | none => rfl
  | some r =>
    dsimp only
    rw [(channelOnly_sendFrame _).rest s]

/-- A chain's end delivers the restart that is due (R162, R172). -/
theorem endChain (c : Chain) (s : State) : R s (endChain c s) := by
  unfold Machine.endChain
  dsimp only
  split
  · exact hR.trans (hR.trans (hR.sendReply c s) (hR.channel rfl)) (hR.restart _)
  · exact hR.trans (hR.sendReply c s) (hR.channel rfl)

theorem answer (c : Chain) (more : Bool) (code : ResultCode) (count : Nat) (s : State) : R s (answer c more code count s) := by
  unfold Machine.answer
  split
  · exact hR.endChain _ s
  · exact hR.channel rfl

theorem takeService (c : Chain) (more : Bool) (a : ServiceAction) (n : Nat) (s : State) : R s (takeService c more a n s) := by
  unfold Machine.takeService
  split
  · exact hR.channel rfl
  · rename_i h
    exact hR.trans (hR.service a n (by simpa using h)) (hR.answer _ _ _ _ _)

theorem doSelect (table index : Nat) (s : State) : R s (doSelect table index s).state := by
  unfold Machine.doSelect
  repeat' split
  · exact hR.refl s
  · exact hR.channel rfl
  · exact hR.refl s

theorem doCapture (flag : Nat) (s : State) : R s (doCapture flag s).state := by
  unfold Machine.doCapture
  split
  · exact hR.refl s
  · exact hR.channel rfl

theorem takeDirective (c : Chain) (more : Bool) (d : Directive) (s : State) : R s (takeDirective c more d s) := by
  have answered : ∀ {c : Chain} {code : ResultCode} {count : Nat} {u : State}, R s u → R s (Machine.answer c more code count u) :=
    fun hu => hR.trans hu (hR.answer _ _ _ _ _)
  have refused : ∀ {code : ResultCode} {count : Nat}, R s (Machine.answer c more code count s) := answered (hR.refl s)
  cases d with
  | select table index => exact answered (hR.doSelect table index s)
  | load bulk => exact answered (hR.load bulk s)
  | read count =>
    unfold Machine.takeDirective
    dsimp only
    split
    · exact refused
    · exact hR.channel rfl
  | service circuit action =>
    unfold Machine.takeDirective
    dsimp only
    split
    · exact refused
    · split
      · exact refused
      · exact hR.takeService _ _ _ _ s
  | operator side value => exact answered (hR.operator side value s)
  | capture flag => exact answered (hR.doCapture flag s)
  | restart => exact answered (hR.refl s)

theorem readRecord (c : Chain) (r : Reading) (s : State) : R s (readRecord c r s) := by
  unfold Machine.readRecord
  dsimp only
  repeat' split
  · exact hR.answer _ _ _ _ s
  · exact hR.answer _ _ _ _ s
  · exact hR.channel rfl
  · exact hR.answer _ _ _ _ s

theorem chainStep (c : Chain) (s : State) : R s (chainStep c s) := by
  unfold Machine.chainStep
  repeat' split
  · exact hR.readRecord _ _ s
  · exact hR.answer _ _ _ _ s
  · exact hR.takeDirective _ _ _ s
  · exact hR.endChain c s

theorem runChain (n : Nat) (s : State) : R s (runChain n s) := by
  induction n generalizing s with
  | zero => exact hR.refl s
  | succ n ih =>
    unfold Machine.runChain
    split
    · exact hR.trans (hR.chainStep _ s) (ih _)
    · exact hR.refl s

theorem runPaused (pause : Option Nat) (s : State) : R s (runPaused pause s) := by
  unfold Machine.runPaused
  split
  · exact hR.runChain _ s
  · exact hR.refl s

theorem startRequest (s : State) : R s (startRequest s) := by
  unfold Machine.startRequest
  split
  · exact hR.refl s
  · exact hR.channel rfl

theorem executeRequest (pause : Option Nat) (s : State) : R s (executeRequest pause s) := by
  unfold Machine.executeRequest
  repeat' split
  · exact hR.refl s
  · exact hR.trans (hR.startRequest s) (hR.runPaused pause _)
  · exact hR.runPaused pause s
  · exact hR.refl s

theorem directive (d : Directive) (s : State) : R s (directive d s) := by
  have taken : ∀ c more, R s (Machine.runPaused none (Machine.takeDirective c more d s)) := fun c more =>
    hR.trans (hR.takeDirective c more d s) (hR.runPaused none _)
  unfold Machine.directive
  split
  · exact hR.refl s
  · split
    · exact taken _ _
    · split
      · split
        · dsimp only
          split
          · exact taken _ _
          · exact hR.takeDirective _ _ _ s
        · exact hR.refl s
      · exact hR.refl s
    · exact hR.refl s

theorem holdTimerExpiry (s : State) : R s (holdTimerExpiry s) := by
  unfold Machine.holdTimerExpiry
  split
  · exact hR.trans (hR.channel rfl) (hR.answer _ _ _ _ (s.reach _))
  · exact hR.refl s

theorem heldServiceRelease (s : State) : R s (heldServiceRelease s) := by
  unfold Machine.heldServiceRelease
  repeat' split
  · exact hR.refl s
  · exact hR.takeService _ _ _ _ s
  · exact hR.refl s

end ChainClosed

end Sys2Proof.Machine
end

section
/-! PROOF. Every step keeps the lists free of doubles (O7), the convergence status fresh (O10), and placement, node state, engine and
refresh timer in agreement (O12). -/

namespace Sys2Proof.Machine

theorem chainClosed_settled : ChainClosed Settled where
  refl := .refl
  trans := .trans
  channel h := by rw [h]; exact .of_eq rfl rfl rfl rfl rfl rfl
  restart := settled_restart
  service a c _ _ := settled_service a c _
  load := settled_doLoad
  operator := settled_doOperator

/-- What a command other than POWER_RESET does to the three conditions. -/
theorem settled_exec {c : Instr} {s t : State} (hreset : ∀ strap, c ≠ .powerReset strap) (h : exec c s = .next t) :
    Settled s t := by
  have kept : ∀ {u}, Settled s u → exec c s = .next u → Settled s t := fun hu e => by
    rw [e] at h; cases h; exact hu
  have directed : ∀ d, exec c s = .next (directive d s) → Settled s t := fun d => kept (chainClosed_settled.directive d s)
  have frameWhen : ∀ (q : Prop) [Decidable q] p (b : Fin 4) f, Settled s (if q then bandFrame p b f s else s) := by
    intro q _ p b f
    split
    · exact settled_bandFrame p b f s
    · exact .refl s
  cases c with
  | powerReset strap => exact absurd rfl (hreset strap)
  | bandFrame p b f => exact kept (settled_bandFrame p b f s) rfl
  | bandEntryIntoLost p b => exact kept (frameWhen _ p b noSignal) rfl
  | bandEntryIntoAligned p b f => exact kept (frameWhen _ p b f) rfl
  | degradeIntervalEnd p b f => exact kept (frameWhen _ p b f) rfl
  | holdOffExpiry p b => exact kept (settled_holdOffExpiry p b s) rfl
  | returnTimerExpiry p b => exact kept (settled_returnTimerExpiry p b s) rfl
  | bandFrameTransmit p => exact kept (settled_bandFrameTransmit p s) rfl
  | tributaryFrame n f => exact kept .of_eq rfl
  | tributaryAlignmentChange n f => exact kept .of_eq rfl
  | tributaryFrameTransmit n => exact kept .of_eq rfl
  | switchFrameBoundary => exact kept (settled_frameBoundary s) rfl
  | tagCheckStateChange n => exact kept (settled_tagStateChange n s) rfl
  | noticeTaken => exact kept (settled_takeNotice s) rfl
  | stalenessExpiry q => exact kept (settled_stalenessExpiry q s) rfl
  | refreshTimerExpiry => exact kept (settled_refreshExpiry s) rfl
  | gatherExpiry => exact kept (settled_gatherExpiry s) rfl
  | passCompletion => exact kept (settled_passCompletion s) rfl
  | buildStart => exact kept (settled_buildStart s) rfl
  | buildEnd => exact kept (settled_buildEnd s) rfl
  | listenExpiry => exact kept (settled_listenExpiry s) rfl
  | managementFrameFromLine p bytes => exact kept .of_eq rfl
  | managementFrameFromTributary bytes => exact kept .of_eq rfl
  | executeRequest pause => exact kept (chainClosed_settled.executeRequest pause s) rfl
  | select table index => exact directed _ rfl
  | load bulk => exact directed _ rfl
  | read count => exact directed _ rfl
  | serviceIn n => exact directed _ rfl
  | serviceOut n => exact directed _ rfl
  | holdTimerExpiry => exact kept (chainClosed_settled.holdTimerExpiry s) rfl
  | heldServiceRelease => exact kept (chainClosed_settled.heldServiceRelease s) rfl
  | operator side value => exact directed _ rfl
  | capture flag => exact directed _ rfl
  | restart => exact directed _ rfl
  | reportEmission => exact kept (settled_reportEmission s) rfl

/-- A step does what the command at the front of the queue does, and none of the three conditions reads the queue; right after a power
reset all three hold. -/
theorem settled_step {s t : State} (h : step s = .next t) : Settled s t := by
  unfold step at h
  split at h
  · cases h
    exact .refl s
  · rename_i c rest _
    have hrest : Settled s { s with pending := rest } := .of_eq rfl rfl rfl rfl rfl rfl
    by_cases hreset : ∃ strap, c = .powerReset strap
    · obtain ⟨strap, rfl⟩ := hreset
      cases h
      obtain ⟨_, _, hlists, _, _, hfresh, _, _, _, _, hallows, _⟩ := powerResetMeetsTheInvariants.2 strap
      exact ⟨⟨fun _ => hlists, fun _ => hallows⟩, fun _ => hfresh⟩
    · exact hrest.trans (settled_exec (fun strap he => hreset ⟨strap, he⟩) h)

/-- Settles O7: a raise and an offered notice put no double into their list, and what else writes one takes entries off it. -/
theorem stepsKeepListsUnique : Obligations.StepsKeepListsUnique := fun _ _ hs h => (settled_step h).lists hs

/-- Settles O10: whatever changes what R79's test reads evaluates the status after it; a changed ring map of a node that neither runs
nor is placed leaves it DIVERGENT. -/
theorem stepsKeepConvergenceFresh : Obligations.StepsKeepConvergenceFresh := fun _ _ hs h => (settled_step h).fresh hs

/-- Settles O12: the engine enters a gather and a pass in ACTIVE alone and a build in STARTING and ACTIVE, and a changed ring map ends
its work before the node state follows the placement. -/
theorem stepsKeepEngineWithinNodeState : Obligations.StepsKeepEngineWithinNodeState := fun _ _ hs h => (settled_step h).allows hs

end Sys2Proof.Machine
end

section
/-! PROOF. Notices that are dropped (O31), notices that are forwarded and not applied (O32), and the notice of a refresh expiry (O35)
(R62 to R65, R67, R70, R71, R74, R76). -/

namespace Sys2Proof.Machine

/-! ### Taking from a latch -/

/-- The notice taken is that of the latch which holds one, or of two of the one R62 chooses. -/
theorem takeNotice_held {s : State} {p : Side} {cls : NoticeClass} {f : NoticeField} (hlatch : (s.port p).latch = .held cls f)
    (hchoice : (s.port p.other).latch = .empty ∨ p = if s.notices.firstChoice = true then .east else s.notices.lastTaken.other) :
    takeNotice s = handleField p cls f (takeLatch p (!decide ((s.port p.other).latch = .empty)) s) := by
  unfold takeNotice
  rw [chooseLatch_eq hlatch hchoice]
  dsimp only
  rw [hlatch]

/-- The latch emptied and the marks of the taking, as a record (R30, R62). -/
theorem takeLatch_eq (p : Side) (chosen : Bool) (s : State) : takeLatch p (!chosen) s = { s with
    ports := s.ports.set p { s.port p with latch := .empty }
    notices := { s.notices with lastTaken := p, firstChoice := s.notices.firstChoice && chosen } } := by
  unfold takeLatch
  rw [Bool.not_not]
  rfl

/-! ### Dropped notices -/

theorem handleNotice_own {p : Side} {v : Notice} {s : State} (h : s.ownId = some v.id) : handleNotice p v s = s := by
  unfold handleNotice
  exact if_pos (by simp [ownOrigin, h])

/-- Settles O31: the three kinds of notice at which `handleField` leaves the state after the taking. -/
theorem droppedNoticesChangeNothing : Obligations.DroppedNoticesChangeNothing := by
  intro s p cls f hlatch hchoice hdropped
  refine congrArg Host.Outcome.next ?_
  rw [takeNotice_held hlatch hchoice, ← takeLatch_eq]
  have hown : ∀ b, (takeLatch p b s).ownId = s.ownId := fun _ => rfl
  cases cls with
  | uncorrectable => rfl
  | unknownKind => rfl
  | clean => exact handleNotice_own (by simpa [hown] using hdropped)
  | corrected => exact handleNotice_own (by simpa [hown] using hdropped)

/-! ### Notices forwarded only -/

theorem foreign_iff (s : State) (v : Notice) :
    foreign s v = true ↔ s.ringSize ≤ v.position ∨ look 0 s.table.ring v.position ≠ v.id := by
  simp [foreign]

/-- The state with a notice counted when it is foreign to a running node (R65). -/
def foreignCounted (p : Side) (v : Notice) (s : State) : State :=
  if s.node.state.runs = true ∧ foreign s v = true then countForeign p s else s

/-- A notice that is not the node's own is counted when it is foreign and forwarded, and no more, in a node that does not run, when it is
foreign, and when its record does not accept it (R63, R65, R67, R70). -/
theorem handleNotice_unapplied {p : Side} {v : Notice} {s : State} (hown : s.ownId ≠ some v.id)
    (h : s.node.state.runs = false ∨ foreign s v = true ∨ (s.record v.position).accepts v.sequence = false) :
    handleNotice p v s = forward p v (foreignCounted p v s) := by
  unfold handleNotice foreignCounted
  rw [if_neg (by simpa [ownOrigin] using hown)]
  by_cases hruns : s.node.state.runs = true
  · by_cases hforeign : foreign s v = true
    · rw [if_neg (by simp [hruns]), if_pos hforeign, if_pos ⟨hruns, hforeign⟩]
    · have hno : (s.record v.position).accepts v.sequence = false := by simpa [hruns, hforeign] using h
      rw [if_neg (by simp [hruns]), if_neg hforeign, if_neg (by simp [hno]), if_neg (fun hboth => hforeign hboth.2)]
  · rw [if_pos (by simpa using hruns), if_neg (fun hboth => hruns hboth.1)]

/-- A sequence outside the window of a FRESH record is not accepted (R67). -/
theorem accepts_eq_false {r : NoticeRecord} {q : Byte} {c : NoticeContents} {e : Nat} (hr : r = .fresh c e)
    (h : q = c.sequence ∨ 128 ≤ (q - c.sequence).toNat) : r.accepts q = false := by
  rw [← Bool.not_eq_true, accepts_iff]
  intro hacc
  obtain ⟨hlow, hhigh⟩ := hacc c e hr
  rcases h with rfl | h
  · simp at hlow
  · omega

/-- What counting a foreign notice does: the port's counter moves on and its report is raised, and nothing else changes (R65). -/
theorem foreignCounted_spec (p : Side) (v : Notice) (s : State) :
    let t := foreignCounted p v s
    t = { s with counters := t.counters, reports := t.reports } ∧
      (s.node.state.runs = true → foreign s v = true →
        t.counter (ctrForeign p) = saturate (s.counter (ctrForeign p)) ∧ reported (.port p) t) ∧
      (∀ n, n ≠ ctrForeign p → t.counter n = s.counter n) ∧
      (t.reports = s.reports ∨ t.reports = { s.reports with subjects := s.reports.subjects ++ [.port p] }) ∧
      (s.node.state.runs = false ∨ foreign s v = false → t.counters = s.counters ∧ t.reports = s.reports) := by
  have hcounter : ∀ n, (countForeign p s).counter n = (bump (ctrForeign p) s).counter n := fun n => by
    unfold State.counter countForeign
    simp
  unfold foreignCounted
  split
  · rename_i h
    refine ⟨?_, fun _ _ => ⟨?_, reported_raise _ _⟩, fun n hn => ?_, ?_, fun hno => ?_⟩
    · unfold countForeign raise
      split <;> rfl
    · rw [hcounter, counter_bump, if_pos rfl]
    · rw [hcounter, counter_bump, if_neg hn]
    · exact (raise_reports (.port p) (bump (ctrForeign p) s)).imp id (fun h => h.2.2)
    · rcases hno with hno | hno
      · exact absurd (h.1.symm.trans hno) Bool.noConfusion
      · exact absurd (h.2.symm.trans hno) Bool.noConfusion
  · rename_i h
    exact ⟨rfl, fun hruns hforeign => absurd ⟨hruns, hforeign⟩ h, fun _ _ => rfl, .inl rfl, fun _ => ⟨rfl, rfl⟩⟩

/-- Settles O32: `handleNotice_unapplied` after the taking, with the count of `foreignCounted_spec` and the queue of
`offerNotice_placed`. -/
theorem unappliedNoticesAreForwarded : Obligations.UnappliedNoticesAreForwarded := by
  intro s p cls f hlatch hchoice hcls hunique v runs isForeign q w hown hunapplied
  refine ⟨takeNotice s, rfl, ?_⟩
  have hfield : ∀ u, handleField p cls f u = handleNotice p v u := fun u => by
    rcases hcls with rfl | rfl <;> rfl
  have hunapplied' : s.node.state.runs = false ∨ foreign s v = true ∨ (s.record v.position).accepts v.sequence = false :=
    hunapplied.imp id (Or.imp (foreign_iff s v).mpr (fun ⟨_, _, hrecord, hwindow⟩ => accepts_eq_false hrecord hwindow))
  have hforeign : ¬isForeign → foreign s v = false := fun h => by rwa [← Bool.not_eq_true, foreign_iff]
  have htaken := handleNotice_unapplied (p := p) (s := takeLatch p (!decide ((s.port p.other).latch = .empty)) s) hown hunapplied'
  rw [takeNotice_held hlatch hchoice, hfield, htaken, forward_eq]
  obtain ⟨hrest, hcounted, hother, hreports, hquiet⟩ :=
    foreignCounted_spec p v (takeLatch p (!decide ((s.port p.other).latch = .empty)) s)
  generalize foreignCounted p v (takeLatch p (!decide ((s.port p.other).latch = .empty)) s) = c at *
  rw [takeLatch_eq] at hrest
  have hnotices := congrArg State.notices hrest
  have hports := congrArg State.ports hrest
  dsimp only at hnotices hports
  refine ⟨?_, ?_, fun h => ?_, fun h => ?_, fun hruns h => hcounted hruns ((foreign_iff s v).mpr h), hother, hreports,
    fun h => hquiet (h.imp id hforeign), ?_⟩
  · show (c.ports.get p).latch = .empty
    rw [hports, Pair.get_set_same]
  · dsimp only
    rw [hnotices]
    split
    · rw [Pair.get_set, if_neg (Side.other_ne p).symm]
    · rfl
  · dsimp only
    rw [if_neg (by omega), hnotices]
  · dsimp only
    rw [if_pos h, Pair.get_set_same, hnotices]
    exact offerNotice_placed rfl (hunique.2 p.other)
  · rw [hrest]

/-! ### Refresh expiry -/

/-- The state that a refresh expiry has reached, with the timer run out and no notice originated yet (R76). -/
def State.refreshDue (s : State) (e : Nat) : State := { s.reach e with notices := { s.notices with refresh := none } }

/-- Settles O35: an origination in the state that the expiry has reached. -/
theorem refreshExpiryOriginatesANotice : Obligations.RefreshExpiryOriginatesANotice := by
  intro s e own hrefresh hruns hp
  have hexpired : refreshExpiry s = originate (s.refreshDue e) := by
    unfold refreshExpiry
    rw [hrefresh]
    rfl
  have hnotices := originate_notices (s.refreshDue e) hruns hp
  refine ⟨refreshExpiry s, rfl, ?_⟩
  rw [hexpired]
  refine ⟨originate_originated (s.refreshDue e) hruns, ?_⟩
  rw [originate_eq, hnotices, ms_eq]
  rfl

end Sys2Proof.Machine
end

section
/-! PROOF. The check code of a notice field and the notice it carries (O24; R61, R72, R185). -/

namespace Sys2Proof.Machine

/-! ### Parities -/

/-- There are 120 code values, one for each data bit (R185). -/
theorem codeValues_length : codeValues.length = 120 := by rfl

/-- The data parities read bits 0 to 119 (R185). -/
theorem dataParity_congr {f g : NoticeField} (h : ∀ i, i < 120 → f.getLsbD i = g.getLsbD i) (j : Nat) :
    dataParity f j = dataParity g j := by
  unfold dataParity
  refine List.foldl_ext _ _ _ (fun acc e he => ?_)
  have hlt : e.2 < 120 := by
    have := List.snd_lt_of_mem_zipIdx he
    rwa [codeValues_length, Nat.add_zero] at this
  rw [h _ hlt]

theorem parityBelow_succ (f : NoticeField) (n : Nat) : parityBelow f (n + 1) = (parityBelow f n ^^ f.getLsbD n) := by
  unfold parityBelow
  rw [List.range_succ, List.foldl_append]
  rfl

/-- The parity below a bit reads the bits below it. -/
theorem parityBelow_congr {f g : NoticeField} {n : Nat} (h : ∀ i, i < n → f.getLsbD i = g.getLsbD i) :
    parityBelow f n = parityBelow g n := by
  induction n with
  | zero => rfl
  | succ n ih => rw [parityBelow_succ, parityBelow_succ, ih (fun i hi => h i (by omega)), h n (Nat.lt_succ_self n)]

/-! ### Check bits that are set -/

/-- A bit of a field that is set when a condition holds. -/
theorem getLsbD_set {f : NoticeField} {n : Nat} (hn : n < 128) (c : Bool) (i : Nat) :
    (if c = true then f ||| (1#128 <<< n) else f).getLsbD i = (f.getLsbD i || (decide (i = n) && c)) := by
  cases c with
  | false => simp
  | true =>
    by_cases h : i = n
    · subst h; simp [hn]
    · simp [h]; omega

/-- A field with its first `n` check bits set to the parities of its data (R185). -/
def withParities (f : NoticeField) (n : Nat) : NoticeField :=
  (List.range n).foldl (fun acc j => if dataParity f j then acc ||| (1#128 <<< (120 + j)) else acc) f

theorem withParities_succ (f : NoticeField) (n : Nat) : withParities f (n + 1) =
    if dataParity f n = true then withParities f n ||| (1#128 <<< (120 + n)) else withParities f n := by
  unfold withParities
  rw [List.range_succ, List.foldl_append]
  rfl

theorem getLsbD_withParities (f : NoticeField) {n : Nat} (hn : n ≤ 8) (i : Nat) :
    (withParities f n).getLsbD i = (f.getLsbD i || (decide (120 ≤ i ∧ i < 120 + n) && dataParity f (i - 120))) := by
  induction n with
  | zero => simp [withParities]
  | succ n ih =>
    rw [withParities_succ, getLsbD_set (by omega), ih (by omega), Bool.or_assoc]
    congr 1
    by_cases hi : i = 120 + n
    · subst hi; simp
    · have hrange : (120 ≤ i ∧ i < 120 + (n + 1)) ↔ (120 ≤ i ∧ i < 120 + n) := by omega
      simp [hi, hrange]

/-- Setting the check bits sets c0 to c6 to the data's parities and c7 to the parity of the bits below it (R185). -/
theorem withCheck_eq (f : NoticeField) : withCheck f =
    if parityBelow (withParities f 7) 127 = true then withParities f 7 ||| (1#128 <<< 127) else withParities f 7 := rfl

theorem getLsbD_withCheck_below (f : NoticeField) {i : Nat} (hi : i < 127) :
    (withCheck f).getLsbD i = (withParities f 7).getLsbD i := by
  rw [withCheck_eq, getLsbD_set (by omega)]
  simp [hi.ne]

/-- The check code leaves the data bits (R185). -/
theorem getLsbD_withCheck_data (f : NoticeField) {i : Nat} (hi : i < 120) : (withCheck f).getLsbD i = f.getLsbD i := by
  rw [getLsbD_withCheck_below f (by omega), getLsbD_withParities f (by omega)]
  simp [hi]

section
variable {f : NoticeField} (hf : ∀ i, 120 ≤ i → f.getLsbD i = false)
include hf

/-- Check bit cj of a field whose byte 15 was zero is the parity of its data (R185). -/
theorem getLsbD_withCheck_check {j : Nat} (hj : j < 7) : (withCheck f).getLsbD (120 + j) = dataParity (withCheck f) j := by
  rw [dataParity_congr (fun i hi => getLsbD_withCheck_data f hi), getLsbD_withCheck_below f (by omega),
    getLsbD_withParities f (by omega), hf _ (by omega)]
  simp [show 120 + j < 127 by omega]

/-- A field with its check code set is of even parity (R185). -/
theorem parityBelow_withCheck : parityBelow (withCheck f) 128 = false := by
  rw [parityBelow_succ, parityBelow_congr (fun i hi => getLsbD_withCheck_below f hi), withCheck_eq, getLsbD_set (by omega),
    getLsbD_withParities f (by omega), hf _ (by omega)]
  simp

end

/-- A field whose check bits are the parities of its data has syndrome 0 (R185). -/
theorem syndrome_eq_zero {f : NoticeField} (h : ∀ j, j < 7 → f.getLsbD (120 + j) = dataParity f j) : syndrome f = 0 := by
  unfold syndrome
  rw [List.foldl_ext _ (fun acc _ => acc) 0 (fun acc j hj => by rw [h j (List.mem_range.mp hj)]; simp)]
  exact List.foldl_fixed _

/-- A field is sent with a check code that finds it CLEAN (R185). -/
theorem checkField_withCheck {f : NoticeField} (hf : ∀ i, 120 ≤ i → f.getLsbD i = false) :
    checkField (withCheck f) = (.clean, withCheck f) := by
  unfold checkField
  dsimp only
  rw [parityBelow_withCheck hf, syndrome_eq_zero (fun j => getLsbD_withCheck_check hf)]
  rfl

/-! ### Bytes -/

theorem fieldByte_withCheck (f : NoticeField) {i : Nat} (hi : i < 15) : fieldByte (withCheck f) i = fieldByte f i := by
  refine BitVec.eq_of_getLsbD_eq (fun k hk => ?_)
  unfold fieldByte
  rw [BitVec.getLsbD_extractLsb', BitVec.getLsbD_extractLsb', getLsbD_withCheck_data f (by omega)]

/-- Bytes one after the other, the first one lowest, as one number. -/
def bytesValue (l : List Nat) : Nat := l.foldr (fun b acc => b % 256 + 256 * acc) 0

theorem fieldOfBytes_eq (l : List Nat) : fieldOfBytes l = BitVec.ofNat 128 (bytesValue l) := rfl

theorem bytesValue_lt (l : List Nat) : bytesValue l < 2 ^ (8 * l.length) := by
  induction l with
  | nil => simp [bytesValue]
  | cons b l ih =>
    show b % 256 + 256 * bytesValue l < _
    rw [List.length_cons, Nat.mul_succ, pow_add]
    omega

/-- The byte at an index of the number, 0 past its end. -/
theorem bytesValue_byte (l : List Nat) (i : Nat) : bytesValue l / 2 ^ (8 * i) % 256 = l.getD i 0 % 256 := by
  induction l generalizing i with
  | nil => simp [bytesValue]
  | cons b l ih =>
    have hvalue : bytesValue (b :: l) = b % 256 + 256 * bytesValue l := rfl
    cases i with
    | zero => rw [hvalue, List.getD_cons_zero]; omega
    | succ i =>
      rw [List.getD_cons_succ, ← ih, show 8 * (i + 1) = 8 + 8 * i by omega, pow_add, ← Nat.div_div_eq_div_mul, hvalue]
      congr 2
      omega

/-- The bytes of a field made of at most 16 bytes. -/
theorem fieldByte_fieldOfBytes {l : List Nat} (hl : l.length ≤ 16) (i : Nat) :
    fieldByte (fieldOfBytes l) i = BitVec.ofNat 8 (l.getD i 0) := by
  have hlt : bytesValue l < 2 ^ 128 := (bytesValue_lt l).trans_le (Nat.pow_le_pow_right (by omega) (by omega))
  refine BitVec.eq_of_toNat_eq ?_
  unfold fieldByte
  rw [fieldOfBytes_eq, BitVec.extractLsb'_toNat, BitVec.toNat_ofNat, BitVec.toNat_ofNat, Nat.mod_eq_of_lt hlt, Nat.shiftRight_eq_div_pow]
  exact bytesValue_byte l i

theorem getLsbD_fieldOfBytes {l : List Nat} {n : Nat} (hl : 8 * l.length ≤ n) : (fieldOfBytes l).getLsbD n = false := by
  rw [fieldOfBytes_eq, BitVec.getLsbD_ofNat,
    Nat.testBit_lt_two_pow ((bytesValue_lt l).trans_le (Nat.pow_le_pow_right (by omega) hl)), Bool.and_false]

/-! ### Codes -/

theorem viewOf_code (v : View) : viewOf v.code = v := by cases v <;> rfl

theorem View.code_lt (v : View) : v.code < 4 := by cases v <;> decide

theorem requestOf_code (r : OperatorRequest) : requestOf r.code = r := by cases r <;> rfl

theorem OperatorRequest.code_lt (r : OperatorRequest) : r.code < 3 := by cases r <;> decide

theorem viewsCode_lt (v : Quad View) : viewsCode v < 256 := by
  have h0 := v.b0.code_lt; have h1 := v.b1.code_lt; have h2 := v.b2.code_lt; have h3 := v.b3.code_lt
  unfold viewsCode
  omega

/-- Four views are read back from their byte. -/
theorem viewsOf_viewsCode (v : Quad View) : viewsOf (viewsCode v) = v := by
  have h0 := v.b0.code_lt; have h1 := v.b1.code_lt; have h2 := v.b2.code_lt; have h3 := v.b3.code_lt
  have hband : ∀ {n : Nat} (x : View), n = x.code → viewOf n = x := fun x h => h ▸ viewOf_code x
  unfold viewsOf viewsCode
  rw [hband v.b0 (by omega), hband v.b1 (by omega), hband v.b2 (by omega), hband v.b3 (by omega)]

/-- Byte 5 of a notice: STARTING and the two requests. -/
def Notice.flagsCode (v : Notice) : Nat := v.starting.toNat + 2 * v.lowRequest.code + 8 * v.highRequest.code

theorem Notice.flagsCode_lt (v : Notice) : v.flagsCode < 32 := by
  have hs := v.starting.toNat_lt; have hl := v.lowRequest.code_lt; have hh := v.highRequest.code_lt
  unfold flagsCode
  omega

/-- STARTING and the two requests are read back from their byte. -/
theorem Notice.flagsCode_read (v : Notice) : v.flagsCode.testBit 0 = v.starting ∧
    requestOf (v.flagsCode / 2 % 4) = v.lowRequest ∧ requestOf (v.flagsCode / 8 % 4) = v.highRequest := by
  have hs := v.starting.toNat_lt; have hl := v.lowRequest.code_lt; have hh := v.highRequest.code_lt
  have hlow : v.flagsCode / 2 % 4 = v.lowRequest.code := by unfold flagsCode; omega
  have hhigh : v.flagsCode / 8 % 4 = v.highRequest.code := by unfold flagsCode; omega
  have hbit : v.flagsCode % 2 = v.starting.toNat := by unfold flagsCode; omega
  refine ⟨?_, by rw [hlow, requestOf_code], by rw [hhigh, requestOf_code]⟩
  rw [Nat.testBit_zero, hbit]
  cases v.starting <;> rfl

/-! ### The notice field -/

/-- The ten bytes of a notice (12_formats.md, "The notice field"). -/
def Notice.bytes (v : Notice) : List Nat :=
  [1, v.position, v.id.toNat, v.sequence.toNat, v.hops, v.flagsCode, viewsCode v.lowViews, viewsCode v.highViews,
    v.digest.toNat / 256, v.digest.toNat % 256]

theorem fieldOf_eq (v : Notice) : fieldOf v = withCheck (fieldOfBytes v.bytes) := rfl

theorem fieldByte_fieldOf (v : Notice) {i : Nat} (hi : i < 15) : fieldByte (fieldOf v) i = BitVec.ofNat 8 (v.bytes.getD i 0) := by
  rw [fieldOf_eq, fieldByte_withCheck _ hi, fieldByte_fieldOfBytes (show v.bytes.length ≤ 16 from (by decide : 10 ≤ 16))]

/-- A byte of the field as a number, for a value that fits it. -/
theorem toNat_fieldByte_fieldOf (v : Notice) {i n : Nat} (hi : i < 15) (hv : v.bytes.getD i 0 = n) (hn : n < 256) :
    (fieldByte (fieldOf v) i).toNat = n := by
  rw [fieldByte_fieldOf v hi, hv, BitVec.toNat_ofNat, Nat.mod_eq_of_lt hn]

theorem checkField_fieldOf (v : Notice) : checkField (fieldOf v) = (.clean, fieldOf v) :=
  checkField_withCheck (fun _ hi => getLsbD_fieldOfBytes (show 80 ≤ _ by omega))

/-- A notice with a position of one byte and hops of 1 to 31 is read back from its field (R61). -/
theorem noticeOf_fieldOf {v : Notice} (hp : v.position < 256) (hlow : 1 ≤ v.hops) (hhigh : v.hops ≤ 31) :
    noticeOf (fieldOf v) = v := by
  have hposition : (fieldByte (fieldOf v) 1).toNat = v.position := toNat_fieldByte_fieldOf v (by omega) rfl hp
  have hid : fieldByte (fieldOf v) 2 = v.id := BitVec.eq_of_toNat_eq (toNat_fieldByte_fieldOf v (by omega) rfl v.id.isLt)
  have hsequence : fieldByte (fieldOf v) 3 = v.sequence :=
    BitVec.eq_of_toNat_eq (toNat_fieldByte_fieldOf v (by omega) rfl v.sequence.isLt)
  have hhops : (fieldByte (fieldOf v) 4).toNat = v.hops := toNat_fieldByte_fieldOf v (by omega) rfl (by omega)
  have hflags : (fieldByte (fieldOf v) 5).toNat = v.flagsCode :=
    toNat_fieldByte_fieldOf v (by omega) rfl (v.flagsCode_lt.trans (by omega))
  have hlowViews : (fieldByte (fieldOf v) 6).toNat = viewsCode v.lowViews :=
    toNat_fieldByte_fieldOf v (by omega) rfl (viewsCode_lt _)
  have hhighViews : (fieldByte (fieldOf v) 7).toNat = viewsCode v.highViews :=
    toNat_fieldByte_fieldOf v (by omega) rfl (viewsCode_lt _)
  have hdigest := v.digest.isLt
  have hupper : (fieldByte (fieldOf v) 8).toNat = v.digest.toNat / 256 := toNat_fieldByte_fieldOf v (by omega) rfl (by omega)
  have hlower : (fieldByte (fieldOf v) 9).toNat = v.digest.toNat % 256 := toNat_fieldByte_fieldOf v (by omega) rfl (by omega)
  obtain ⟨hstarting, hlowRequest, hhighRequest⟩ := v.flagsCode_read
  have hread : readHops v.hops = v.hops := by
    unfold readHops
    rw [if_neg (by omega), if_neg (by omega)]
  unfold noticeOf
  dsimp only
  rw [hposition, hid, hsequence, hhops, hflags, hlowViews, hhighViews, hupper, hlower, hread, hstarting, hlowRequest, hhighRequest,
    viewsOf_viewsCode, viewsOf_viewsCode, Nat.div_add_mod', BitVec.ofNat_toNat, BitVec.setWidth_eq]

/-- Settles O24: the check code finds the field CLEAN (`checkField_fieldOf`), and every byte of it holds what was put in
(`fieldByte_fieldOf`). -/
theorem noticeFieldRoundTrip : Obligations.NoticeFieldRoundTrip := by
  intro v hp hlow hhigh
  refine ⟨checkField_fieldOf v, fieldByte_fieldOf v (by omega), ?_, fun i hi hi' => ?_, noticeOf_fieldOf hp hlow hhigh⟩
  · rw [toNat_fieldByte_fieldOf v (by omega) rfl (v.flagsCode_lt.trans (by omega))]
    exact v.flagsCode_lt
  · rw [fieldByte_fieldOf v (by omega), List.getD_eq_default _ _ (show v.bytes.length ≤ i from hi)]
    rfl

end Sys2Proof.Machine
end

section
/-! PROOF. What keeps a pass on current inputs: the operations that leave what a snapshot reads, and those that start the pass afresh or
find no pass in progress (R90 to R92, R94). -/

namespace Sys2Proof.Machine

/-! ### What a snapshot reads -/

/-- The Failure Map holds an entry for each span of the ring, in order, and no other (R43). -/
def State.spansKeyed (s : State) : Prop :=
  s.map.spans.map Prod.fst = List.range (spansOfRing s.table.ring s.node.strap)

theorem spansKeyed_of_mapDerived {s : State} (h : s.mapDerived) : s.spansKeyed := by
  unfold State.spansKeyed
  unfold State.mapDerived at h
  rw [h, deriveSpans, List.map_map]
  exact List.map_id _

theorem look_of_mem {α : Type} (d : α) {t : Table α} (h : (t.map Prod.fst).Nodup) {e : Nat × α} (he : e ∈ t) :
    look d t e.1 = e.2 := by
  induction t with
  | nil => cases he
  | cons x rest ih =>
    rw [List.map_cons, List.nodup_cons] at h
    obtain ⟨hx, hrest⟩ := h
    rw [look_cons]
    rcases List.mem_cons.mp he with rfl | hm
    · exact if_pos rfl
    · rw [if_neg (fun heq : x.1 = e.1 => hx (heq ▸ List.mem_map_of_mem hm)), ih hrest hm]

theorem spansOfRing_le (ring : Table Byte) (strap : Byte) : spansOfRing ring strap ≤ 32 := by
  unfold spansOfRing
  split
  · exact Nat.zero_le _
  · exact ringSizeOf_le ring

/-- What a map holds of its spans, entry by entry, is what its spans read as. -/
theorem map_spans_of_keyed {β : Type} {s : State} (h : s.spansKeyed) (f : SpanEntry → β) :
    s.map.spans.map (fun e => (e.1, f e.2)) =
      (List.range (spansOfRing s.table.ring s.node.strap)).map (fun k => (k, f (look .outside s.map.spans k))) := by
  unfold State.spansKeyed at h
  rw [← h, List.map_map]
  refine List.map_congr_left (fun e he => ?_)
  have hnodup : (s.map.spans.map Prod.fst).Nodup := h ▸ List.nodup_range
  exact Prod.ext rfl (congrArg f (look_of_mem .outside hnodup he).symm)

/-- Two maps with the same sets have the same bands of every span in them (R56). -/
theorem bands_of_sets_eq {m v : FailureMap} (h : v.sets = m.sets) {k : Nat} (hk : k < 32) :
    v.bandsInW k = m.bandsInW k ∧ v.bandsInX k = m.bandsInX k :=
  Prod.mk.inj (List.map_inj_left.mp h k (List.mem_range.mpr hk))

/-- What a snapshot reads: the sets W and X of the spans of the ring, the ring map, the circuits in service, the occupancy and the
grants (R90). -/
theorem takeSnapshot_congr {s t : State} (hs : s.spansKeyed) (ht : t.spansKeyed) (hsets : t.map.sets = s.map.sets)
    (hstrap : t.node.strap = s.node.strap) (hr : t.table.ring = s.table.ring)
    (hc : inServiceOf t.table.circuits = inServiceOf s.table.circuits) (ho : t.table.occupancy = s.table.occupancy)
    (hg : t.engine.grants = s.engine.grants) : takeSnapshot t = takeSnapshot s := by
  have hbands : ∀ f : SpanEntry → Quad Bool,
      (∀ k, k < 32 → f (look .outside t.map.spans k) = f (look .outside s.map.spans k)) →
      t.map.spans.map (fun e => (e.1, f e.2)) = s.map.spans.map (fun e => (e.1, f e.2)) := fun f hf => by
    rw [map_spans_of_keyed ht, map_spans_of_keyed hs, hstrap, hr]
    refine List.map_congr_left (fun k hk => Prod.ext rfl (hf k ?_))
    exact (List.mem_range.mp hk).trans_le (spansOfRing_le _ _)
  unfold takeSnapshot inServiceFields State.ringSize
  rw [hbands SpanEntry.bandsInW (fun k hk => (bands_of_sets_eq hsets hk).1),
    hbands SpanEntry.bandsInX (fun k hk => (bands_of_sets_eq hsets hk).2), hr, hc, ho, hg]

/-! ### A pass that computes on current inputs -/

/-- The engine states that occur in ACTIVE alone (R86). -/
def EngineState.activeOnly : EngineState → Bool
  | .gather _ => true
  | .pass _ => true
  | _ => false

/-- A gather or a pass in progress is one of an ACTIVE node, and a pass computes on current inputs (R86, R90), over a map with an
entry for each span of the ring and a circuit table in canonical form. -/
structure State.PassSound (s : State) : Prop where
  active : s.engine.state.activeOnly = true → s.node.state = .active
  keyed : s.spansKeyed
  wf : tableWf .absent s.table.circuits = true
  current : s.passCurrent

namespace State.PassSound

/-- A pass in progress is one of an ACTIVE node. -/
theorem active_of_pass {s : State} (h : s.PassSound) {i : PassInputs} (hi : s.engine.state = .pass i) : s.node.state = .active :=
  h.active (by rw [hi]; rfl)

/-- What leaves the spans, the node, the engine and, of the tables, the ring map, the in-service set and the occupancy. -/
theorem of_frame {s t : State} (h : s.PassSound) (hr : t.table.ring = s.table.ring)
    (hc : inServiceOf t.table.circuits = inServiceOf s.table.circuits) (ho : t.table.occupancy = s.table.occupancy)
    (hwf : tableWf .absent t.table.circuits = true) (hm : t.map.spans = s.map.spans := by simp)
    (hn : t.node = s.node := by simp) (he : t.engine = s.engine := by simp) : t.PassSound := by
  have hkeyed : t.spansKeyed := by
    unfold State.spansKeyed
    rw [hm, hr, hn]
    exact h.keyed
  have hsets : t.map.sets = s.map.sets := by
    unfold FailureMap.sets FailureMap.bandsInW FailureMap.bandsInX
    rw [hm]
  refine ⟨by rw [he, hn]; exact h.active, hkeyed, hwf, fun i hi => ?_⟩
  rw [takeSnapshot_congr h.keyed hkeyed hsets (by rw [hn]) hr hc ho (by rw [he])]
  exact h.current i (he ▸ hi)

theorem of_undisturbed {s t : State} (h : s.PassSound) (hu : Undisturbed s t) (hm : t.map.spans = s.map.spans := by simp)
    (hn : t.node = s.node := by simp) (he : t.engine = s.engine := by simp) : t.PassSound :=
  h.of_frame hu.ring hu.service (by rw [hu.table]) (hu.wf h.wf) hm hn he

/-- What leaves the spans, the node, the engine and the circuit table as they were. -/
theorem of_eq {s t : State} (h : s.PassSound) (ht : t.table = s.table := by simp) (hm : t.map.spans = s.map.spans := by simp)
    (hn : t.node = s.node := by simp) (he : t.engine = s.engine := by simp) : t.PassSound :=
  h.of_frame (by rw [ht]) (by rw [ht]) (by rw [ht]) (by rw [ht]; exact h.wf) hm hn he

/-- An engine left in IDLE or BUILD computes no pass. -/
theorem of_stopped {t : State} (hstop : t.engine.state.activeOnly = false) (hkeyed : t.spansKeyed)
    (hwf : tableWf .absent t.table.circuits = true) : t.PassSound := by
  refine ⟨fun h => absurd (hstop.symm.trans h) Bool.noConfusion, hkeyed, hwf, fun i hi => ?_⟩
  rw [hi] at hstop
  cases hstop

end State.PassSound

theorem spansKeyed_congr {s t : State} (hm : t.map.spans = s.map.spans) (hn : t.node.strap = s.node.strap)
    (hr : t.table.ring = s.table.ring) (h : s.spansKeyed) : t.spansKeyed := by
  unfold State.spansKeyed
  rw [hm, hn, hr]
  exact h

/-! ### The engine's answer -/

/-- The answer to a map change takes the engine into a gather or a pass in ACTIVE alone, and a pass then starts afresh (R85, R86,
R92). -/
theorem engine_of_answersMapChange {s t : State} {sw : SlotSwitch} (h : answersMapChange s t sw) :
    (t.node.state = .active ∨ t.engine.state.activeOnly = false ∨ t.engine = s.engine) ∧
      (t.node.state = .active → ∀ i, t.engine.state = .pass i → i = takeSnapshot t) := by
  unfold answersMapChange at h
  split at h
  · rename_i hactive hgather
    refine ⟨.inl hactive, fun _ i hi => ?_⟩
    rw [h.1, hgather] at hi
    cases hi
  · rename_i hactive _
    refine ⟨.inl hactive, fun _ i hi => ?_⟩
    rw [h.1] at hi
    cases hi
    rfl
  · rename_i hactive _ _
    obtain ⟨_, _, happlied, hgather⟩ := h
    refine ⟨.inl hactive, fun _ i hi => ?_⟩
    by_cases hnamed : ∃ k l o, fastPathNames s t k l o
    · obtain ⟨k, l, o, hk⟩ := hnamed
      rw [(happlied k l o hk).1] at hi
      cases hi
    · rw [(hgather (fun k l o hk => hnamed ⟨k, l, o, hk⟩)).1] at hi
      cases hi
  · rw [h.1]
    exact ⟨.inr (.inl rfl), fun _ i hi => EngineState.noConfusion hi⟩
  · rename_i hpassive _ _ _
    exact ⟨.inr (.inr h.1), fun hactive => absurd hactive hpassive⟩

/-- An answered map change: a pass in progress starts afresh (R92). -/
theorem passSound_of_answersMapChange {s t : State} {sw : SlotSwitch} (h : s.PassSound) (ha : answersMapChange s t sw)
    (hkeyed : t.spansKeyed) (hwf : tableWf .absent t.table.circuits = true) (hn : t.node = s.node) : t.PassSound := by
  obtain ⟨hwhere, hafresh⟩ := engine_of_answersMapChange ha
  have hactive : t.engine.state.activeOnly = true → t.node.state = .active := fun hworks => by
    rcases hwhere with hactive | hstopped | hsame
    · exact hactive
    · exact absurd (hstopped.symm.trans hworks) Bool.noConfusion
    · rw [hn]
      exact h.active (hsame ▸ hworks)
  exact ⟨hactive, hkeyed, hwf, fun i hi => hafresh (hactive (by rw [hi]; rfl)) i hi⟩

theorem passSound_mapChange {s : State} (h : s.PassSound) : (mapChange s).PassSound :=
  passSound_of_answersMapChange h (mapChange_answers s)
    (spansKeyed_congr (by simp) (by simp) (undisturbed_mapChange s).ring h.keyed) ((undisturbed_mapChange s).wf h.wf) (by simp)

/-- An answered write of the map: a pass whose inputs it changes starts afresh, and a pass whose inputs stay goes on (R56, R92). -/
theorem passSound_of_engineAnswers {s t : State} (h : s.PassSound) (ha : engineAnswers s t) (hu : Undisturbed s t)
    (hkeyed : t.spansKeyed) (hn : t.node = s.node) : t.PassSound := by
  by_cases hsets : t.map.sets = s.map.sets
  · obtain ⟨hengine, _⟩ := ha.1 hsets
    refine ⟨by rw [hengine, hn]; exact h.active, hkeyed, hu.wf h.wf, fun i hi => ?_⟩
    rw [takeSnapshot_congr h.keyed hkeyed hsets (by rw [hn]) hu.ring hu.service (by rw [hu.table]) (by rw [hengine])]
    exact h.current i (hengine ▸ hi)
  · exact passSound_of_answersMapChange h (ha.2 hsets) hkeyed (hu.wf h.wf) hn

/-- A written map that is delivered. -/
theorem passSound_of_mapWritten {m : FailureMap} {s u : State} (h : s.PassSound) (hw : MapWritten m s u) :
    (deliverMapChange s.map u).PassSound :=
  passSound_of_engineAnswers h hw.delivered.answered
    ((undisturbed_deliverMapChange _ _).after (.of_eq hw.table hw.plans hw.engine))
    (spansKeyed_of_mapDerived hw.delivered.derived) hw.delivered.node

end Sys2Proof.Machine
end

section
/-! PROOF. The operations of the part keep a pass on current inputs: the engine's own, the Failure Map and the Notice Unit, the line
ports, the Slot Switch, the node state, RESTART and the directives (R90 to R92, R94). -/

namespace Sys2Proof.Machine

/-! ### The Restoration Engine and the Plan Store -/

theorem passSound_startGather {s : State} (hactive : s.node.state = .active) (h : s.PassSound) : (startGather s).PassSound :=
  ⟨fun _ => hactive, h.keyed, h.wf, fun _ hi => EngineState.noConfusion hi⟩

theorem passSound_restartPass {s : State} (hactive : s.node.state = .active) (h : s.PassSound) : (restartPass s).PassSound :=
  ⟨fun _ => hactive, h.keyed, h.wf, fun _ hi => (EngineState.pass.inj hi).symm⟩

theorem passSound_abandonBuild {s : State} (h : s.PassSound) : (abandonBuild s).PassSound := by
  unfold abandonBuild
  split
  · exact .of_stopped rfl h.keyed h.wf
  · exact h

/-- A generation change starts a gather or a pass in ACTIVE alone, and a pass on inputs as they stand (R87, R92). -/
theorem passSound_generationChange {s : State} (h : s.PassSound) : (generationChange s).PassSound := by
  unfold generationChange
  split
  · rename_i hactive
    split
    · split
      · exact h
      · exact passSound_startGather hactive h
    · split
      · exact h
      · exact passSound_startGather (by simpa using hactive) (passSound_abandonBuild h)
    · exact h
    · exact passSound_restartPass hactive h
  · exact h

/-- A pass starts in a gather's ACTIVE node on inputs as they stand (R88, R90). -/
theorem passSound_gatherExpiry {s : State} (h : s.PassSound) : (gatherExpiry s).PassSound := by
  unfold gatherExpiry
  split
  · rename_i hgather
    refine ⟨fun _ => h.active (by rw [hgather]; rfl), h.keyed, h.wf, fun i hi => ?_⟩
    cases hi
    rfl
  · exact h

/-- A pass that is completed leaves the engine in IDLE (R93). -/
theorem passSound_passCompletion {s : State} (h : s.PassSound) : (passCompletion s).PassSound := by
  have hu := undisturbed_passCompletion s
  have hkeyed : (passCompletion s).spansKeyed := spansKeyed_congr (by simp) (by simp) hu.ring h.keyed
  cases hstate : s.engine.state with
  | pass i => exact .of_stopped (by unfold passCompletion; rw [hstate]; rfl) hkeyed (hu.wf h.wf)
  | _ => unfold passCompletion; rw [hstate]; exact h

theorem passSound_buildStart {s : State} (h : s.PassSound) : (buildStart s).PassSound := by
  unfold buildStart
  split
  · exact .of_stopped rfl h.keyed h.wf
  · exact h

theorem passSound_buildEnd {s : State} (h : s.PassSound) : (buildEnd s).PassSound := by
  unfold buildEnd
  split
  · rename_i k i _
    have hbuilt : (setEngine .idle (s.setPlan k (builtPlan s.table.generation (computePass i) (s.plan k)))).PassSound :=
      .of_stopped rfl h.keyed h.wf
    dsimp only
    split
    · exact hbuilt.of_eq (raise_frame _ _).2.2.2.2.2.2.2.1 (by simp) (by simp) (by simp)
    · exact hbuilt
  · exact h

/-! ### Notices -/

theorem passSound_stalenessExpiry (q : Nat) {s : State} (h : s.PassSound) : (stalenessExpiry q s).PassSound := by
  cases hrec : s.record q with
  | fresh c e =>
    rw [stalenessExpiry_fresh hrec]
    exact passSound_of_mapWritten h (MapWritten.before (s := s) (endsRecorded_written _ _ _ (s.reach e)) rfl)
  | never => unfold stalenessExpiry; rw [hrec]; exact h
  | stale c => unfold stalenessExpiry; rw [hrec]; exact h

theorem passSound_handleNotice (p : Side) (v : Notice) {s : State} (h : s.PassSound) : (handleNotice p v s).PassSound := by
  unfold handleNotice
  repeat' split
  · exact h
  · exact h.of_eq
  · exact h.of_eq
  · exact passSound_of_mapWritten h (noticeApplied_written p v s)
  · exact h.of_eq

theorem passSound_takeNotice {s : State} (h : s.PassSound) : (takeNotice s).PassSound := by
  unfold takeNotice
  split
  · exact h
  · split
    · exact h
    · rename_i p chosen _ _ cls f _
      have hlatch : (takeLatch p chosen s).PassSound := h.of_eq
      cases cls with
      | uncorrectable => exact hlatch
      | unknownKind => exact hlatch
      | clean => exact passSound_handleNotice p _ hlatch
      | corrected => exact passSound_handleNotice p _ hlatch

/-! ### Line ports -/

theorem passSound_viewsDelivered (side : Side) (views : Quad View) {s : State} (h : s.PassSound) :
    (viewsDelivered side views s).PassSound := by
  cases hp : s.position with
  | none =>
    rw [viewsDelivered_unplaced hp]
    exact h.of_eq rfl rfl rfl rfl
  | some own =>
    rw [viewsDelivered_placed hp]
    have hwritten := MapWritten.of_writeMap (storeCopy s.ringSize own s.settings.orientation (s.map.withViews side views) side) s
    have hnoticed : viewsNoticed side views own s = originate (writeMap _ s) := rfl
    rw [hnoticed]
    exact passSound_of_mapWritten h (hwritten.after (.of_eq (by simp)) (by rw [originate_eq]))

theorem passSound_setSupervisor (p : Side) (b : Nat) (v : Supervisor) {s : State} (h : s.PassSound) :
    (setSupervisor p b v s).PassSound := by
  by_cases hview : v.view = (s.band p b).supervisor.view
  · rw [setSupervisor_unmoved hview]
    exact h.of_eq
  · rw [setSupervisor_moved hview]
    refine passSound_viewsDelivered _ _ (h.of_eq ?_ ?_ ?_ ?_)
    all_goals rw [viewRaised_eq]

theorem passSound_of_viewsStay {p : Side} {s t : State} (h : s.PassSound) (hstay : ViewsStay p s t) : t.PassSound := by
  rw [hstay.rest]
  exact h.of_eq rfl rfl rfl rfl

theorem passSound_bandFrame (p : Side) (b : Fin 4) (f : BandFrame) {s : State} (h : s.PassSound) : (bandFrame p b f s).PassSound := by
  rw [bandFrame_eq p b.isLt]
  have hreceived := passSound_of_viewsStay h (viewsStay_receiveBand p b f s)
  have hbefore : (s.beforeOverhead p b f).PassSound := passSound_setSupervisor p b _ hreceived
  exact passSound_setSupervisor p b _ (passSound_of_viewsStay hbefore (.of_overheard (overheard_portOverhead p b f _)))

theorem passSound_holdOffExpiry (p : Side) (b : Nat) {s : State} (h : s.PassSound) : (holdOffExpiry p b s).PassSound := by
  unfold holdOffExpiry
  dsimp only
  split
  · exact h
  · exact passSound_setSupervisor _ _ _ (h.of_eq rfl rfl rfl rfl)

theorem passSound_returnTimerExpiry (p : Side) (b : Nat) {s : State} (h : s.PassSound) : (returnTimerExpiry p b s).PassSound := by
  unfold returnTimerExpiry
  dsimp only
  split
  · exact h
  · exact passSound_setSupervisor _ _ _ (h.of_eq rfl rfl rfl rfl)

theorem passSound_deliverThreshold {s : State} (h : s.PassSound) : (deliverThreshold s).PassSound := by
  have hfold : ∀ (l : List (Side × Nat)) (u : State), u.PassSound → (l.foldl clearDegrade u).PassSound := by
    intro l
    induction l with
    | nil => exact fun _ hu => hu
    | cons e l ih =>
      intro u hu
      refine ih _ ?_
      unfold clearDegrade
      dsimp only
      split
      · exact passSound_setSupervisor _ _ _ hu
      · exact hu
  unfold deliverThreshold
  split
  · exact hfold _ s h
  · exact h

/-! ### The Slot Switch -/

theorem passSound_tagStateChange (c : Nat) {s : State} (h : s.PassSound) : (tagStateChange c s).PassSound := by
  obtain ⟨htable, hkept⟩ := tagStateChange_table c s
  obtain ⟨hwf, hservice⟩ := hkept h.wf
  exact h.of_frame (by rw [htable]) hservice (by rw [htable]) hwf

/-! ### The node state -/

/-- The state in which a STARTING node that enters ACTIVE asks its engine: a notice is originated and convergence evaluated, the time
brought up to the expiry (R148; log 2). -/
def State.enteredActive (s : State) (e : Nat) : State :=
  evaluateConvergence (originate (setNodeState .active (s.reach e)))

theorem listenExpiry_starting {s : State} {e : Nat} (h : s.node.state = .starting e) :
    listenExpiry s = raise .node (deriveTarget (engineEntersActive (s.enteredActive e))) := by
  unfold listenExpiry
  rw [h]
  rfl

/-- An entry into ACTIVE moves the time and the node state, and else the Notice Unit and the reports alone. -/
theorem enteredActive_eq (s : State) (e : Nat) : s.enteredActive e =
    { s with
      now := max s.now e, node := { s.node with state := .active }
      notices := (s.enteredActive e).notices, reports := (s.enteredActive e).reports } := by
  have horiginated := originate_eq (setNodeState .active (s.reach e))
  unfold State.enteredActive
  generalize originate (setNodeState .active (s.reach e)) = u at horiginated ⊢
  refine (evaluateConvergence_eq u).trans ?_
  generalize (evaluateConvergence u).notices = notices
  generalize (evaluateConvergence u).reports = reports
  rw [horiginated]
  rfl

/-- A STARTING node has no pass to go on with when it enters ACTIVE (R86, R95). -/
theorem passSound_listenExpiry {s : State} (h : s.PassSound) : (listenExpiry s).PassSound := by
  cases hstate : s.node.state with
  | starting e =>
    rw [listenExpiry_starting hstate]
    have hentered : (s.enteredActive e).PassSound := by
      refine .of_stopped ?_ (spansKeyed_congr (s := s) ?_ ?_ ?_ h.keyed) ?_
      · rw [enteredActive_eq, ← Bool.not_eq_true]
        exact fun hworks => NodeState.noConfusion (hstate.symm.trans (h.active hworks))
      all_goals rw [enteredActive_eq]
      exact h.wf
    have hanswered : (engineEntersActive (s.enteredActive e)).PassSound := by
      unfold engineEntersActive
      split
      · exact hentered
      · exact passSound_mapChange hentered
    exact hanswered.of_eq
  | _ => unfold listenExpiry; rw [hstate]; exact h

/-! ### LOAD and RESTART -/

theorem passSound_loadRing (bulk : List Byte) {s : State} (h : s.PassSound) : (loadRing bulk s).state.PassSound := by
  rcases loadRing_cases bulk s with hl | ⟨_, ring, mgmt, hl⟩ <;> rw [hl]
  · exact h
  · cases hsame : sameRing s.table.ring ring with
    | true =>
      rw [evaluateRing_same hsame]
      have hring := (sameRing_iff _ _).mp hsame
      refine ⟨h.active, ?_, h.wf, fun i hi => ?_⟩
      · have hkeyed := h.keyed
        unfold State.spansKeyed spansOfRing at hkeyed ⊢
        rw [ownPositionOf_congr hring, ringSizeOf_congr hring] at hkeyed
        exact hkeyed
      · rw [h.current i hi]
        unfold takeSnapshot State.ringSize
        rw [ringSizeOf_congr hring]
    | false =>
      rw [evaluateRing_changed hsame]
      obtain ⟨htable, hengine, _⟩ := nodeAfterRing_tables { s with table := { s.table with ring := ring }, mgmt := mgmt }
      obtain ⟨_, _, hderived, _⟩ := ringChanged_spec { s with table := { s.table with ring := ring }, mgmt := mgmt }
      refine .of_stopped (by rw [hengine]; rfl) (spansKeyed_of_mapDerived hderived) ?_
      rw [htable]
      exact h.wf

theorem passSound_deliverOrientation (g : Settings) {s : State} (h : s.PassSound) :
    (deliverOrientation s.settings (s.withSettings g)).PassSound := by
  have hstored : (s.withSettings g).PassSound := h.of_frame rfl rfl rfl h.wf rfl rfl rfl
  by_cases ho : (s.withSettings g).settings.orientation = s.settings.orientation
  · rw [deliverOrientation, if_pos ho]
    exact hstored
  · rw [deliverOrientation_turned ho]
    obtain ⟨hderived, _, _, _, hanswers, _⟩ := orientationChanged_spec (s.withSettings g)
    have hturned := passSound_of_engineAnswers hstored hanswers (undisturbed_orientationChanged _)
      (spansKeyed_of_mapDerived hderived) (by simp)
    exact hturned.of_eq

theorem passSound_refreshDigest {s : State} (h : s.PassSound) : (refreshDigest s).PassSound := by
  have htable := refreshDigest_table s
  exact h.of_frame (by rw [htable]) (by rw [htable]) (by rw [htable]) (by rw [htable]; exact h.wf)

theorem passSound_deliverActOnDegrade (before : Settings) {s : State} (h : s.PassSound) :
    (deliverActOnDegrade before s).PassSound := by
  unfold deliverActOnDegrade
  split
  · exact h
  · exact passSound_of_mapWritten (passSound_refreshDigest h) (.of_writeMap _ _)

theorem passSound_loadSettings (bulk : List Byte) {s : State} (h : s.PassSound) : (loadSettings bulk s).state.PassSound := by
  rcases loadSettings_cases bulk s with hl | ⟨image, hl, _⟩ <;> rw [hl]
  · exact h
  · rw [storeSettings_eq]
    have hcursor : (advanceCursor s).PassSound := h.of_eq
    exact passSound_deliverThreshold (passSound_deliverActOnDegrade _ (passSound_deliverOrientation _ hcursor))

theorem passSound_loadCircuits (bulk : List Byte) {s : State} (h : s.PassSound) : (loadCircuits bulk s).state.PassSound := by
  obtain ⟨htable, hkept⟩ := loadCircuits_table bulk s
  obtain ⟨hwf, hservice⟩ := hkept h.wf
  exact h.of_frame (by rw [htable]) hservice (by rw [htable]) hwf

theorem passSound_doLoad (bulk : List Byte) {s : State} (h : s.PassSound) : (doLoad bulk s).state.PassSound := by
  rcases doLoad_cases bulk s with hl | hl | hl | hl <;> rw [hl]
  · exact h
  · exact passSound_loadSettings bulk h
  · exact passSound_loadRing bulk h
  · exact passSound_loadCircuits bulk h

/-- RESTART ends the work in hand (R94, R110). -/
theorem passSound_restart {s : State} (h : s.PassSound) : (restart s).PassSound := by
  obtain ⟨_, _, hderived, _⟩ := restart_map s
  obtain ⟨⟨_, hengine, _⟩, _⟩ := restart_kept s
  refine .of_stopped ?_ (spansKeyed_of_mapDerived hderived) ((undisturbed_restart s).wf h.wf)
  rw [hengine, (restartTables_spec s).1]
  rfl

/-! ### OPERATOR and SERVICE -/

theorem passSound_doOperator (side value : Nat) {s : State} (h : s.PassSound) : (doOperator side value s).state.PassSound := by
  unfold doOperator
  split
  · exact h
  · split
    · exact h
    · have hd := setRequest_delivered
      exact passSound_of_engineAnswers h (hd _ _ _ s).answered (undisturbed_setRequest _ _ _ s)
        (spansKeyed_of_mapDerived (hd _ _ _ s).derived) (hd _ _ _ s).node

/-- What a change of the in-service set delivers (R18, R19). -/
theorem passSound_deliverService (c : Nat) {s : State} (h : s.PassSound) : (deliverService c s).PassSound := by
  have hderived : (deriveTarget (stalePlans s)).PassSound := h.of_eq
  have hchanged := passSound_generationChange hderived
  have hraised : (raise (.circuit c) (generationChange (deriveTarget (stalePlans s)))).PassSound := hchanged.of_eq
  exact passSound_refreshDigest hraised

/-- A SERVICE directive taken with the lock FREE finds no pass in progress (R91, R168). -/
theorem passSound_service (a : ServiceAction) (c : Nat) {s : State} (hfree : s.lockHeld = false) (h : s.PassSound) :
    (service a c s).1.PassSound := by
  have hidle : ∀ i, s.engine.state ≠ .pass i := fun i hi => by
    unfold State.lockHeld at hfree
    rw [hi] at hfree
    cases hfree
  cases a with
  | in_ =>
    rcases serviceIn_cases c s with hs | ⟨f, att, _, hs⟩
    · rw [show (service .in_ c s).1 = s from hs]
      exact h
    · rw [show (service .in_ c s).1 = bringIn c f att s from hs]
      refine passSound_deliverService c ⟨h.active, h.keyed, ?_, fun i hi => absurd hi (hidle i)⟩
      dsimp only
      exact tableWf_put _ _ h.wf
  | out =>
    rcases serviceOut_cases c s with hs | ⟨f, att, _, _, _, hs⟩
    · rw [show (service .out c s).1 = s from hs]
      exact h
    · rw [show (service .out c s).1 = takeOut c f att s from hs]
      refine passSound_deliverService c ⟨h.active, h.keyed, ?_, fun i hi => absurd hi (hidle i)⟩
      dsimp only
      exact tableWf_put _ _ h.wf

end Sys2Proof.Machine
end

section
/-! PROOF. Every step keeps a pass on current inputs (O13). -/

namespace Sys2Proof.Machine

theorem chainClosed_passSound : ChainClosed (fun s t => s.PassSound → t.PassSound) where
  refl _ := id
  trans h g := fun hs => g (h hs)
  channel ht := fun h => by
    rw [ht]
    exact h.of_eq rfl rfl rfl rfl
  restart _ := passSound_restart
  service a c _ hfree := passSound_service a c hfree
  load bulk _ := passSound_doLoad bulk
  operator side value _ := passSound_doOperator side value

/-- What a command other than POWER_RESET does to a pass on current inputs. -/
theorem passSound_exec {c : Instr} {s t : State} (hreset : ∀ strap, c ≠ .powerReset strap) (h : exec c s = .next t)
    (hs : s.PassSound) : t.PassSound := by
  have kept : ∀ {u : State}, u.PassSound → exec c s = .next u → t.PassSound := fun hu e => by
    rw [e] at h; cases h; exact hu
  have directed : ∀ d, exec c s = .next (directive d s) → t.PassSound := fun d =>
    kept (chainClosed_passSound.directive d s hs)
  have frameWhen : ∀ (q : Prop) [Decidable q] p (b : Fin 4) f, (if q then bandFrame p b f s else s).PassSound := by
    intro q _ p b f
    split
    · exact passSound_bandFrame p b f hs
    · exact hs
  cases c with
  | powerReset strap => exact absurd rfl (hreset strap)
  | bandFrame p b f => exact kept (passSound_bandFrame p b f hs) rfl
  | bandEntryIntoLost p b => exact kept (frameWhen _ p b noSignal) rfl
  | bandEntryIntoAligned p b f => exact kept (frameWhen _ p b f) rfl
  | degradeIntervalEnd p b f => exact kept (frameWhen _ p b f) rfl
  | holdOffExpiry p b => exact kept (passSound_holdOffExpiry p b hs) rfl
  | returnTimerExpiry p b => exact kept (passSound_returnTimerExpiry p b hs) rfl
  | bandFrameTransmit p => exact kept hs.of_eq rfl
  | tributaryFrame n f => exact kept hs.of_eq rfl
  | tributaryAlignmentChange n f => exact kept hs.of_eq rfl
  | tributaryFrameTransmit n => exact kept hs.of_eq rfl
  | switchFrameBoundary => exact kept (hs.of_undisturbed (undisturbed_frameBoundary s)) rfl
  | tagCheckStateChange n => exact kept (passSound_tagStateChange n hs) rfl
  | noticeTaken => exact kept (passSound_takeNotice hs) rfl
  | stalenessExpiry q => exact kept (passSound_stalenessExpiry q hs) rfl
  | refreshTimerExpiry => exact kept hs.of_eq rfl
  | gatherExpiry => exact kept (passSound_gatherExpiry hs) rfl
  | passCompletion => exact kept (passSound_passCompletion hs) rfl
  | buildStart => exact kept (passSound_buildStart hs) rfl
  | buildEnd => exact kept (passSound_buildEnd hs) rfl
  | listenExpiry => exact kept (passSound_listenExpiry hs) rfl
  | managementFrameFromLine p bytes => exact kept hs.of_eq rfl
  | managementFrameFromTributary bytes => exact kept hs.of_eq rfl
  | executeRequest pause => exact kept (chainClosed_passSound.executeRequest pause s hs) rfl
  | select table index => exact directed _ rfl
  | load bulk => exact directed _ rfl
  | read count => exact directed _ rfl
  | serviceIn n => exact directed _ rfl
  | serviceOut n => exact directed _ rfl
  | holdTimerExpiry => exact kept (chainClosed_passSound.holdTimerExpiry s hs) rfl
  | heldServiceRelease => exact kept (chainClosed_passSound.heldServiceRelease s hs) rfl
  | operator side value => exact directed _ rfl
  | capture flag => exact directed _ rfl
  | restart => exact directed _ rfl
  | reportEmission => exact kept hs.of_eq rfl

theorem tablesWf_circuits {s : State} (h : s.tablesWf = true) : tableWf .absent s.table.circuits = true := by
  unfold State.tablesWf at h
  simp only [Bool.and_eq_true] at h
  tauto

/-- The invariants of O5, O8 and O12 give what a pass on current inputs is kept with. -/
theorem passSound_of_invariants {s : State} (hwf : s.tablesWf = true) (hderived : s.mapDerived) (hallows : s.stateAllows)
    (hcurrent : s.passCurrent) : s.PassSound := by
  refine ⟨fun hworks => by_contra fun hpassive => ?_, spansKeyed_of_mapDerived hderived, tablesWf_circuits hwf, hcurrent⟩
  obtain ⟨hnoGather, hnoPass⟩ := hallows.2.2 hpassive
  cases hstate : s.engine.state with
  | gather e => exact hnoGather e hstate
  | pass i => exact hnoPass i hstate
  | idle => rw [hstate] at hworks; cases hworks
  | build k i => rw [hstate] at hworks; cases hworks

/-- Settles O13: `State.PassSound` is kept by every operation. A map change that moves W or X, and a generation change, starts the pass
afresh; a changed ring map and RESTART end it; SERVICE waits for the lock. -/
theorem stepsKeepPassesOnCurrentInputs : Obligations.StepsKeepPassesOnCurrentInputs := by
  intro s t hwf hderived hallows hcurrent h
  have hsound := passSound_of_invariants hwf hderived hallows hcurrent
  unfold step at h
  split at h
  · cases h
    exact hcurrent
  · rename_i c rest _
    by_cases hreset : ∃ strap, c = .powerReset strap
    · obtain ⟨strap, rfl⟩ := hreset
      cases h
      exact fun i hi => EngineState.noConfusion hi
    · have hrest : State.PassSound { s with pending := rest } := hsound.of_eq rfl rfl rfl rfl
      exact (passSound_exec (fun strap he => hreset ⟨strap, he⟩) h hrest).current

end Sys2Proof.Machine
end

section
/-! PROOF. The Restoration Engine's events: a gather's expiry (O37), a pass completed (O38), and the entry into ACTIVE (O43). -/

namespace Sys2Proof.Machine

/-! ### Gather expiry -/

/-- Reading a table whose values have been replaced by values of another type. -/
theorem look_map_values {α β : Type} (d : α) (f : α → β) (t : Table α) (k : Nat) :
    look (f d) (t.map (fun e => (e.1, f e.2))) k = f (look d t k) := by
  induction t with
  | nil => rfl
  | cons e rest ih =>
    rw [List.map_cons, look_cons, look_cons, ih]
    split <;> rfl

/-- Settles O37: a snapshot's W and X read, span by span, as the map's. -/
theorem gatherExpiryTakesTheSnapshot : Obligations.GatherExpiryTakesTheSnapshot := by
  intro s e hgather
  refine ⟨takeSnapshot s, ?_, fun k => ⟨?_, ?_⟩, rfl, rfl, rfl, rfl⟩
  · show Host.Outcome.next (gatherExpiry s) = _
    unfold gatherExpiry
    rw [hgather]
    rfl
  · exact look_map_values SpanEntry.outside SpanEntry.bandsInW s.map.spans k
  · exact look_map_values SpanEntry.outside SpanEntry.bandsInX s.map.spans k

/-! ### Pass completion -/

/-- Raises write the pending list, and nothing else (R176). -/
theorem raiseAll_writes (xs : List Subject) (s : State) :
    ∃ subjects, raiseAll xs s = { s with reports := { s.reports with subjects := subjects } } := by
  induction xs generalizing s with
  | nil => exact ⟨s.reports.subjects, rfl⟩
  | cons x xs ih =>
    have hraise : ∃ subjects, raise x s = { s with reports := { s.reports with subjects := subjects } } := by
      unfold raise
      split
      · exact ⟨_, rfl⟩
      · exact ⟨s.reports.subjects, rfl⟩
    obtain ⟨first, hfirst⟩ := hraise
    obtain ⟨all, hall⟩ := ih (raise x s)
    refine ⟨all, ?_⟩
    show raiseAll xs (raise x s) = _
    rw [hall, hfirst]

/-- An install writes the grants, the result number, the records, the target and the pending list, and nothing else (R106). -/
theorem install_writes (r : PassResult) (s : State) : ∃ subjects, install r s = { deriveTarget { s with
    engine := { s.engine with grants := r.grants, resultNumber := s.engine.resultNumber + 1 }
    table := { s.table with circuits := installRecords r.outcomes s.table.circuits } } with
    reports := { s.reports with subjects := subjects } } :=
  raiseAll_writes ((changedByInstall r.outcomes s.table.circuits).map .circuit ++ [.node]) _ |>.imp fun subjects h => by
    rw [raiseAll, List.foldl_append] at h
    exact h

/-- What an install makes of the records: a circuit in service takes the state the list gives it, is reported when that changes its
state, and keeps its own when the list has no entry for it; any other record stays (R11, R106). -/
theorem install_circuits (r : PassResult) (s : State) :
    (∀ c f a x k, s.circuit c = .inService f a x k → ∃ x', (install r s).circuit c = .inService f a x' k ∧
      (∀ o, r.outcomes.find? (fun o => o.circuit == c) = some o → x' = o.restoration) ∧
      (c ∉ r.outcomes.map Outcome.circuit → x' = x) ∧ (x' ≠ x → reported (.circuit c) (install r s))) ∧
    ∀ c, (∀ f a x k, s.circuit c ≠ .inService f a x k) → (install r s).circuit c = s.circuit c := by
  obtain ⟨_, htable, _, _, hreported⟩ := install_spec r s
  have hcircuit : ∀ c, (install r s).circuit c = match s.circuit c with
      | .inService f a x k => .inService f a (restorationIn r.outcomes c x) k
      | x => x := fun c => by
    unfold State.circuit
    rw [htable]
    exact look_installRecords _ _ _
  refine ⟨fun c f a x k h => ⟨restorationIn r.outcomes c x, by rw [hcircuit, h], fun o ho => ?_, fun hnone => ?_,
    hreported c f a x k h⟩, fun c h => ?_⟩
  · unfold restorationIn
    rw [ho]
  · unfold restorationIn
    rw [List.find?_eq_none.mpr (fun o ho hoc => hnone (List.mem_map.mpr ⟨o, ho, by simpa using hoc⟩))]
  · rw [hcircuit]
    cases hx : s.circuit c with
    | inService f a x k => exact absurd hx (h f a x k)
    | _ => rfl

theorem counter_setEngine (e : EngineState) (s : State) (n : Nat) : (setEngine e s).counter n = s.counter n := rfl

/-- Settles O38: a completion is the install of the snapshot's result, its count, and the engine in IDLE. -/
theorem passCompletionInstallsTheResult : Obligations.PassCompletionInstallsTheResult := by
  intro s i hpass
  have hcompleted : passCompletion s = setEngine .idle (bump ctrPassesCompleted (install (computePass i) s)) := by
    unfold passCompletion
    rw [hpass]
  refine ⟨passCompletion s, rfl, ?_⟩
  rw [hcompleted]
  obtain ⟨hengine, _, hswitch, hnode, _⟩ := install_spec (computePass i) s
  obtain ⟨hinService, hothers⟩ := install_circuits (computePass i) s
  have hcounter : (install (computePass i) s).counter 0 = s.counter 0 := by
    unfold State.counter
    simp
  have hwrites := install_writes (computePass i) s
  generalize install (computePass i) s = u at *
  refine ⟨?_, rfl, ?_, hswitch, hnode, hinService, hothers, ?_⟩
  · show ({ u.engine with state := .idle } : Engine) = _
    rw [hengine]
  · rw [counter_setEngine, counter_bump, ← hcounter]
    rfl
  · obtain ⟨subjects, rfl⟩ := hwrites
    rfl

end Sys2Proof.Machine
end

section
/-! PROOF. The entry into ACTIVE (O43): the notice, the convergence status, and the engine's answer to the map as it stands (R85, R95,
R148). -/

namespace Sys2Proof.Machine

/-- A node that enters ACTIVE originates one notice, with the status evaluated after it (R79, R148). -/
theorem enteredActive_notices (s : State) (e : Nat) : originated s (s.enteredActive e) ∧ (s.enteredActive e).convergenceFresh ∧
    (s.enteredActive e).notices.records = s.notices.records ∧ ReportsGrow s (s.enteredActive e) := by
  have horiginated := originate_originated (setNodeState .active (s.reach e)) rfl
  refine ⟨originated_congr horiginated rfl rfl ?_ ?_ ?_ ?_ ?_, convergenceFresh_evaluateConvergence _, ?_, ?_⟩
  · exact evaluateConvergence_frame _ |>.2.2.1
  · simp [State.enteredActive]
  · simp [State.enteredActive]
  · simp [State.enteredActive]
  · unfold State.enteredActive
    rw [evaluateConvergence_notices]
  · rw [State.enteredActive, records_evaluateConvergence, records_originate]
    rfl
  · exact (grow_evaluateConvergence _).after (.of_eq (by simp))

theorem enteredActive_frame (s : State) (e : Nat) :
    let u := s.enteredActive e
    u.now = max s.now e ∧ u.node = { s.node with state := .active } ∧ u.pending = s.pending ∧ u.ports = s.ports ∧
      u.tribs = s.tribs ∧ u.map = s.map ∧ u.table = s.table ∧ u.engine = s.engine ∧ u.plans = s.plans ∧ u.switch = s.switch ∧
      u.mgmt = s.mgmt ∧ u.counters = s.counters := by
  dsimp only
  rw [enteredActive_eq]
  exact ⟨rfl, rfl, rfl, rfl, rfl, rfl, rfl, rfl, rfl, rfl, rfl, rfl⟩

/-- What the engine's part of an entry into ACTIVE does: nothing with W and X empty, else its answer to a map change (R95). -/
theorem engineEntersActive_cases (s : State) :
    (s.map.setsEmpty = true ∧ engineEntersActive s = s) ∨ (s.map.setsEmpty = false ∧ engineEntersActive s = mapChange s) := by
  unfold engineEntersActive
  cases h : s.map.setsEmpty with
  | true => exact .inl ⟨rfl, rfl⟩
  | false => exact .inr ⟨rfl, rfl⟩

theorem carried_engineEntersActive (s : State) : Carried s (engineEntersActive s) := by
  rcases engineEntersActive_cases s with ⟨_, h⟩ | ⟨_, h⟩ <;> rw [h]
  · exact .refl s
  · exact carried_mapChange s

/-- A target derived and a NODE report raised after the engine's answer to a map change (R85, R134). -/
theorem answersMapChange_reported {s v : State} (h : answersMapChange s v s.switch) :
    let t := raise .node (deriveTarget v)
    answersMapChange s t { s.switch with target := some (targetOf t) } := by
  dsimp only
  have htarget : targetOf (raise .node (deriveTarget v)) = targetOf (deriveTarget v) :=
    targetOf_congr (by simp) (by simp) (settings_of_table (by simp)) (by simp)
  rw [htarget]
  exact answersMapChange_keeps (answersMapChange_deriveTarget h) (by simp) (by simp) (by simp) (by simp) (by simp) (by simp)
    (by simp) (by simp) (by simp) (fun x hx => (grow_raise .node _).subjects.subset hx)

/-- Settles O43: the notice and the status come before the engine, which is asked in ACTIVE; the target is derived from what it leaves. -/
theorem listenExpiryEntersActive : Obligations.ListenExpiryEntersActive := by
  intro s e own hstarting _
  obtain ⟨horiginated, hfresh, hrecords, hgrow⟩ := enteredActive_notices s e
  obtain ⟨hnow, hnode, hpending, hports, htribs, hmap, htable, hengine, hplans, hswitch, hmgmt, hcounters⟩ :=
    enteredActive_frame s e
  refine ⟨listenExpiry s, rfl, ?_⟩
  rw [listenExpiry_starting hstarting]
  generalize s.enteredActive e = u at *
  have hcases := engineEntersActive_cases u
  have hundisturbed := undisturbed_engineEntersActive u
  have hcarried := carried_engineEntersActive u
  obtain ⟨hpending', hnow', hnode', hports', htribs', hmap', hnotices', hmgmt'⟩ := engineEntersActive_frame u
  generalize engineEntersActive u = v at *
  have htable' : (raise .node (deriveTarget v)).table = { u.table with circuits := v.table.circuits } := by
    rw [← hundisturbed.table]
    simp
  have hconnections : v.switch.connections = s.switch.connections := by rw [hcarried.connections, hswitch]
  have hreports := (hgrow.trans hcarried.reports).trans (grow_raise .node (deriveTarget v) |>.after (.of_eq rfl))
  refine ⟨by simp [hnow', hnow], by simp [hnode', hnode], ?_, ?_, ?_, reported_raise _ _, fun hempty => ?_, fun hsets => ?_,
    by simp [hmap', hmap], by simp [hports', hports], by simp [hmgmt', hmgmt], by simp [hnotices', hrecords], ?_, ?_⟩
  · exact originated_congr horiginated rfl rfl (by simp [hnode']) (by rw [htable']) (by simp [hmap']) (by simp [hnow'])
      (by simp [hnotices'])
  · unfold State.convergenceFresh at hfresh ⊢
    rw [convergenceOf_congr (s := u) (by simp [hnode']) (by rw [htable']) (by simp [hnotices']) (by rw [htable']), ← hfresh]
    simp [hnotices']
  · have hderived := deriveTarget_switch (s := v) (t := raise .node (deriveTarget v)) (by simp) (by simp) (by simp)
      (settings_of_table (by simp)) (by simp)
    rw [hderived]
    dsimp only
    rw [hconnections]
  · rcases hcases with ⟨_, rfl⟩ | ⟨hfull, _⟩
    · simp [hengine, hplans, htable, hcounters]
    · rw [hmap] at hfull
      exact absurd (hempty.symm.trans hfull) Bool.noConfusion
  · rcases hcases with ⟨hempty, _⟩ | ⟨_, rfl⟩
    · rw [hmap] at hempty
      exact absurd (hempty.symm.trans hsets) Bool.noConfusion
    · have hanswers := mapChange_answers u
      rw [hswitch] at hanswers
      exact answersMapChange_reported ((answersMapChange_congr hengine hplans htable hswitch hcounters).mp hanswers)
  · rw [htable', htable]
  · exact ⟨by simp [hpending', hpending], by simp [hnode', hnode], by simp [htribs', htribs], by simpa [deriveTarget] using hconnections,
      hreports.number, hreports.snapshot⟩

end Sys2Proof.Machine
end

section
/-! PROOF. A held SERVICE directive (O54): what SERVICE and a chain's answer do is the same whatever the execution state (R168, R169). -/

namespace Sys2Proof.Machine

/-! ### The execution state is read by none of SERVICE and the reply -/

theorem raise_setExecution (e : Execution) (x : Subject) (s : State) :
    raise x (setExecution e s) = setExecution e (raise x s) := by
  unfold raise
  rw [apply_ite (setExecution e)]
  rfl

theorem originate_setExecution (e : Execution) (s : State) : originate (setExecution e s) = setExecution e (originate s) := by
  unfold originate
  rw [show (setExecution e s).node = s.node from rfl, show (setExecution e s).position = s.position from rfl]
  split <;> rfl

theorem evaluateConvergence_setExecution (e : Execution) (s : State) :
    evaluateConvergence (setExecution e s) = setExecution e (evaluateConvergence s) := by
  unfold evaluateConvergence
  rw [show convergenceOf (setExecution e s) = convergenceOf s from rfl]
  dsimp only
  rw [apply_ite (setExecution e), ← raise_setExecution]
  rfl

theorem refreshDigest_setExecution (e : Execution) (s : State) :
    refreshDigest (setExecution e s) = setExecution e (refreshDigest s) := by
  unfold refreshDigest
  dsimp only
  rw [apply_ite (setExecution e), ← evaluateConvergence_setExecution, ← originate_setExecution]
  rfl

theorem abandonBuild_setExecution (e : Execution) (s : State) :
    abandonBuild (setExecution e s) = setExecution e (abandonBuild s) := by
  unfold abandonBuild
  rw [show (setExecution e s).engine = s.engine from rfl]
  split <;> rfl

theorem generationChange_setExecution (e : Execution) (s : State) :
    generationChange (setExecution e s) = setExecution e (generationChange s) := by
  unfold generationChange
  rw [abandonBuild_setExecution, show (setExecution e s).node = s.node from rfl,
    show (setExecution e s).engine = s.engine from rfl, show (setExecution e s).map = s.map from rfl]
  split
  · split
    · rw [apply_ite (setExecution e)]
      rfl
    · rw [apply_ite (setExecution e)]
      rfl
    · rfl
    · rfl
  · rfl

theorem deliverService_setExecution (e : Execution) (c : Nat) (s : State) :
    deliverService c (setExecution e s) = setExecution e (deliverService c s) := by
  unfold deliverService
  rw [← refreshDigest_setExecution, ← raise_setExecution, ← generationChange_setExecution]
  rfl

theorem bringIn_setExecution (e : Execution) (c : Nat) (f : CircuitFields) (a : Option Attachment) (s : State) :
    bringIn c f a (setExecution e s) = setExecution e (bringIn c f a s) := by
  unfold bringIn
  rw [← deliverService_setExecution]
  rfl

theorem takeOut_setExecution (e : Execution) (c : Nat) (f : CircuitFields) (a : Option Attachment) (s : State) :
    takeOut c f a (setExecution e s) = setExecution e (takeOut c f a s) := by
  unfold takeOut
  rw [← deliverService_setExecution]
  rfl

/-- SERVICE does the same whatever the execution state (R14 to R19). -/
theorem service_setExecution (e : Execution) (a : ServiceAction) (c : Nat) (s : State) :
    service a c (setExecution e s) = (setExecution e (service a c s).1, (service a c s).2) := by
  cases a with
  | in_ =>
    unfold service serviceIn
    rw [show serviceInCode (setExecution e s) c = serviceInCode s c from rfl,
      show (setExecution e s).circuit c = s.circuit c from rfl]
    dsimp only
    split
    · rw [bringIn_setExecution]
    · rfl
  | out =>
    unfold service serviceOut
    rw [show (setExecution e s).circuit c = s.circuit c from rfl]
    dsimp only
    split
    · rw [takeOut_setExecution]
    · rfl

theorem offerFrame_setExecution (e : Execution) (q : MgmtPort) (f : Frame) (s : State) :
    offerFrame q f (setExecution e s) = setExecution e (offerFrame q f s) := by
  unfold offerFrame
  dsimp only
  rw [apply_ite (setExecution e)]
  cases q <;> rfl

theorem sendFrame_setExecution (e : Execution) (f : Frame) (s : State) :
    sendFrame f (setExecution e s) = setExecution e (sendFrame f s) := by
  unfold sendFrame
  rw [show namedQueue (setExecution e s) f.destination = namedQueue s f.destination from rfl]
  split
  · exact offerFrame_setExecution e _ f s
  · rfl

/-- An answer to a directive overwrites the execution state of its chain (R160 to R162). -/
theorem chainAnswered_setExecution (e : Execution) (c : Chain) (more : Bool) (code : ResultCode) (count : Nat) (s : State) :
    (setExecution e s).chainAnswered c more code count = s.chainAnswered c more code count := by
  unfold State.chainAnswered
  dsimp only
  split
  · rfl
  · unfold State.chainEnded
    cases c.requester with
    | none => rfl
    | some r =>
      dsimp only
      rw [show (setExecution e s).node = s.node from rfl, sendFrame_setExecution]
      rfl

/-! ### The directive held and released -/

/-- A SERVICE directive that the IDLE unit takes with the lock HELD is held for 200 ms (R168). -/
theorem directive_held {s : State} (h : s.canTake) (hl : s.lockHeld = true) {c action : Nat} {a : ServiceAction}
    (ha : actionOf action = some a) (hc : c < 1024) :
    directive (.service c action) s = setExecution
      (.holding (Chain.start none []) { circuit := c, action := a, more := false } (s.now + 2000)) s := by
  rw [directive_alone h]
  unfold takeDirective takeService
  dsimp only
  rw [if_neg (by simpa [Config.circuitMax] using hc), ha]
  dsimp only
  rw [if_pos hl]
  rfl

theorem heldServiceRelease_held {s : State} (hl : s.lockHeld = true) (ch : Chain) (h : Held) (e : Nat) :
    heldServiceRelease (setExecution (.holding ch h e) s) = setExecution (.holding ch h e) s := if_pos hl

/-- A held SERVICE directive released with the lock FREE does what SERVICE does, and answers its chain (R169). -/
theorem heldServiceRelease_free {s : State} (hl : s.lockHeld = false) (ch : Chain) (h : Held) (e : Nat) :
    heldServiceRelease (setExecution (.holding ch h e) s) =
      (service h.action h.circuit s).1.chainAnswered ch h.more (service h.action h.circuit s).2 0 := by
  have hfree : ¬(setExecution (.holding ch h e) s).lockHeld = true := ne_true_of_eq_false hl
  have htaken : heldServiceRelease (setExecution (.holding ch h e) s) =
      takeService ch h.more h.action h.circuit (setExecution (.holding ch h e) s) := if_neg hfree
  rw [htaken, takeService, if_neg hfree, service_setExecution]
  dsimp only
  rw [answer_eq, chainAnswered_setExecution]

theorem chainAnswered_alone (code : ResultCode) (count : Nat) (s : State) :
    s.chainAnswered (Chain.start none []) false code count = s.answeredWith code count [] :=
  (answer_eq _ _ _ _ s).symm.trans (answer_alone code count s)

/-- SERVICE leaves the Management Unit (R18, R19). -/
theorem mgmt_service (a : ServiceAction) (c : Nat) (s : State) : (service a c s).1.mgmt = s.mgmt := by
  cases a with
  | in_ =>
    rcases serviceIn_cases c s with h | ⟨f, att, _, h⟩
    · rw [show (service .in_ c s).1 = s from h]
    · rw [show (service .in_ c s).1 = bringIn c f att s from h, bringIn, (deliverService_frame _ _).2.2.2.2.2.2]
  | out =>
    rcases serviceOut_cases c s with h | ⟨f, att, _, _, _, h⟩
    · rw [show (service .out c s).1 = s from h]
    · rw [show (service .out c s).1 = takeOut c f att s from h, takeOut, (deliverService_frame _ _).2.2.2.2.2.2]

/-- A SERVICE directive taken by itself with the lock FREE. -/
theorem exec_service {s : State} (h : s.canTake) (hl : s.lockHeld = false) {c : Half} (hc : c.toNat < 1024) (a : ServiceAction) :
    exec (if a = .in_ then .serviceIn c else .serviceOut c) s =
      .next ((service a c.toNat s).1.answeredWith (service a c.toNat s).2 0 []) := by
  cases a with
  | in_ => exact congrArg Host.Outcome.next (directive_service h hl rfl hc)
  | out => exact congrArg Host.Outcome.next (directive_service h hl rfl hc)

/-- A state with its unit IDLE and what the last chain gave as a Management Unit notes it (log 16). -/
def State.noting (v : State) (m : Management) : State :=
  { v with mgmt := { v.mgmt with execution := .idle, lastItems := m.lastItems, lastRecords := m.lastRecords } }

theorem noting_answeredWith (s : State) (code : ResultCode) (count : Nat) (records : List Byte) (m : Management) :
    (s.answeredWith code count records).noting m = s.noting m := rfl

/-- Settles O54: what SERVICE does turns on nothing of the Management Unit, so a directive that waited does what it would have done at
its arrival. -/
theorem heldServiceWaitsForTheLock : Obligations.HeldServiceWaitsForTheLock := by
  intro c s htake hc holding
  have hreleased : ∀ a e, s.lockHeld = false → exec .heldServiceRelease (holding a e) =
      .next ((service a c.toNat s).1.answeredWith (service a c.toNat s).2 0 []) := fun a e hl =>
    congrArg Host.Outcome.next ((heldServiceRelease_free hl _ _ e).trans (chainAnswered_alone _ _ _))
  refine ⟨fun hl => ⟨?_, ?_, fun a e => ?_⟩, fun hl e => ⟨?_, ?_⟩, ?_⟩
  · exact congrArg Host.Outcome.next (directive_held htake hl rfl hc)
  · exact congrArg Host.Outcome.next (directive_held htake hl rfl hc)
  · exact congrArg Host.Outcome.next (heldServiceRelease_held hl _ _ e)
  · exact ⟨_, hreleased .in_ e hl, exec_service htake hl hc .in_, rfl⟩
  · exact ⟨_, hreleased .out e hl, exec_service htake hl hc .out, rfl⟩
  · intro ch more a e held
    refine ⟨fun hl => congrArg Host.Outcome.next (heldServiceRelease_held hl _ _ e), fun hl v code hv => ?_⟩
    intro w
    obtain ⟨rfl, _, hstates⟩ := answeredWith_inj (hv.symm.trans (exec_service htake hl hc a))
    have hsame : v.noting s.mgmt = (service a c.toNat s).1.noting s.mgmt := by
      rw [← noting_answeredWith v .ok 0 [] s.mgmt, hstates, noting_answeredWith]
    have hmgmt := mgmt_service a c.toNat s
    refine congrArg Host.Outcome.next ((heldServiceRelease_free hl ch _ e).trans ?_)
    dsimp only
    generalize service a c.toNat s = r at hsame hmgmt ⊢
    have hnoted : r.1.noting s.mgmt = setExecution .idle r.1 := by rw [← hmgmt]; rfl
    calc r.1.chainAnswered ch more r.2 0
        = (setExecution .idle r.1).chainAnswered ch more r.2 0 := (chainAnswered_setExecution _ _ _ _ _ _).symm
      _ = (setExecution .idle w).chainAnswered ch more r.2 0 := by rw [← hnoted, ← hsame]; rfl
      _ = w.chainAnswered ch more r.2 0 := chainAnswered_setExecution _ _ _ _ _ _

end Sys2Proof.Machine
end

section
/-! PROOF. What the computation of a pass reads: routes, ranges and their slots, usable starts, affected circuits and candidates (R7, R9,
R97 to R101, R104). -/

namespace Sys2Proof.Machine

/-! ### Routes and ranges -/

/-- The spans of a route are spans of the ring (R7). -/
theorem lt_of_mem_route {n a b : Nat} (hn : 0 < n) {d : Direction} {k : Nat} (h : k ∈ route n a b d) : k < n := by
  cases d with
  | cw =>
    obtain ⟨i, _, rfl⟩ := List.mem_map.mp h
    exact Nat.mod_lt _ hn
  | ccw =>
    obtain ⟨i, _, rfl⟩ := List.mem_map.mp h
    exact Nat.mod_lt _ hn

/-- The keys of a range are those of its slots on the spans of its route (R9). -/
theorem mem_rangeKeys {spans : List Nat} {start width key : Nat} :
    key ∈ rangeKeys spans start width ↔ ∃ k ∈ spans, ∃ u, start ≤ u ∧ u < start + width ∧ key = 64 * k + u := by
  unfold rangeKeys rangeSlots slotKey
  simp only [List.mem_flatMap, List.mem_map, List.mem_range, Config.spanSlots]
  refine exists_congr (fun k => and_congr_right (fun _ => ⟨?_, ?_⟩))
  · rintro ⟨_, ⟨j, hj, rfl⟩, rfl⟩
    exact ⟨start + j, by omega, by omega, rfl⟩
  · rintro ⟨u, hlow, hhigh, rfl⟩
    exact ⟨u, ⟨u - start, by omega, by omega⟩, rfl⟩

/-- A range keeps within the slots of a span and, on every span of a route, to bands outside X (R101). -/
def PassInputs.unbarred (i : PassInputs) (spans : List Nat) (width x : Nat) : Prop :=
  x + width ≤ 64 ∧ ∀ k ∈ spans, memberOf i.x k (x / 16) = false ∧ memberOf i.x k ((x + width - 1) / 16) = false

theorem bandsOpen_iff (i : PassInputs) (spans : List Nat) (start width : Nat) :
    bandsOpen i spans start width = true ↔
      ∀ k ∈ spans, memberOf i.x k (start / 16) = false ∧ memberOf i.x k ((start + width - 1) / 16) = false := by
  simp [bandsOpen, rangeBands]

/-- What makes a start usable (R101). -/
theorem usable_iff (i : PassInputs) (cap : Table Capacity) (displacing : Bool) (spans : List Nat) (width x : Nat) :
    usable i cap displacing spans width x = true ↔ i.unbarred spans width x ∧
      ∀ k ∈ spans, ∀ u, x ≤ u → u < x + width → (look .free cap (64 * k + u)).givable displacing = true := by
  unfold usable PassInputs.unbarred
  rw [Bool.and_eq_true, Bool.and_eq_true, decide_eq_true_iff, bandsOpen_iff, List.all_eq_true]
  refine and_congr Iff.rfl ⟨fun h k hk u hlow hhigh => h _ (mem_rangeKeys.mpr ⟨k, hk, u, hlow, hhigh, rfl⟩), fun h key hkey => ?_⟩
  obtain ⟨k, hk, u, hlow, hhigh, rfl⟩ := mem_rangeKeys.mp hkey
  exact h k hk u hlow hhigh

theorem givable_false_iff (c : Capacity) : c.givable false = true ↔ c = .free := by
  cases c <;> simp [Capacity.givable]

theorem givable_true_iff (c : Capacity) : c.givable true = true ↔ c = .free ∨ ∃ d, c = .extra d := by
  cases c <;> simp [Capacity.givable]

theorem mem_starts {width x : Nat} : x ∈ starts width ↔ x + width ≤ 64 := by
  unfold starts
  rw [List.mem_range, Config.spanSlots]
  omega

/-! ### Affected circuits and candidates -/

/-- A circuit of 1 to 16 slots is affected when a slot of its working range lies in W (R9, R98). -/
theorem affected_iff (i : PassInputs) {f : CircuitFields} (hlow : 1 ≤ f.width) (hhigh : f.width ≤ 16) :
    affected i f = true ↔ ∃ k ∈ f.workingRoute i.n, ∃ u, f.start ≤ u ∧ u < f.start + f.width ∧
      memberOf i.w k (u / 16) = true := by
  have hbands : affected i f = true ↔ ∃ k ∈ f.workingRoute i.n,
      memberOf i.w k (f.start / 16) = true ∨ memberOf i.w k ((f.start + f.width - 1) / 16) = true := by
    simp [affected, uses, rangeBands]
  rw [hbands]
  refine exists_congr (fun k => and_congr_right (fun _ => ⟨?_, ?_⟩))
  · rintro (h | h)
    · exact ⟨f.start, le_rfl, by omega, h⟩
    · exact ⟨f.start + f.width - 1, by omega, by omega, h⟩
  · rintro ⟨u, hu, hu', h⟩
    rcases (by omega : u / 16 = f.start / 16 ∨ u / 16 = (f.start + f.width - 1) / 16) with he | he <;> rw [he] at h
    · exact .inl h
    · exact .inr h

theorem mem_candidatesOf {i : PassInputs} {cls : CircuitClass} {e : Nat × CircuitFields} :
    e ∈ candidatesOf i cls ↔ e ∈ i.circuits ∧ e.2.cls = cls ∧ affected i e.2 = true := by
  simp [candidatesOf]

/-- The candidates are the affected guarded circuits (R99, R100). -/
theorem mem_candidates {i : PassInputs} {e : Nat × CircuitFields} :
    e ∈ candidates i ↔ e ∈ i.circuits ∧ e.2.cls.guarded = true ∧ affected i e.2 = true := by
  unfold candidates
  simp only [List.mem_append, mem_candidatesOf]
  cases hcls : e.2.cls <;> simp [CircuitClass.guarded]

/-- The candidates stand by class and, over circuits in ascending order, by number within a class (R100). -/
theorem candidates_pairwise {i : PassInputs} (h : (i.circuits.map Prod.fst).Pairwise (· < ·)) :
    (candidates i).Pairwise (fun d e => d.2.cls.code < e.2.cls.code ∨ (d.2.cls = e.2.cls ∧ d.1 < e.1)) := by
  have hclass : ∀ cls, (candidatesOf i cls).Pairwise
      (fun d e => d.2.cls.code < e.2.cls.code ∨ (d.2.cls = e.2.cls ∧ d.1 < e.1)) := fun cls => by
    have hsorted : (candidatesOf i cls).Pairwise (fun d e => d.1 < e.1) := (List.pairwise_map.mp h).filter _
    refine hsorted.imp_of_mem (fun hd he hlt => .inr ⟨?_, hlt⟩)
    rw [(mem_candidatesOf.mp hd).2.1, (mem_candidatesOf.mp he).2.1]
  have hacross : ∀ {c c' : CircuitClass}, c.code < c'.code → ∀ d ∈ candidatesOf i c, ∀ e ∈ candidatesOf i c',
      d.2.cls.code < e.2.cls.code ∨ (d.2.cls = e.2.cls ∧ d.1 < e.1) := fun hlt d hd e he => by
    rw [(mem_candidatesOf.mp hd).2.1, (mem_candidatesOf.mp he).2.1]
    exact .inl hlt
  unfold candidates
  refine List.pairwise_append.mpr ⟨List.pairwise_append.mpr ⟨hclass _, hclass _, hacross (by decide)⟩, hclass _, fun d hd => ?_⟩
  rcases List.mem_append.mp hd with hd | hd
  · exact hacross (by decide) d hd
  · exact hacross (by decide) d hd

/-- Distinct circuits give distinct candidates. -/
theorem nodup_candidates {i : PassInputs} (h : (i.circuits.map Prod.fst).Nodup) : ((candidates i).map Prod.fst).Nodup := by
  have hof : ∀ cls, ((candidatesOf i cls).map Prod.fst).Nodup := fun cls => h.sublist (List.filter_sublist.map _)
  have hacross : ∀ {c c' : CircuitClass}, c ≠ c' →
      ((candidatesOf i c).map Prod.fst).Disjoint ((candidatesOf i c').map Prod.fst) := by
    intro c c' hne x hx hx'
    obtain ⟨d, hd, rfl⟩ := List.mem_map.mp hx
    obtain ⟨e, he, heq⟩ := List.mem_map.mp hx'
    obtain ⟨hd, hdc, _⟩ := mem_candidatesOf.mp hd
    obtain ⟨he, hec, _⟩ := mem_candidatesOf.mp he
    obtain rfl := List.inj_on_of_nodup_map h he hd heq
    exact hne (hdc.symm.trans hec)
  unfold candidates
  rw [List.map_append, List.map_append]
  refine List.Nodup.append (List.Nodup.append (hof _) (hof _) (hacross (by decide))) (hof _) ?_
  exact List.disjoint_append_left.mpr ⟨hacross (by decide), hacross (by decide)⟩

end Sys2Proof.Machine
end

section
/-! PROOF. The capacity map of a pass (R97, R99, R103): what a release and a grant leave in it, and what it holds before the first
candidate is placed. -/

namespace Sys2Proof.Machine

/-! ### Tables -/

/-- A filter that keeps what a key reads as leaves its reading. -/
theorem look_filter {α : Type} (d : α) {p : Nat × α → Bool} {t : Table α} {k : Nat} (h : p (k, look d t k) = true) :
    look d (t.filter p) k = look d t k := by
  induction t with
  | nil => rfl
  | cons e rest ih =>
    obtain ⟨j, v⟩ := e
    rw [look_cons] at h ⊢
    by_cases hj : j = k
    · subst hj
      rw [if_pos rfl] at h ⊢
      rw [List.filter_cons_of_pos h, look_cons, if_pos rfl]
    · rw [if_neg hj] at h ⊢
      rw [List.filter_cons]
      split
      · rw [look_cons, if_neg hj, ih h]
      · exact ih h

theorem mem_of_mem_put {α : Type} [DecidableEq α] {d : α} {t : Table α} {k : Nat} {v : α} {x : Nat × α} (h : x ∈ put d t k v) :
    x = (k, v) ∨ x ∈ t := by
  unfold put at h
  split at h
  · exact .inr (List.mem_of_mem_filter h)
  · exact (mem_insertKey.mp h).imp_right List.mem_of_mem_filter

/-! ### Grants and releases -/

/-- The capacity map with every slot of a range granted to a circuit (R103). -/
def grantKeys (c : Nat) (keys : List Nat) (cap : Table Capacity) : Table Capacity :=
  keys.foldl (fun cap k => put .free cap k (.granted c)) cap

theorem look_grantKeys (c : Nat) (keys : List Nat) (cap : Table Capacity) (key : Nat) :
    look .free (grantKeys c keys cap) key = if key ∈ keys then .granted c else look .free cap key := by
  unfold grantKeys
  induction keys generalizing cap with
  | nil => simp
  | cons k keys ih =>
    rw [List.foldl_cons, ih, look_put]
    by_cases hk : key = k <;> simp [hk]

theorem mem_of_mem_grantKeys {c : Nat} {keys : List Nat} {cap : Table Capacity} {x : Nat × Capacity} (h : x ∈ grantKeys c keys cap) :
    x.2 = .granted c ∨ x ∈ cap := by
  unfold grantKeys at h
  induction keys generalizing cap with
  | nil => exact .inr h
  | cons k keys ih =>
    rcases ih h with hgranted | hm
    · exact .inl hgranted
    · exact (mem_of_mem_put hm).imp_left (fun he => by rw [he])

/-- A release leaves every entry but those of the EXTRA circuit released (R99, R103). -/
theorem look_releaseExtra {i : PassInputs} {cap : Table Capacity} {d key : Nat} (h : look .free cap key ≠ .extra d) :
    look .free (releaseExtra i cap d) key = look .free cap key := by
  unfold releaseExtra
  split
  · rfl
  · exact look_filter _ (by simp [h])

theorem look_releaseAll {i : PassInputs} {ds : List Nat} {cap : Table Capacity} {key : Nat}
    (h : ∀ d ∈ ds, look .free cap key ≠ .extra d) : look .free (ds.foldl (releaseExtra i) cap) key = look .free cap key := by
  induction ds generalizing cap with
  | nil => rfl
  | cons d ds ih =>
    have hone : look .free (releaseExtra i cap d) key = look .free cap key := look_releaseExtra (h d List.mem_cons_self)
    rw [List.foldl_cons, ih (fun x hx => by rw [hone]; exact h x (List.mem_cons_of_mem d hx)), hone]

theorem mem_of_mem_releaseAll {i : PassInputs} {ds : List Nat} {cap : Table Capacity} {x : Nat × Capacity}
    (h : x ∈ ds.foldl (releaseExtra i) cap) : x ∈ cap := by
  induction ds generalizing cap with
  | nil => exact h
  | cons d ds ih =>
    have hm := ih h
    unfold releaseExtra at hm
    split at hm
    · exact hm
    · exact List.mem_of_mem_filter hm

/-- The EXTRA circuits met in a range (R103). -/
theorem mem_displacedBy {cap : Table Capacity} {keys : List Nat} {d : Nat} :
    d ∈ displacedBy cap keys ↔ ∃ key ∈ keys, look .free cap key = .extra d := by
  unfold displacedBy
  rw [List.mem_dedup, List.mem_filterMap]
  refine exists_congr (fun key => and_congr_right (fun _ => ?_))
  split
  · rename_i e he
    rw [he]
    simp
  · rename_i he
    simp only [reduceCtorEq, false_iff]
    exact he d

/-! ### Before the first candidate -/

/-- The capacity map reads, below span N, as the occupancy does (R97). -/
theorem look_capacityMap (i : PassInputs) {key : Nat} (h : key < 64 * i.n) :
    look .free (capacityMap i) key = (look .none i.occupancy key).capacity := by
  unfold capacityMap
  rw [show (Capacity.free) = Occupant.none.capacity from rfl, look_map_values Occupant.none Occupant.capacity]
  rw [look_filter]
  simpa [slotKey, Config.spanSlots] using h

/-- Every EXTRA entry of the capacity map is one of the occupancy (R97). -/
theorem mem_capacityMap_extra {i : PassInputs} {key d : Nat} (h : (key, Capacity.extra d) ∈ capacityMap i) :
    (key, Occupant.extra d) ∈ i.occupancy := by
  obtain ⟨⟨k, v⟩, hm, heq⟩ := List.mem_map.mp h
  obtain ⟨rfl, hv⟩ := Prod.mk.inj heq
  cases v with
  | extra e => obtain rfl := Capacity.extra.inj hv; exact List.mem_of_mem_filter hm
  | none => cases hv
  | working c => cases hv

theorem mem_downExtras {i : PassInputs} {d : Nat} :
    d ∈ downExtras i ↔ ∃ f, (d, f) ∈ i.circuits ∧ f.cls = .extra ∧ affected i f = true := by
  simp [downExtras]

/-- Once the affected EXTRA circuits have given up their slots, the slots of working circuits are theirs as before (R99). -/
theorem look_classifiedMap_working {i : PassInputs} {key c : Nat} (hkey : key < 64 * i.n)
    (h : look .none i.occupancy key = .working c) : look .free (classifiedMap i) key = .working c := by
  have hcap : look .free (capacityMap i) key = .working c := by rw [look_capacityMap i hkey, h]; rfl
  unfold classifiedMap
  rw [look_releaseAll (fun d _ => by rw [hcap]; exact Capacity.noConfusion), hcap]

/-- Once the affected EXTRA circuits have given up their slots, those of any other circuit are its as before (R99). -/
theorem look_classifiedMap_extra {i : PassInputs} {key d : Nat} (hkey : key < 64 * i.n)
    (h : look .none i.occupancy key = .extra d) (hd : d ∉ downExtras i) : look .free (classifiedMap i) key = .extra d := by
  have hcap : look .free (capacityMap i) key = .extra d := by rw [look_capacityMap i hkey, h]; rfl
  unfold classifiedMap
  rw [look_releaseAll (fun x hx heq => hd (Capacity.extra.inj (hcap.symm.trans heq) ▸ hx)), hcap]

end Sys2Proof.Machine
end

section
/-! PROOF. The placing of the candidates (R100 to R104): the start each is given, and what holds after each placement. -/

namespace Sys2Proof.Machine

/-! ### One candidate -/

/-- Step 4 before its first candidate (R100). -/
def PassInputs.unplaced (i : PassInputs) : Placing := { cap := classifiedMap i, grants := [], preempted := [], unplaced := [] }

/-- Step 4 once some candidates have been placed, in order (R100). -/
def PassInputs.placing (i : PassInputs) (done : List (Nat × CircuitFields)) : Placing := done.foldl (placeOne i) i.unplaced

/-- The slots a circuit's grant at start `x` takes, on the spans of its restoration route (R103). -/
def PassInputs.grantSlots (i : PassInputs) (f : CircuitFields) (x : Nat) : List Nat :=
  rangeKeys (f.restorationRoute i.n) x f.width

theorem placeOne_some {i : PassInputs} {p : Placing} {e : Nat × CircuitFields} {x : Nat} (h : chosenStart i p.cap e.1 e.2 = some x) :
    placeOne i p e = { p with
      cap := (displacedBy p.cap (i.grantSlots e.2 x)).foldl (releaseExtra i) (grantKeys e.1 (i.grantSlots e.2 x) p.cap)
      grants := p.grants ++ [(e.1, x)]
      preempted := p.preempted ++ displacedBy p.cap (i.grantSlots e.2 x) } := by
  unfold placeOne
  rw [h]
  rfl

theorem placeOne_none {i : PassInputs} {p : Placing} {e : Nat × CircuitFields} (h : chosenStart i p.cap e.1 e.2 = none) :
    placeOne i p e = { p with unplaced := p.unplaced ++ [(e.1, reasonOf i e.2)] } := by
  unfold placeOne
  rw [h]

/-- A start that is usable in the free sweep is usable in the displacing one (R101). -/
theorem usable_displacing {i : PassInputs} {cap : Table Capacity} {displacing : Bool} {spans : List Nat} {width x : Nat}
    (h : usable i cap displacing spans width x = true) : usable i cap true spans width x = true := by
  obtain ⟨hopen, hgivable⟩ := (usable_iff ..).mp h
  refine (usable_iff ..).mpr ⟨hopen, fun k hk u hlow hhigh => ?_⟩
  have hslot := hgivable k hk u hlow hhigh
  cases displacing with
  | true => exact hslot
  | false => exact (givable_true_iff _).mpr (.inl ((givable_false_iff _).mp hslot))

/-- The old grant of a candidate is its start when it is usable (R102). -/
theorem chosenStart_sticky {i : PassInputs} {cap : Table Capacity} {c x : Nat} {f : CircuitFields} (hold : oldGrant i c = some x)
    (h : usable i cap true (f.restorationRoute i.n) f.width x = true) : chosenStart i cap c f = some x := by
  unfold chosenStart
  dsimp only
  rw [hold, Option.filter_some, if_pos h]
  rfl

/-- Without a usable old grant the free sweep gives the start, and after it the displacing one (R102). -/
theorem chosenStart_swept {i : PassInputs} {cap : Table Capacity} {c : Nat} {f : CircuitFields}
    (hold : ∀ x, oldGrant i c = some x → usable i cap true (f.restorationRoute i.n) f.width x = false) :
    chosenStart i cap c f = ((starts f.width).find? (usable i cap false (f.restorationRoute i.n) f.width)).or
      ((starts f.width).find? (usable i cap true (f.restorationRoute i.n) f.width)) := by
  have hsticky : (oldGrant i c).filter (usable i cap true (f.restorationRoute i.n) f.width) = none := by
    rw [Option.filter_eq_none_iff]
    exact fun x hx => by simp [hold x hx]
  unfold chosenStart
  dsimp only
  rw [hsticky, Option.none_or]

/-- The start a candidate is given is usable in the displacing sweep (R102). -/
theorem usable_of_chosenStart {i : PassInputs} {cap : Table Capacity} {c x : Nat} {f : CircuitFields}
    (h : chosenStart i cap c f = some x) : usable i cap true (f.restorationRoute i.n) f.width x = true := by
  unfold chosenStart at h
  dsimp only at h
  rcases Option.or_eq_some_iff.mp h with hsticky | ⟨_, hswept⟩
  · exact (Option.filter_eq_some_iff.mp hsticky).2
  · rcases Option.or_eq_some_iff.mp hswept with hfree | ⟨_, hdisplacing⟩
    · exact usable_displacing (List.find?_some hfree)
    · exact List.find?_some hdisplacing

/-! ### What holds after each placement -/

/-- After the candidates `done`: the slots of working circuits are theirs still; an EXTRA circuit has its slots still or is preempted,
and has them from the occupancy; each grant is of a candidate, on bands outside X, and has every slot of its range; and each EXTRA
circuit preempted had a slot in the range of a grant (R101, R103). -/
structure Placing.Sound (i : PassInputs) (done : List (Nat × CircuitFields)) (p : Placing) : Prop where
  numbers : (p.grants.map Prod.fst).Sublist (done.map Prod.fst)
  working : ∀ key c, look .free (classifiedMap i) key = .working c → look .free p.cap key = .working c
  extra : ∀ key d, look .free (classifiedMap i) key = .extra d → look .free p.cap key = .extra d ∨ d ∈ p.preempted
  listed : ∀ key d, (key, Capacity.extra d) ∈ p.cap → (key, Occupant.extra d) ∈ i.occupancy
  granted : ∀ c x, (c, x) ∈ p.grants → ∃ f, (c, f) ∈ done ∧ i.unbarred (f.restorationRoute i.n) f.width x ∧
    ∀ key ∈ i.grantSlots f x, look .free p.cap key = .granted c
  preempted : ∀ d ∈ p.preempted, ∃ c x f, (c, x) ∈ p.grants ∧ (c, f) ∈ done ∧
    ∃ key ∈ i.grantSlots f x, (key, Occupant.extra d) ∈ i.occupancy

theorem sound_unplaced (i : PassInputs) : Placing.Sound i [] i.unplaced where
  numbers := List.Sublist.refl _
  working _ _ := id
  extra _ _ := .inl
  listed _ _ h := mem_capacityMap_extra (mem_of_mem_releaseAll h)
  granted _ _ h := absurd h List.not_mem_nil
  preempted _ h := absurd h List.not_mem_nil

/-- A candidate without a usable start changes neither the capacity map nor the grants (R104). -/
theorem Placing.Sound.refused {i : PassInputs} {done : List (Nat × CircuitFields)} {p : Placing} (h : Placing.Sound i done p)
    (e : Nat × CircuitFields) (l : List (Nat × Reason)) : Placing.Sound i (done ++ [e]) { p with unplaced := l } where
  numbers := h.numbers.trans ((List.sublist_append_left _ _).map _)
  working := h.working
  extra := h.extra
  listed := h.listed
  granted c x hm := by
    obtain ⟨f, hf, hrest⟩ := h.granted c x hm
    exact ⟨f, List.mem_append_left _ hf, hrest⟩
  preempted d hd := by
    obtain ⟨c, x, f, hm, hf, hrest⟩ := h.preempted d hd
    exact ⟨c, x, f, hm, List.mem_append_left _ hf, hrest⟩

section
variable {i : PassInputs} {cap : Table Capacity} {e : Nat × CircuitFields} {x : Nat}

/-- The capacity map once candidate `e` has been placed at start `x` (R103). -/
def placedMap (i : PassInputs) (cap : Table Capacity) (e : Nat × CircuitFields) (x : Nat) : Table Capacity :=
  (displacedBy cap (i.grantSlots e.2 x)).foldl (releaseExtra i) (grantKeys e.1 (i.grantSlots e.2 x) cap)

/-- A placement gives the candidate every slot of its range. -/
theorem look_placedMap_mem {key : Nat} (h : key ∈ i.grantSlots e.2 x) : look .free (placedMap i cap e x) key = .granted e.1 := by
  have hgranted : look .free (grantKeys e.1 (i.grantSlots e.2 x) cap) key = .granted e.1 := by rw [look_grantKeys, if_pos h]
  unfold placedMap
  rw [look_releaseAll (fun d _ => by rw [hgranted]; exact Capacity.noConfusion), hgranted]

/-- A placement leaves every other slot but those of the EXTRA circuits met. -/
theorem look_placedMap_other {key : Nat} (hkey : key ∉ i.grantSlots e.2 x)
    (h : ∀ d ∈ displacedBy cap (i.grantSlots e.2 x), look .free cap key ≠ .extra d) :
    look .free (placedMap i cap e x) key = look .free cap key := by
  have hkept : look .free (grantKeys e.1 (i.grantSlots e.2 x) cap) key = look .free cap key := by rw [look_grantKeys, if_neg hkey]
  unfold placedMap
  rw [look_releaseAll (fun d hd => by rw [hkept]; exact h d hd), hkept]

/-- A placement at a usable start leaves every slot that is not givable. -/
theorem look_placedMap_kept {key : Nat} (hx : usable i cap true (e.2.restorationRoute i.n) e.2.width x = true)
    (h : (look .free cap key).givable true = false) : look .free (placedMap i cap e x) key = look .free cap key := by
  refine look_placedMap_other (fun hkey => ?_) (fun d _ heq => by rw [heq] at h; cases h)
  obtain ⟨k, hk, u, hlow, hhigh, rfl⟩ := mem_rangeKeys.mp hkey
  exact absurd (h.symm.trans (((usable_iff ..).mp hx).2 k hk u hlow hhigh)) Bool.noConfusion

end

/-- A candidate that is placed at a usable start (R103). -/
theorem Placing.Sound.placed {i : PassInputs} {done : List (Nat × CircuitFields)} {p : Placing} (h : Placing.Sound i done p)
    {e : Nat × CircuitFields} {x : Nat} (hx : usable i p.cap true (e.2.restorationRoute i.n) e.2.width x = true) :
    Placing.Sound i (done ++ [e]) { p with
      cap := placedMap i p.cap e x, grants := p.grants ++ [(e.1, x)]
      preempted := p.preempted ++ displacedBy p.cap (i.grantSlots e.2 x) } where
  numbers := by
    rw [List.map_append, List.map_append]
    exact h.numbers.append (List.Sublist.refl _)
  working key c hkey := by
    have hheld := h.working key c hkey
    rw [look_placedMap_kept hx (by rw [hheld]; rfl), hheld]
  extra key d hkey := by
    rcases h.extra key d hkey with hheld | hpreempted
    · by_cases hmet : d ∈ displacedBy p.cap (i.grantSlots e.2 x)
      · exact .inr (List.mem_append_right _ hmet)
      · refine .inl ((look_placedMap_other (fun hslot => hmet ?_) (fun d' hd' heq => hmet ?_)).trans hheld)
        · exact mem_displacedBy.mpr ⟨key, hslot, hheld⟩
        · exact Capacity.extra.inj (hheld.symm.trans heq) ▸ hd'
    · exact .inr (List.mem_append_left _ hpreempted)
  listed key d hm := by
    rcases mem_of_mem_grantKeys (mem_of_mem_releaseAll hm) with hgranted | hlisted
    · cases hgranted
    · exact h.listed key d hlisted
  granted c y hm := by
    rcases List.mem_append.mp hm with hold | hnew
    · obtain ⟨f, hf, hopen, hslots⟩ := h.granted c y hold
      refine ⟨f, List.mem_append_left _ hf, hopen, fun key hkey => ?_⟩
      have hheld := hslots key hkey
      rw [look_placedMap_kept hx (by rw [hheld]; rfl), hheld]
    · obtain ⟨rfl, rfl⟩ := Prod.mk.inj (List.mem_singleton.mp hnew)
      exact ⟨e.2, by simp, ((usable_iff ..).mp hx).1, fun key hkey => look_placedMap_mem hkey⟩
  preempted d hd := by
    rcases List.mem_append.mp hd with hold | hnew
    · obtain ⟨c, y, f, hm, hf, hslot⟩ := h.preempted d hold
      exact ⟨c, y, f, List.mem_append_left _ hm, List.mem_append_left _ hf, hslot⟩
    · obtain ⟨key, hkey, hmet⟩ := mem_displacedBy.mp hnew
      exact ⟨e.1, x, e.2, by simp, by simp, key, hkey, h.listed key d (mem_of_look hmet Capacity.noConfusion)⟩

theorem Placing.Sound.step {i : PassInputs} {done : List (Nat × CircuitFields)} {p : Placing} (h : Placing.Sound i done p)
    (e : Nat × CircuitFields) : Placing.Sound i (done ++ [e]) (placeOne i p e) := by
  cases hx : chosenStart i p.cap e.1 e.2 with
  | none =>
    rw [placeOne_none hx]
    exact h.refused e _
  | some x =>
    rw [placeOne_some hx]
    exact h.placed (usable_of_chosenStart hx)

theorem sound_placing (i : PassInputs) (done : List (Nat × CircuitFields)) : Placing.Sound i done (i.placing done) := by
  induction done using List.reverseRecOn with
  | nil => exact sound_unplaced i
  | append_singleton done e ih =>
    unfold PassInputs.placing
    rw [List.foldl_append]
    exact ih.step e

/-- After step 4 (R100). -/
theorem sound_placeAll (i : PassInputs) : Placing.Sound i (candidates i) (placeAll i) := sound_placing i (candidates i)

end Sys2Proof.Machine
end

section
/-! PROOF. The result of a pass (O39): its grants and states read off the placing of the candidates (R97 to R105). -/

namespace Sys2Proof.Machine

/-! ### What a placing holds of each circuit -/

theorem lookup_cons_eq {β : Type} (k : Nat) (v : β) (l : List (Nat × β)) (c : Nat) :
    ((k, v) :: l).lookup c = if c = k then some v else l.lookup c := by
  rw [List.lookup_cons]
  by_cases h : c = k
  · rw [beq_iff_eq.mpr h, if_pos h]
  · rw [beq_false_of_ne h, if_neg h]

/-- In a list of distinct numbers, what stands for a number is what is found for it. -/
theorem lookup_eq_some_iff_mem {β : Type} {l : List (Nat × β)} (h : (l.map Prod.fst).Nodup) {c : Nat} {v : β} :
    l.lookup c = some v ↔ (c, v) ∈ l := by
  induction l with
  | nil => simp
  | cons e l ih =>
    obtain ⟨k, w⟩ := e
    rw [List.map_cons, List.nodup_cons] at h
    obtain ⟨hk, hl⟩ := h
    rw [lookup_cons_eq, List.mem_cons, Prod.mk.injEq]
    by_cases hc : c = k
    · subst hc
      have hnot : (c, v) ∉ l := fun hm => hk (List.mem_map.mpr ⟨_, hm, rfl⟩)
      simp [hnot, eq_comm]
    · simp [hc, ih hl]

theorem lookup_append_other {β : Type} (l : List (Nat × β)) {k c : Nat} (v : β) (h : c ≠ k) :
    (l ++ [(k, v)]).lookup c = l.lookup c := by
  rw [List.lookup_append, lookup_cons_eq, if_neg h, List.lookup_nil, Option.or_none]

theorem lookup_append_self {β : Type} {l : List (Nat × β)} {k : Nat} (v : β) (h : l.lookup k = none) :
    (l ++ [(k, v)]).lookup k = some v := by
  rw [List.lookup_append, h, lookup_cons_eq, if_pos rfl, Option.none_or]

/-- Placing another candidate leaves what is held of a circuit (R103, R104). -/
theorem lookup_placeOne {i : PassInputs} {p : Placing} {e : Nat × CircuitFields} {c : Nat} (h : c ≠ e.1) :
    (placeOne i p e).grants.lookup c = p.grants.lookup c ∧ (placeOne i p e).unplaced.lookup c = p.unplaced.lookup c := by
  cases hx : chosenStart i p.cap e.1 e.2 with
  | none =>
    rw [placeOne_none hx]
    exact ⟨rfl, lookup_append_other _ _ h⟩
  | some x =>
    rw [placeOne_some hx]
    exact ⟨lookup_append_other _ _ h, rfl⟩

theorem lookup_placeRest {i : PassInputs} {l : List (Nat × CircuitFields)} {p : Placing} {c : Nat} (h : c ∉ l.map Prod.fst) :
    (l.foldl (placeOne i) p).grants.lookup c = p.grants.lookup c ∧
      (l.foldl (placeOne i) p).unplaced.lookup c = p.unplaced.lookup c := by
  induction l generalizing p with
  | nil => exact ⟨rfl, rfl⟩
  | cons e l ih =>
    rw [List.map_cons, List.mem_cons, not_or] at h
    obtain ⟨he, hl⟩ := h
    obtain ⟨hgrants, hunplaced⟩ := lookup_placeOne (i := i) (p := p) he
    obtain ⟨hgrants', hunplaced'⟩ := ih (p := placeOne i p e) hl
    exact ⟨hgrants'.trans hgrants, hunplaced'.trans hunplaced⟩

section
variable {i : PassInputs} {before after : List (Nat × CircuitFields)} {e : Nat × CircuitFields}
  (hnodup : ((candidates i).map Prod.fst).Nodup) (hsplit : candidates i = before ++ e :: after)
include hnodup hsplit

/-- What is held of a candidate in the end is what its own placement gives (R102, R104). -/
theorem lookup_placeAll :
    (placeAll i).grants.lookup e.1 = (placeOne i (i.placing before) e).grants.lookup e.1 ∧
      (placeAll i).unplaced.lookup e.1 = (placeOne i (i.placing before) e).unplaced.lookup e.1 ∧
      (i.placing before).grants.lookup e.1 = none ∧ (i.placing before).unplaced.lookup e.1 = none := by
  rw [hsplit, List.map_append, List.map_cons] at hnodup
  obtain ⟨_, hrest, hacross⟩ := List.nodup_append.mp hnodup
  have hbefore : e.1 ∉ before.map Prod.fst := fun hm => hacross e.1 hm e.1 List.mem_cons_self rfl
  have hafter : e.1 ∉ after.map Prod.fst := (List.nodup_cons.mp hrest).1
  have hall : placeAll i = after.foldl (placeOne i) (placeOne i (i.placing before) e) := by
    show (candidates i).foldl (placeOne i) i.unplaced = _
    rw [hsplit, List.foldl_append]
    rfl
  obtain ⟨hgrants, hunplaced⟩ := lookup_placeRest (i := i) (p := placeOne i (i.placing before) e) hafter
  obtain ⟨hnone, hnone'⟩ := lookup_placeRest (i := i) (p := i.unplaced) hbefore
  rw [hall]
  exact ⟨hgrants, hunplaced, hnone, hnone'⟩

/-- A candidate's start is the one chosen for it in the capacity left by those before it (R100 to R102). -/
theorem lookup_placeAll_grants : (placeAll i).grants.lookup e.1 = chosenStart i (i.placing before).cap e.1 e.2 := by
  obtain ⟨hgrants, _, hnone, _⟩ := lookup_placeAll hnodup hsplit
  rw [hgrants]
  cases hx : chosenStart i (i.placing before).cap e.1 e.2 with
  | none => rw [placeOne_none hx]; exact hnone
  | some x => rw [placeOne_some hx]; exact lookup_append_self x hnone

/-- A candidate without a start has the reason of R104. -/
theorem lookup_placeAll_unplaced (h : chosenStart i (i.placing before).cap e.1 e.2 = none) :
    (placeAll i).unplaced.lookup e.1 = some (reasonOf i e.2) := by
  obtain ⟨_, hunplaced, _, hnone⟩ := lookup_placeAll hnodup hsplit
  rw [hunplaced, placeOne_none h]
  exact lookup_append_self _ hnone

end

/-! ### Grants and states of the result -/

section
variable {i : PassInputs} (hnodup : (i.circuits.map Prod.fst).Nodup)
include hnodup

theorem eq_of_mem_circuits {c : Nat} {f g : CircuitFields} (hf : (c, f) ∈ i.circuits) (hg : (c, g) ∈ i.circuits) : f = g :=
  (Prod.mk.inj (List.inj_on_of_nodup_map hnodup hf hg rfl)).2

/-- The grants of the result are those of the placing (R103, R105). -/
theorem mem_grants_iff_placed {c x : Nat} : { circuit := c, start := x } ∈ (computePass i).grants ↔ (c, x) ∈ (placeAll i).grants := by
  have hsound := sound_placeAll i
  rw [mem_grants, lookup_eq_some_iff_mem ((nodup_candidates hnodup).sublist hsound.numbers)]
  refine and_iff_right_of_imp (fun hm => ?_)
  obtain ⟨f, hf, _⟩ := hsound.granted c x hm
  exact ⟨f, (mem_candidates.mp hf).1⟩

/-- A circuit of the inputs takes one state (R105). -/
theorem mem_outcomes_iff {c : Nat} {f : CircuitFields} (hc : (c, f) ∈ i.circuits) (r : Restoration) :
    { circuit := c, restoration := r } ∈ (computePass i).outcomes ↔ r = restorationOf i (placeAll i) c f := by
  rw [mem_outcomes]
  refine ⟨?_, fun h => ⟨f, hc, h⟩⟩
  rintro ⟨g, hg, rfl⟩
  rw [eq_of_mem_circuits hnodup hc hg]

/-- What a grant has: it is of a candidate, on bands outside X, and it has every slot of its range (R101, R103). -/
theorem grant_placed {g : Grant} (hg : g ∈ (computePass i).grants) : ∃ f, (g.circuit, f) ∈ i.circuits ∧
    f.cls.guarded = true ∧ affected i f = true ∧ i.unbarred (f.restorationRoute i.n) f.width g.start ∧
    ∀ key ∈ i.grantSlots f g.start, look .free (placeAll i).cap key = .granted g.circuit := by
  obtain ⟨f, hf, hopen, hslots⟩ := (sound_placeAll i).granted _ _ ((mem_grants_iff_placed hnodup).mp hg)
  obtain ⟨hc, hguarded, haffected⟩ := mem_candidates.mp hf
  exact ⟨f, hc, hguarded, haffected, hopen, hslots⟩

end

/-- A slot of a grant on a span of its route lies below span N. -/
theorem key_lt_of_grant {i : PassInputs} {f : CircuitFields} {x k u : Nat} (hn : 2 ≤ i.n)
    (hopen : i.unbarred (f.restorationRoute i.n) f.width x) (hk : k ∈ f.restorationRoute i.n) (hu : u < x + f.width) :
    64 * k + u < 64 * i.n := by
  have hspan := lt_of_mem_route (by omega) hk
  have hfits := hopen.1
  omega

/-- An EXTRA circuit whose slot a grant takes is preempted, unless it was DOWN before (R99, R103). -/
theorem preempted_of_grant {i : PassInputs} {key d c : Nat} (hkey : key < 64 * i.n) (hd : d ∉ downExtras i)
    (hoccupied : look .none i.occupancy key = .extra d) (hslot : look .free (placeAll i).cap key = .granted c) :
    d ∈ (placeAll i).preempted := by
  rcases (sound_placeAll i).extra key d (look_classifiedMap_extra hkey hoccupied hd) with hheld | hpreempted
  · cases hheld.symm.trans hslot
  · exact hpreempted

/-- A slot that a grant takes is not one of a working circuit (R97, R101). -/
theorem not_working_of_grant {i : PassInputs} {key c : Nat} (hkey : key < 64 * i.n)
    (hslot : look .free (placeAll i).cap key = .granted c) (d : Nat) : look .none i.occupancy key ≠ .working d := fun hworking => by
  have hheld := (sound_placeAll i).working key d (look_classifiedMap_working hkey hworking)
  cases hheld.symm.trans hslot

/-! ### The state of each circuit -/

section
variable {i : PassInputs} {p : Placing} {c : Nat} {f : CircuitFields}

theorem restorationOf_candidate (ha : affected i f = true) (hg : f.cls.guarded = true) : restorationOf i p c f =
    match p.grants.lookup c with
    | some s => .restored s
    | none => .unrestored ((p.unplaced.lookup c).getD .noCapacity) := by
  unfold restorationOf
  exact (if_pos ha).trans (if_pos hg)

theorem restorationOf_down (ha : affected i f = true) (hg : f.cls.guarded = false) : restorationOf i p c f = .down := by
  unfold restorationOf
  rw [if_pos ha, if_neg (by simp [hg])]

theorem restorationOf_unaffected (ha : affected i f = false) :
    restorationOf i p c f = if c ∈ p.preempted then .preempted else .normal := by
  unfold restorationOf
  rw [if_neg (by simp [ha])]
  simp

end

end Sys2Proof.Machine
end

section
/-! PROOF. The starts and reasons of a pass in the words of R101, R102 and R104, and the statement (O39). -/

namespace Sys2Proof.Machine

/-! ### Starts -/

theorem usable_free_iff (i : PassInputs) (cap : Table Capacity) (spans : List Nat) (width x : Nat) :
    usable i cap false spans width x = true ↔ i.unbarred spans width x ∧
      ∀ k ∈ spans, ∀ u, x ≤ u → u < x + width → look .free cap (64 * k + u) = .free := by
  simp only [usable_iff, givable_false_iff]

theorem usable_displacing_iff (i : PassInputs) (cap : Table Capacity) (spans : List Nat) (width x : Nat) :
    usable i cap true spans width x = true ↔ i.unbarred spans width x ∧ ∀ k ∈ spans, ∀ u, x ≤ u → u < x + width →
      look .free cap (64 * k + u) = .free ∨ ∃ d, look .free cap (64 * k + u) = .extra d := by
  simp only [usable_iff, givable_true_iff]

/-- A sweep finds the lowest usable start (R102). -/
theorem sweep_eq_some {i : PassInputs} {cap : Table Capacity} {displacing : Bool} {spans : List Nat} {width x : Nat}
    (h : usable i cap displacing spans width x = true) (hlow : ∀ y, y < x → ¬usable i cap displacing spans width y = true) :
    (starts width).find? (usable i cap displacing spans width) = some x := by
  unfold starts
  rw [List.find?_range_eq_some]
  exact ⟨h, mem_starts.mpr ((usable_iff ..).mp h).1.1, fun y hy => by simpa using hlow y hy⟩

theorem sweep_eq_none {i : PassInputs} {cap : Table Capacity} {displacing : Bool} {spans : List Nat} {width : Nat}
    (h : ∀ x, ¬usable i cap displacing spans width x = true) :
    (starts width).find? (usable i cap displacing spans width) = none :=
  List.find?_eq_none.mpr (fun x _ => h x)

/-! ### Reasons -/

/-- A circuit with a span of each route barred or blocked in all four bands (R104). -/
def PassInputs.isolated (i : PassInputs) (f : CircuitFields) : Prop :=
  (∃ k ∈ f.restorationRoute i.n, ∀ b : Fin 4, memberOf i.x k b = true) ∧
    ∃ k ∈ f.workingRoute i.n, ∀ b : Fin 4, memberOf i.w k b = true

theorem isolated_iff (i : PassInputs) (f : CircuitFields) :
    ((f.restorationRoute i.n).any (fun k => look noBands i.x k == allBands) &&
      (f.workingRoute i.n).any (fun k => look noBands i.w k == allBands)) = true ↔ i.isolated f := by
  unfold PassInputs.isolated memberOf
  simp only [Bool.and_eq_true, List.any_eq_true, beq_iff_eq, Quad.eq_all_iff]

theorem barred_iff (i : PassInputs) (spans : List Nat) (width : Nat) :
    (starts width).all (fun x => !bandsOpen i spans x width) = true ↔ ∀ x, ¬i.unbarred spans width x := by
  unfold PassInputs.unbarred
  simp only [List.all_eq_true, mem_starts, Bool.not_eq_true', ← Bool.not_eq_true, bandsOpen_iff, not_and]

/-- R104's first reason that holds. -/
theorem reasonOf_cases (i : PassInputs) (f : CircuitFields) :
    (i.isolated f → reasonOf i f = .isolated) ∧
      (¬i.isolated f → (∀ x, ¬i.unbarred (f.restorationRoute i.n) f.width x) → reasonOf i f = .routeBarred) ∧
      (¬i.isolated f → (∃ x, i.unbarred (f.restorationRoute i.n) f.width x) → reasonOf i f = .noCapacity) := by
  unfold reasonOf
  dsimp only
  refine ⟨fun h => if_pos ((isolated_iff i f).mpr h), fun h hbarred => ?_, fun h ⟨x, hx⟩ => ?_⟩
  · rw [if_neg (mt (isolated_iff i f).mp h), if_pos ((barred_iff ..).mpr hbarred)]
  · rw [if_neg (mt (isolated_iff i f).mp h), if_neg (fun hall => (barred_iff ..).mp hall x hx)]

theorem nodup_of_tableWf {α : Type} [DecidableEq α] {d : α} {t : Table α} (h : tableWf d t = true) : (t.map Prod.fst).Nodup := by
  induction t with
  | nil => exact List.nodup_nil
  | cons e rest ih =>
    obtain ⟨_, hlow, hrest⟩ := (tableWf_cons d e rest).mp h
    rw [List.map_cons, List.nodup_cons]
    refine ⟨fun hm => ?_, ih hrest⟩
    obtain ⟨x, hx, heq⟩ := List.mem_map.mp hm
    exact absurd heq (hlow x hx).ne'

/-! ### The states of affected and unaffected circuits -/

section
variable {i : PassInputs} (hnodup : (i.circuits.map Prod.fst).Nodup) {c : Nat} {f : CircuitFields} (hc : (c, f) ∈ i.circuits)
include hnodup hc

/-- An affected guarded circuit is RESTORED at the start of its grant, and UNRESTORED without one (R105). -/
theorem states_of_candidate (ha : affected i f = true) (hg : f.cls.guarded = true) :
    (∀ x, { circuit := c, restoration := .restored x } ∈ (computePass i).outcomes ↔
        { circuit := c, start := x } ∈ (computePass i).grants) ∧
      ((∀ x, { circuit := c, start := x } ∉ (computePass i).grants) →
        ∃ r, { circuit := c, restoration := .unrestored r } ∈ (computePass i).outcomes) := by
  have hgrant : ∀ x, { circuit := c, start := x } ∈ (computePass i).grants ↔ (placeAll i).grants.lookup c = some x := fun x => by
    rw [mem_grants]
    exact and_iff_right ⟨f, hc⟩
  simp only [mem_outcomes_iff hnodup hc, hgrant, restorationOf_candidate ha hg]
  cases (placeAll i).grants.lookup c with
  | none => exact ⟨fun x => by simp, fun _ => ⟨_, rfl⟩⟩
  | some s => exact ⟨fun x => by simp [eq_comm], fun h => absurd rfl (h s)⟩

/-- An unaffected circuit is preempted exactly when a grant takes a slot that it holds as EXTRA (R103). -/
theorem mem_preempted_iff (hn : 2 ≤ i.n) (hwf : tableWf .none i.occupancy = true) (ha : affected i f = false) :
    c ∈ (placeAll i).preempted ↔ ∃ g ∈ (computePass i).grants, ∃ fg, (g.circuit, fg) ∈ i.circuits ∧
      ∃ k ∈ fg.restorationRoute i.n, ∃ u, g.start ≤ u ∧ u < g.start + fg.width ∧
        look .none i.occupancy (64 * k + u) = .extra c := by
  constructor
  · intro hpreempted
    obtain ⟨d, x, fd, hgrant, hd, key, hkey, hlisted⟩ := (sound_placeAll i).preempted c hpreempted
    obtain ⟨k, hk, u, hlow, hhigh, rfl⟩ := mem_rangeKeys.mp hkey
    exact ⟨{ circuit := d, start := x }, (mem_grants_iff_placed hnodup).mpr hgrant, fd, (mem_candidates.mp hd).1, k, hk, u, hlow,
      hhigh, look_of_mem .none (nodup_of_tableWf hwf) hlisted⟩
  · rintro ⟨g, hg, fg, hfg, k, hk, u, hlow, hhigh, hoccupied⟩
    obtain ⟨f', hf', _, _, hopen, hslots⟩ := grant_placed hnodup hg
    obtain rfl := eq_of_mem_circuits hnodup hfg hf'
    have hnotDown : c ∉ downExtras i := fun hdown => by
      obtain ⟨f'', hf'', _, ha''⟩ := mem_downExtras.mp hdown
      rw [eq_of_mem_circuits hnodup hf'' hc, ha] at ha''
      cases ha''
    exact preempted_of_grant (key_lt_of_grant hn hopen hk hhigh) hnotDown hoccupied
      (hslots _ (mem_rangeKeys.mpr ⟨k, hk, u, hlow, hhigh, rfl⟩))

end

end Sys2Proof.Machine
end

section
/-! PROOF. The grants of a pass are sound (O39). -/

namespace Sys2Proof.Machine

/-! ### The clauses -/

section
variable {i : PassInputs} (hn : 2 ≤ i.n) (hnodup : (i.circuits.map Prod.fst).Nodup)
include hn hnodup

/-- What a grant takes of the slots of others: none of a working circuit, and one of an EXTRA circuit only when that is PREEMPTED or
DOWN (R99, R101, R103). -/
theorem grant_slots_sound {g : Grant} (hg : g ∈ (computePass i).grants) {f : CircuitFields} (hf : (g.circuit, f) ∈ i.circuits)
    {k u : Nat} (hk : k ∈ f.restorationRoute i.n) (hlow : g.start ≤ u) (hhigh : u < g.start + f.width) :
    (∀ c, look .none i.occupancy (64 * k + u) ≠ .working c) ∧
      ∀ e fe, look .none i.occupancy (64 * k + u) = .extra e → (e, fe) ∈ i.circuits → fe.cls = .extra →
        { circuit := e, restoration := .preempted } ∈ (computePass i).outcomes ∨
          { circuit := e, restoration := .down } ∈ (computePass i).outcomes := by
  obtain ⟨f', hf', _, _, hopen, hslots⟩ := grant_placed hnodup hg
  obtain rfl := eq_of_mem_circuits hnodup hf hf'
  have hkey := key_lt_of_grant hn hopen hk hhigh
  have hslot := hslots (64 * k + u) (mem_rangeKeys.mpr ⟨k, hk, u, hlow, hhigh, rfl⟩)
  refine ⟨not_working_of_grant hkey hslot, fun e fe hoccupied he hcls => ?_⟩
  simp only [mem_outcomes_iff hnodup he]
  cases ha : affected i fe with
  | true => exact .inr (restorationOf_down ha (by rw [hcls]; rfl)).symm
  | false =>
    have hnotDown : e ∉ downExtras i := fun hdown => by
      obtain ⟨f'', hf'', _, ha''⟩ := mem_downExtras.mp hdown
      rw [eq_of_mem_circuits hnodup hf'' he, ha] at ha''
      cases ha''
    rw [restorationOf_unaffected ha, if_pos (preempted_of_grant hkey hnotDown hoccupied hslot)]
    exact .inl rfl

omit hn in
/-- No two grants share a slot of a span (R97, R101). -/
theorem grants_disjoint {g h : Grant} (hg : g ∈ (computePass i).grants) (hh : h ∈ (computePass i).grants)
    (hne : g.circuit ≠ h.circuit) {fg fh : CircuitFields} (hfg : (g.circuit, fg) ∈ i.circuits) (hfh : (h.circuit, fh) ∈ i.circuits)
    {k : Nat} (hkg : k ∈ fg.restorationRoute i.n) (hkh : k ∈ fh.restorationRoute i.n) (u : Nat) :
    ¬(g.start ≤ u ∧ u < g.start + fg.width ∧ h.start ≤ u ∧ u < h.start + fh.width) := by
  rintro ⟨hglow, hghigh, hhlow, hhhigh⟩
  obtain ⟨fg', hfg', _, _, _, hgslots⟩ := grant_placed hnodup hg
  obtain ⟨fh', hfh', _, _, _, hhslots⟩ := grant_placed hnodup hh
  obtain rfl := eq_of_mem_circuits hnodup hfg hfg'
  obtain rfl := eq_of_mem_circuits hnodup hfh hfh'
  have hgslot := hgslots (64 * k + u) (mem_rangeKeys.mpr ⟨k, hkg, u, hglow, hghigh, rfl⟩)
  have hhslot := hhslots (64 * k + u) (mem_rangeKeys.mpr ⟨k, hkh, u, hhlow, hhhigh, rfl⟩)
  exact hne (Capacity.granted.inj (hgslot.symm.trans hhslot))

end

section
variable {i : PassInputs} (hnodup : (i.circuits.map Prod.fst).Nodup) {before after : List (Nat × CircuitFields)}
  {e : Nat × CircuitFields} (hsplit : candidates i = before ++ e :: after)
include hnodup hsplit

/-- The start chosen for a candidate is its grant (R102, R105). -/
theorem granted_of_chosen {x : Nat} (h : chosenStart i (i.placing before).cap e.1 e.2 = some x) :
    { circuit := e.1, start := x } ∈ (computePass i).grants := by
  have he : e ∈ candidates i := hsplit ▸ List.mem_append_right _ List.mem_cons_self
  rw [mem_grants, lookup_placeAll_grants (nodup_candidates hnodup) hsplit]
  exact ⟨⟨e.2, (mem_candidates.mp he).1⟩, h⟩

/-- A candidate for which no start is chosen is UNRESTORED with R104's reason (R104, R105). -/
theorem refused_of_unchosen (h : chosenStart i (i.placing before).cap e.1 e.2 = none) :
    { circuit := e.1, restoration := .unrestored (reasonOf i e.2) } ∈ (computePass i).outcomes := by
  have he : e ∈ candidates i := hsplit ▸ List.mem_append_right _ List.mem_cons_self
  obtain ⟨hc, hguarded, haffected⟩ := mem_candidates.mp he
  rw [mem_outcomes_iff hnodup hc, restorationOf_candidate haffected hguarded,
    lookup_placeAll_grants (nodup_candidates hnodup) hsplit, h, lookup_placeAll_unplaced (nodup_candidates hnodup) hsplit h]
  rfl

/-- What a candidate's turn comes to without a usable old grant: the lowest free start, else the lowest displacing one, else
UNRESTORED (R102, R104). -/
theorem swept_in_turn {free displacing : Nat → Prop}
    (hfree : ∀ x, usable i (i.placing before).cap false (e.2.restorationRoute i.n) e.2.width x = true ↔ free x)
    (hdisplacing : ∀ x, usable i (i.placing before).cap true (e.2.restorationRoute i.n) e.2.width x = true ↔ displacing x)
    (hold : ∀ x, oldGrant i e.1 = some x → ¬displacing x) :
    (∀ x, free x → (∀ y, y < x → ¬free y) → { circuit := e.1, start := x } ∈ (computePass i).grants) ∧
      ((∀ x, ¬free x) →
        (∀ x, displacing x → (∀ y, y < x → ¬displacing y) → { circuit := e.1, start := x } ∈ (computePass i).grants) ∧
          ((∀ x, ¬displacing x) →
            { circuit := e.1, restoration := .unrestored (reasonOf i e.2) } ∈ (computePass i).outcomes)) := by
  have hchosen := chosenStart_swept (fun x hx => Bool.eq_false_iff.mpr (mt (hdisplacing x).mp (hold x hx)))
  simp only [← hfree, ← hdisplacing]
  refine ⟨fun x hx hlow => granted_of_chosen hnodup hsplit ?_, fun hnone =>
    ⟨fun x hx hlow => granted_of_chosen hnodup hsplit ?_, fun hnever => refused_of_unchosen hnodup hsplit ?_⟩⟩
  · rw [hchosen, sweep_eq_some hx hlow, Option.some_or]
  · rw [hchosen, sweep_eq_none hnone, Option.none_or, sweep_eq_some hx hlow]
  · rw [hchosen, sweep_eq_none hnone, Option.none_or, sweep_eq_none hnever]

end

/-- The grants stand in the order of the circuits (R105). -/
theorem grants_sublist (i : PassInputs) : ((computePass i).grants.map Grant.circuit).Sublist (i.circuits.map Prod.fst) := by
  unfold computePass
  dsimp only
  induction i.circuits with
  | nil => exact List.Sublist.refl _
  | cons e rest ih =>
    cases hlookup : (placeAll i).grants.lookup e.1 with
    | none => simpa [hlookup] using ih.cons e.1
    | some x => simpa [hlookup] using ih.cons_cons e.1

/-- Settles O39: `Placing.Sound` holds after each placement, so the grants are sound; the start and the reason of a candidate are those of
its own turn; and the states follow from what the placing holds in the end. -/
theorem passGrantsAreSound : Obligations.PassGrantsAreSound := by
  intro i hn hnodup
  refine ⟨?_, grants_sublist i, fun e he => ?_, fun g hg => ?_,
    fun g hg h hh hne fg fh hfg hfh k hkg hkh => grants_disjoint hnodup hg hh hne hfg hfh hkg hkh, fun e => mem_candidates,
    candidates_pairwise, fun before e after hsplit => ?_⟩
  · unfold computePass
    dsimp only
    rw [List.map_map]
    rfl
  · intro takes displaced
    refine ⟨affected_iff i, states_of_candidate hnodup he, fun ha hg => ?_, fun ha hwf => ?_⟩
    · exact (mem_outcomes_iff hnodup he _).mpr (restorationOf_down ha hg).symm
    · have hdisplaced : e.1 ∈ (placeAll i).preempted ↔ displaced := mem_preempted_iff hnodup he hn hwf ha
      have htakes : ∀ r, takes r ↔ r = restorationOf i (placeAll i) e.1 e.2 := mem_outcomes_iff hnodup he
      rw [← hdisplaced, htakes, htakes, restorationOf_unaffected ha]
      exact ⟨fun h => (if_pos h).symm, fun h => (if_neg h).symm⟩
  · obtain ⟨f, hf, hguarded, haffected, ⟨hfits, hopen⟩, _⟩ := grant_placed hnodup hg
    refine ⟨f, hf, hguarded, haffected, hfits, fun k hk => ⟨(hopen k hk).1, (hopen k hk).2, fun u hlow hhigh => ?_⟩⟩
    exact grant_slots_sound hn hnodup hg hf hk hlow hhigh
  · intro cap spans unbarred free displacing old granted refused isolated
    have hfree : ∀ x, usable i cap false spans e.2.width x = true ↔ free x := usable_free_iff i cap spans e.2.width
    have hdisplacing : ∀ x, usable i cap true spans e.2.width x = true ↔ displacing x := usable_displacing_iff i cap spans e.2.width
    refine ⟨fun x hold hx => granted_of_chosen hnodup hsplit (chosenStart_sticky hold ((hdisplacing x).mpr hx)), fun hold => ?_⟩
    obtain ⟨hgrantFree, hnoFree⟩ := swept_in_turn hnodup hsplit hfree hdisplacing hold
    obtain ⟨hisolated, hbarred, hcapacity⟩ := reasonOf_cases i e.2
    refine ⟨hgrantFree, fun hnone => ⟨(hnoFree hnone).1, fun hnever => ?_⟩⟩
    have hrefused : ∀ {r}, reasonOf i e.2 = r → refused r := fun heq => heq ▸ (hnoFree hnone).2 hnever
    exact ⟨fun h => hrefused (hisolated h), fun h hx => hrefused (hbarred h hx), fun h hx => hrefused (hcapacity h hx)⟩

end Sys2Proof.Machine
end

section
/-! PROOF. Span plans (O40 to O42): a pass reads W and X span by span, so that the sets of a cut span and the hypothetical sets of that
span's plan give one result (R113, R115, R119, R120); the start and the end of a build (R114 to R118). -/

namespace Sys2Proof.Machine

/-! ### The sets that a pass reads -/

section
variable {i : PassInputs} {w x : Table (Quad Bool)}

theorem affected_congr (hw : ∀ k, look noBands w k = look noBands i.w k) : affected { i with w := w, x := x } = affected i := by
  funext f
  unfold affected memberOf
  simp only [hw]

theorem bandsOpen_congr (hx : ∀ k, look noBands x k = look noBands i.x k) :
    bandsOpen { i with w := w, x := x } = bandsOpen i := by
  funext spans start width
  unfold bandsOpen memberOf
  simp only [hx]

/-- The capacity left to the candidates hangs on which EXTRA circuits are affected, and otherwise not on the sets (R97, R99). -/
theorem classifiedMap_congr (hw : ∀ k, look noBands w k = look noBands i.w k) :
    classifiedMap { i with w := w, x := x } = classifiedMap i := by
  have hdown : downExtras { i with w := w, x := x } = downExtras i := by
    unfold downExtras
    rw [affected_congr hw]
  unfold classifiedMap
  rw [hdown]
  rfl

theorem candidates_congr (hw : ∀ k, look noBands w k = look noBands i.w k) :
    candidates { i with w := w, x := x } = candidates i := by
  unfold candidates candidatesOf
  rw [affected_congr hw]

theorem chosenStart_congr (hx : ∀ k, look noBands x k = look noBands i.x k) :
    chosenStart { i with w := w, x := x } = chosenStart i := by
  have husable : usable { i with w := w, x := x } = usable i := by
    funext cap displacing spans width start
    unfold usable
    rw [bandsOpen_congr hx]
  unfold chosenStart
  rw [husable]
  rfl

theorem reasonOf_congr (hw : ∀ k, look noBands w k = look noBands i.w k) (hx : ∀ k, look noBands x k = look noBands i.x k) :
    reasonOf { i with w := w, x := x } = reasonOf i := by
  funext f
  unfold reasonOf
  rw [bandsOpen_congr hx]
  simp only [hw, hx]

theorem placeAll_congr (hw : ∀ k, look noBands w k = look noBands i.w k) (hx : ∀ k, look noBands x k = look noBands i.x k) :
    placeAll { i with w := w, x := x } = placeAll i := by
  have hplace : placeOne { i with w := w, x := x } = placeOne i := by
    funext p e
    unfold placeOne
    rw [chosenStart_congr hx, reasonOf_congr hw hx]
    rfl
  unfold placeAll
  rw [hplace, candidates_congr hw, classifiedMap_congr hw]

/-- The result of a pass depends on W and X only through what they read as, span by span (R98, R101, R104). -/
theorem computePass_congr (hw : ∀ k, look noBands w k = look noBands i.w k) (hx : ∀ k, look noBands x k = look noBands i.x k) :
    computePass { i with w := w, x := x } = computePass i := by
  have hstate : restorationOf { i with w := w, x := x } = restorationOf i := by
    funext p c f
    unfold restorationOf
    rw [affected_congr hw]
  unfold computePass
  rw [placeAll_congr hw hx, hstate]

end

/-! ### The fast path -/

/-- No span outside the ring has a band in W or X (R43). -/
theorem bands_outside_ring {s : State} (hs : s.mapDerived) {k : Nat} (hk : 32 ≤ k) :
    s.map.bandsInW k = noBands ∧ s.map.bandsInX k = noBands := by
  have houtside : look .outside s.map.spans k = .outside := by
    rw [show s.map.spans = _ from hs, look_deriveSpans, if_neg (((spansOfRing_le _ _).trans hk).not_gt)]
  unfold FailureMap.bandsInW FailureMap.bandsInX
  rw [houtside]
  exact ⟨rfl, rfl⟩

theorem look_singleton {α : Type} (d v : α) (k j : Nat) : look d [(k, v)] j = if j = k then v else d := by
  rw [look_cons, look_nil]
  exact if_congr eq_comm rfl rfl

/-- In a derived map whose sets are one cut span, W and X read as the hypothetical sets of that span's plan (R115, R119). -/
theorem bands_of_cutSpan {s : State} {k : Nat} (hs : s.mapDerived) (hcut : s.map.cutSpan = some k) (j : Nat) :
    s.map.bandsInW j = look noBands [(k, allBands)] j ∧ s.map.bandsInX j = look noBands [(k, allBands)] j := by
  obtain ⟨hk, hbands⟩ := (cutSpan_eq_some _ _).mp hcut
  rw [look_singleton]
  rcases lt_or_ge j 32 with hj | hj
  · have hband := hbands j hj
    split
    · rename_i heq
      exact ⟨(Quad.eq_all_iff _).mpr fun b => (hband b).1.mpr heq, (Quad.eq_all_iff _).mpr fun b => (hband b).2.mpr heq⟩
    · rename_i hne
      simp only [hne, iff_false, Bool.not_eq_true] at hband
      exact ⟨(Quad.eq_none_iff _).mpr fun b => (hband b).1, (Quad.eq_none_iff _).mpr fun b => (hband b).2⟩
  · rw [if_neg (by omega)]
    exact bands_outside_ring hs hj

/-- Settles O40: without old grants a snapshot of the cut and the inputs of the plan's build differ in their sets alone, and those read
alike. -/
theorem fastPathEqualsThePass : Obligations.FastPathEqualsThePass := by
  intro s k hs hcut hgrants
  have hbuild : computePass (takeSnapshot s) = computePass (buildInputs k s) := by
    have hsnapshot : takeSnapshot s = { buildInputs k s with w := (takeSnapshot s).w, x := (takeSnapshot s).x } := by
      unfold takeSnapshot buildInputs
      rw [hgrants]
    rw [hsnapshot]
    refine computePass_congr (fun j => ?_) (fun j => ?_)
    · exact (look_map_values SpanEntry.outside SpanEntry.bandsInW s.map.spans j).trans (bands_of_cutSpan hs hcut j).1
    · exact (look_map_values SpanEntry.outside SpanEntry.bandsInX s.map.spans j).trans (bands_of_cutSpan hs hcut j).2
  refine ⟨hbuild, fun hplans g l o hvalid => ?_⟩
  obtain ⟨rfl, rfl⟩ := hplans k g l o hvalid
  exact hbuild

/-! ### The start of a build -/

/-- Both events of a build write one plan and the engine's state (R114, R116). -/
theorem plan_setEngine_setPlan (s : State) (e : EngineState) (k j : Nat) (v : Plan) :
    (setEngine e (s.setPlan k v)).plan j = if j = k then v else s.plan j := plan_setPlan s k j v

theorem lowestStale_eq_some {s : State} {k : Nat} :
    lowestStale s = some k ↔ s.plan k = .stale ∧ k < s.ringSize ∧ ∀ j, j < k → s.plan j ≠ .stale := by
  unfold lowestStale
  rw [List.find?_range_eq_some]
  simp

theorem buildStart_of_lowestStale {s : State} {k : Nat} (hidle : s.engine.state = .idle) (hruns : s.node.state.runs = true)
    (hlowest : lowestStale s = some k) :
    buildStart s = setEngine (.build k (buildInputs k s)) (s.setPlan k (.building s.table.generation)) := by
  unfold buildStart
  rw [hidle, hruns, hlowest]

/-- The hypothetical sets hold every band of the plan's span and nothing else (R115). -/
theorem memberOf_singleton (k j : Nat) (b : Fin 4) : memberOf [(k, allBands)] j b = true ↔ j = k := by
  unfold memberOf
  rw [look_singleton]
  split
  · rename_i h
    exact iff_of_true ((Quad.eq_all_iff allBands).mp rfl b) h
  · rename_i h
    exact iff_of_false (Bool.eq_false_iff.mp ((Quad.eq_none_iff noBands).mp rfl b)) h

/-- Settles O41: the lowest STALE plan is the one the engine finds, and its hypothetical sets are one table entry each. -/
theorem buildStartTakesTheLowestStalePlan : Obligations.BuildStartTakesTheLowestStalePlan := by
  intro s k hidle hruns hk hstale hlower
  refine ⟨buildStart s, buildInputs k s, rfl, ?_⟩
  rw [buildStart_of_lowestStale hidle hruns (lowestStale_eq_some.mpr ⟨hstale, hk, hlower⟩)]
  refine ⟨?_, fun j hj => ?_, rfl, rfl, fun j b => ⟨memberOf_singleton k j b, memberOf_singleton k j b⟩, rfl, rfl, rfl, rfl⟩
  · rw [plan_setEngine_setPlan, if_pos rfl]
  · rw [plan_setEngine_setPlan, if_neg hj]

/-! ### The end of a build -/

/-- The state at a build's end, before a report of the node: the plan VALID or STALE and the engine IDLE (R116). -/
def State.built (s : State) (k : Nat) (i : PassInputs) : State :=
  setEngine .idle (s.setPlan k (builtPlan s.table.generation (computePass i) (s.plan k)))

/-- A build's end raises a report of the node when the plans become ready by it, and else none (R116, R118). -/
theorem buildEnd_of_build {s : State} {k : Nat} {i : PassInputs} (h : s.engine.state = .build k i) :
    ((s.built k i).plansReady = true ∧ s.plansReady = false ∧ buildEnd s = raise .node (s.built k i)) ∨
      (¬((s.built k i).plansReady = true ∧ s.plansReady = false) ∧ buildEnd s = s.built k i) := by
  have hend : buildEnd s = if (s.built k i).plansReady && !s.plansReady then raise .node (s.built k i) else s.built k i := by
    unfold buildEnd
    rw [h]
    rfl
  rw [hend]
  split
  · rename_i hready
    rw [Bool.and_eq_true, Bool.not_eq_true'] at hready
    exact .inl ⟨hready.1, hready.2, rfl⟩
  · rename_i hready
    rw [Bool.and_eq_true, Bool.not_eq_true'] at hready
    exact .inr ⟨hready, rfl⟩

/-- Settles O42: with a report or without, the state is `State.built` but for the pending list. -/
theorem buildEndMakesThePlanValid : Obligations.BuildEndMakesThePlanValid := by
  intro s k i g hbuild hplan
  have hbuilt : (s.built k i).plan k =
      if g = s.table.generation then .valid g (computePass i).grants (computePass i).outcomes else .stale := by
    unfold State.built
    rw [plan_setEngine_setPlan, if_pos rfl, hplan]
    rfl
  have hother : ∀ j, j ≠ k → (s.built k i).plan j = s.plan j := fun j hj =>
    (plan_setEngine_setPlan ..).trans (if_neg hj)
  refine ⟨buildEnd s, rfl, ?_⟩
  rcases buildEnd_of_build hbuild with ⟨hready, hunready, hend⟩ | ⟨hsame, hend⟩ <;> rw [hend]
  · have hreported : reported .node (raise .node (s.built k i)) := fun henabled =>
      mem_raise _ _ (by rwa [settings_of_table (s := s.built k i) (by simp)] at henabled)
    obtain ⟨subjects, hraise⟩ : ∃ subjects, raise .node (s.built k i) =
      { s.built k i with reports := { (s.built k i).reports with subjects := subjects } } := raiseAll_writes [.node] _
    rw [hraise] at hreported ⊢
    refine ⟨hbuilt, hother, rfl, fun _ _ => hreported, fun h => ?_, rfl⟩
    rcases h with h | h
    · exact absurd (hready.symm.trans h) Bool.noConfusion
    · exact absurd (hunready.symm.trans h) Bool.noConfusion
  · exact ⟨hbuilt, hother, rfl, fun hready hunready => absurd ⟨hready, hunready⟩ hsame, fun _ => rfl, rfl⟩

end Sys2Proof.Machine
end

section
/-! PROOF. The tributary ports (O26, O27): what a frame of a port makes of its receiver and, at port 0, of the frame assembler (R126,
R154), and what the transmitter of a port sends (R127, R137, R158). -/

namespace Sys2Proof.Machine

/-! ### The receiver -/

theorem trib_setTrib (s : State) (u w : Fin 4) (v : TributaryPort) :
    (s.setTrib u v).trib w = if w = u then v else s.trib w := by
  simp only [State.trib, State.setTrib, Quad.get_set s.tribs u.isLt w.isLt v, Fin.ext_iff]

/-- R25's table, which R126 takes over for the tributary receivers. -/
theorem nextAlignment_eq (good : Bool) (a : Alignment) (run : Nat) :
    nextAlignment good a run = match a, good with
      | .lost, true => if run + 1 < 2 then (.lost, run + 1) else (.aligned, 0)
      | .lost, false => (.lost, 0)
      | .aligned, true => (.aligned, 0)
      | .aligned, false => if run + 1 < 3 then (.aligned, run + 1) else (.lost, 0) := by
  unfold nextAlignment
  cases a <;> cases good <;> simp only [Config.goodRun, Config.missingRun, ← Nat.not_lt, ite_not]

theorem deliveredSlots_eq (a : Alignment) (slots : List RawSlot) :
    deliveredSlots a slots = if a = .aligned then slots.map RawSlot.delivered else [] := by
  cases a <;> rfl

section
variable (u : Fin 4) (f : TributaryFrame) (s : State)

/-- The state with the receiver of tributary port `u` moved by a frame to an alignment and a run count (R126). -/
def State.tribMoved (a : Alignment) (run : Nat) : State :=
  s.setTrib u { s.trib u with
    alignment := a, run := run, slots := if a = .aligned then f.slots.map RawSlot.delivered else [] }

/-- The break of port 0's management stream; the other ports have none (R126, R154). -/
def State.tribBroken : State := if u = 0 then breakStream .tributary s else s

/-- The management bytes of a frame of port 0 taken; the other ports carry none (R126, R154). -/
def State.tribTaken : State := if u = 0 then assembleField .tributary f.management s else s

variable {u f s}

theorem receiveTributary_eq {a : Alignment} {run : Nat}
    (h : nextAlignment f.alignmentWord (s.trib u).alignment (s.trib u).run = (a, run)) :
    receiveTributary u f s = s.tribMoved u f a run := by
  unfold receiveTributary State.tribMoved
  simp only [h, deliveredSlots_eq]

theorem trib_tribMoved (a : Alignment) (run : Nat) (w : Fin 4) :
    (s.tribMoved u f a run).trib w =
      if w = u then { s.trib u with
        alignment := a, run := run, slots := if a = .aligned then f.slots.map RawSlot.delivered else [] }
      else s.trib w := trib_setTrib ..

/-- A frame of a tributary port: the receiver moves, a change of alignment breaks the management stream, and the frame's bytes
are taken while the port is ALIGNED (R126, R154). -/
theorem tributaryFrame_eq {a : Alignment} {run : Nat}
    (h : nextAlignment f.alignmentWord (s.trib u).alignment (s.trib u).run = (a, run)) :
    tributaryFrame u f s =
      (let t := if a = (s.trib u).alignment then s.tribMoved u f a run else (s.tribMoved u f a run).tribBroken u
      if a = .aligned then t.tribTaken u f else t) := by
  unfold tributaryFrame
  rw [receiveTributary_eq h]
  by_cases hu : u = 0
  · subst hu
    have ha : ((s.tribMoved 0 f a run).trib 0).alignment = a :=
      congrArg TributaryPort.alignment ((trib_tribMoved a run 0).trans (if_pos rfl))
    show tributaryOverhead (s.trib 0).alignment f (s.tribMoved 0 f a run) = _
    unfold tributaryOverhead State.tribBroken State.tribTaken
    rw [ha]
    rfl
  · have hne : (u : Nat) ≠ 0 := fun h => hu (Fin.ext h)
    simp only [State.tribBroken, State.tribTaken, if_neg hu, if_neg hne, ite_self]

theorem tribs_tributaryFrame (u : Fin 4) (f : TributaryFrame) (s : State) :
    (tributaryFrame u f s).tribs = (receiveTributary u f s).tribs := by
  unfold tributaryFrame tributaryOverhead
  dsimp only
  repeat' split
  all_goals simp only [assembleField_frame, breakStream_frame]

/-- At a port other than 0 a frame moves the receiver alone. -/
theorem tributaryFrame_of_ne (hu : u ≠ 0) : tributaryFrame u f s = receiveTributary u f s :=
  if_neg (fun h => hu (Fin.ext h))

/-- A change of alignment comes as TRIBUTARY_ALIGNMENT_CHANGE or as TRIBUTARY_FRAME (log 5). -/
theorem exec_tributaryChange {a : Alignment} {run : Nat}
    (h : nextAlignment f.alignmentWord (s.trib u).alignment (s.trib u).run = (a, run)) (ha : a ≠ (s.trib u).alignment) {c : Instr}
    (hc : c = .tributaryFrame u f ∨ c = .tributaryAlignmentChange u f) : exec c s = .next (tributaryFrame u f s) := by
  rcases hc with rfl | rfl
  · rfl
  · have hchange : tributaryAlignmentChange u f s = tributaryFrame u f s := if_neg (by rw [h]; exact ha)
    exact congrArg Host.Outcome.next hchange

end

/-- Settles O26: `nextAlignment_eq` gives the receiver's move, `tributaryFrame_eq` what it makes of the management stream. -/
theorem tributaryFrameMovesTheReceiver : Obligations.TributaryFrameMovesTheReceiver := by
  intro u f s broken taken moved
  have hbroken : ∀ v, broken v = v.tribBroken u := fun v => by
    unfold State.tribBroken
    rw [breakStream_eq]
    by_cases hu : u = 0
    · simp only [broken, hu, ne_eq, not_true_eq_false, false_or, if_true]
      rfl
    · simp only [broken, hu, ne_eq, not_false_eq_true, true_or, if_true, if_false]
  have hstay : ∀ {run : Nat}, nextAlignment f.alignmentWord (s.trib u).alignment (s.trib u).run = ((s.trib u).alignment, run) →
      exec (.tributaryFrame u f) s = .next (if (s.trib u).alignment = .aligned then taken (moved (s.trib u).alignment run)
        else moved (s.trib u).alignment run) := fun h =>
    congrArg Host.Outcome.next ((tributaryFrame_eq h).trans (by rw [if_pos rfl]; rfl))
  refine ⟨?_, fun ha hf => ?_, fun ha hf => ?_, fun c hc => ⟨fun ha hrun hf => ?_, fun ha hrun hf => ?_⟩⟩
  · obtain ⟨a, run, h⟩ : ∃ a run, nextAlignment f.alignmentWord (s.trib u).alignment (s.trib u).run = (a, run) := ⟨_, _, rfl⟩
    have htrib : ∀ w : Fin 4, (tributaryFrame u f s).trib w = (s.tribMoved u f a run).trib w := fun w =>
      (congrArg (Quad.get · w) (tribs_tributaryFrame u f s)).trans (by rw [receiveTributary_eq h]; rfl)
    have hown := (htrib u).trans ((trib_tribMoved a run u).trans (if_pos rfl))
    refine ⟨tributaryFrame u f s, rfl, ?_, ?_, fun hu => ?_, fun w hw => ?_⟩
    · rw [hown]
      exact h.symm.trans (nextAlignment_eq ..)
    · rw [hown]
    · rw [hown, tributaryFrame_of_ne hu, receiveTributary_eq h]
      rfl
    · rw [htrib, trib_tribMoved, if_neg hw]
  · have h : nextAlignment f.alignmentWord (s.trib u).alignment (s.trib u).run =
        (.aligned, if f.alignmentWord = true then 0 else (s.trib u).run + 1) := by
      rw [nextAlignment_eq, ha]
      cases hw : f.alignmentWord with
      | true => rfl
      | false =>
        have hrun : (s.trib u).run < 2 := hf.resolve_left (by rw [hw]; exact Bool.noConfusion)
        exact if_pos (by omega)
    rw [hstay (h.trans (by rw [ha])), ha, if_pos rfl]
  · have h : nextAlignment f.alignmentWord (s.trib u).alignment (s.trib u).run =
        (.lost, if f.alignmentWord = true then 1 else 0) := by
      rw [nextAlignment_eq, ha]
      cases hw : f.alignmentWord with
      | true =>
        have hrun : (s.trib u).run = 0 := by simpa [hw] using hf
        rw [hrun]
        rfl
      | false => rfl
    rw [hstay (h.trans (by rw [ha])), ha, if_neg Alignment.noConfusion]
  · have h : nextAlignment f.alignmentWord (s.trib u).alignment (s.trib u).run = (.aligned, 0) := by
      rw [nextAlignment_eq, ha, hf]
      exact if_neg (by omega)
    rw [hbroken, exec_tributaryChange h (by rw [ha]; exact Alignment.noConfusion) hc, tributaryFrame_eq h, ha]
    rfl
  · have h : nextAlignment f.alignmentWord (s.trib u).alignment (s.trib u).run = (.lost, 0) := by
      rw [nextAlignment_eq, ha, hf]
      exact if_neg (by omega)
    rw [hbroken, exec_tributaryChange h (by rw [ha]; exact Alignment.noConfusion) hc, tributaryFrame_eq h, ha]
    rfl

/-! ### The transmitter -/

/-- A tributary-out slot is squelched exactly while it lies in the range of an attached circuit whose squelch acts (R137). -/
theorem squelchedAt_iff (s : State) (t u : Nat) :
    squelchedAt s t u = true ↔
      ∃ c f a r k, (c, CircuitRecord.inService f (some a) r (some k)) ∈ s.table.circuits ∧ k.squelched = true ∧
        a.port = t ∧ a.start ≤ u ∧ u < a.start + f.width := by
  unfold squelchedAt
  rw [List.any_eq_true]
  constructor
  · rintro ⟨⟨c, rec⟩, hmem, h⟩
    dsimp only at h
    split at h
    · simp only [Bool.and_eq_true, beq_iff_eq, decide_eq_true_eq, and_assoc] at h
      exact ⟨c, _, _, _, _, hmem, h⟩
    · exact absurd h Bool.noConfusion
  · rintro ⟨c, f, a, r, k, hmem, h⟩
    refine ⟨_, hmem, ?_⟩
    simpa only [Bool.and_eq_true, beq_iff_eq, decide_eq_true_eq, and_assoc] using h

/-- The state after tributary port 0 has sent: its frame, and its management stream moved on by one field (R127, R158). -/
theorem tributaryFrameTransmit_zero (s : State) :
    tributaryFrameTransmit 0 s = { s.setTrib 0 { s.trib 0 with sent := some (tributaryFrameSent s 0) } with
      mgmt := { s.mgmt with queues := { s.mgmt.queues with
        tributary := dropSent s.mgmt.queues.tributary.frames (s.mgmt.queues.tributary.sent + 32) } } } := rfl

/-- The state after another tributary port has sent. -/
theorem tributaryFrameTransmit_of_ne {u : Fin 4} (h : u ≠ 0) (s : State) :
    tributaryFrameTransmit u s = s.setTrib u { s.trib u with sent := some (tributaryFrameSent s u) } :=
  if_neg (fun h' => h (Fin.ext h'))

theorem trib_tributaryFrameTransmit (u : Fin 4) (s : State) :
    (tributaryFrameTransmit u s).trib u = { s.trib u with sent := some (tributaryFrameSent s u) } := by
  have hset : (s.setTrib u { s.trib u with sent := some (tributaryFrameSent s u) }).trib u =
      { s.trib u with sent := some (tributaryFrameSent s u) } := (trib_setTrib ..).trans (if_pos rfl)
  by_cases h : u = 0
  · subst h
    exact hset
  · rw [tributaryFrameTransmit_of_ne h]
    exact hset

/-- Settles O27: the slots by `squelchedAt_iff` and `outputSlot_raw`, the outgoing stream by `dropSent_spec`. -/
theorem tributaryTransmitterSendsOrSquelches : Obligations.TributaryTransmitterSendsOrSquelches := by
  intro u s
  have hslot : ∀ i, i < 16 → (tributaryFrameSent s u).slots[i]? = some (tribOutputSlot s u i).raw := fun i hi => by
    simp [tributaryFrameSent, hi]
  refine ⟨tributaryFrameTransmit u s, tributaryFrameSent s u, rfl, by rw [trib_tributaryFrameTransmit], rfl,
    by simp [tributaryFrameSent], fun i hi => ⟨fun c f a r k hmem hsquelched hport hlow hhigh => ?_, fun hclear => ?_⟩,
    fun hu => ⟨?_, ?_⟩, fun hu => ?_⟩
  · have hat : squelchedAt s u i = true := (squelchedAt_iff ..).mpr ⟨c, f, a, r, k, hmem, hsquelched, hport, hlow, hhigh⟩
    rw [hslot i hi, tribOutputSlot, if_pos hat]
    rfl
  · have hat : ¬squelchedAt s u i = true := fun h => by
      obtain ⟨c, f, a, r, k, hmem, hsquelched, hport, hrange⟩ := (squelchedAt_iff ..).mp h
      exact hclear c f a r k hmem hsquelched hport hrange
    refine ⟨(outputSlot s (tribOutput u i)).raw, ?_, outputSlot_raw s _⟩
    rw [hslot i hi, tribOutputSlot, if_neg hat]
  · exact if_neg (fun h => hu (Fin.ext h))
  · exact tributaryFrameTransmit_of_ne hu s
  · subst hu
    have hqueue : (tributaryFrameTransmit 0 s).mgmt.queues.tributary =
        dropSent s.mgmt.queues.tributary.frames (s.mgmt.queues.tributary.sent + 32) := rfl
    obtain ⟨hstream, hsuffix, hsent⟩ :=
      dropSent_spec s.mgmt.queues.tributary.frames (s.mgmt.queues.tributary.sent + 32)
    rw [← hqueue] at hstream hsuffix hsent
    refine ⟨streamField_eq _, ?_, hsuffix, hsent, rfl⟩
    unfold FrameQueue.stream at hstream ⊢
    rw [List.drop_drop]
    exact hstream

end Sys2Proof.Machine
end

section
/-! PROOF. The drop tag check and the frame boundary (O28, O29): one frame of a check (R136), the check over a boundary (R137 to R139),
and the reports of its changes of state (R176). -/

namespace Sys2Proof.Machine

/-! ### One frame of a check -/

/-- The state that a check changes to (R136). -/
def MatchState.other : MatchState → MatchState
  | .match_ => .mismatch
  | .mismatch => .match_

theorem MatchState.other_ne (m : MatchState) : m.other ≠ m := by cases m <;> exact MatchState.noConfusion

/-- One frame of a check: one for its state sets the run count to 0, a third one against it changes the state (R136). -/
theorem TagCheck.frame_eq (k : TagCheck) (isMatch : Bool) :
    k.frame isMatch =
      if k.state = .match_ ↔ isMatch = true then { k with run := 0 }
      else if k.run < 2 then { k with run := k.run + 1 }
      else { k with state := k.state.other, run := 0 } := by
  have hlimit : Config.tagRun ≤ k.run + 1 ↔ ¬k.run < 2 := by rw [Config.tagRun]; omega
  obtain ⟨state, run, begun, counted, squelched⟩ := k
  unfold TagCheck.frame
  cases state <;> cases isMatch <;> simp only [hlimit, ite_not] <;> rfl

/-- The frame of this frame period is one for the state of a check: a match in MATCH, none in MISMATCH (R136). -/
def tagAgrees (s : State) (c : Nat) (a : Attachment) (k : TagCheck) : Prop := k.state = .match_ ↔ dropTag s a = some c

section
variable {s : State} {c : Nat} {a : Attachment} {k : TagCheck}

/-- A check that has not begun, or whose frame has been counted, stays (R139; log 7). -/
theorem countFrame_idle (h : k.begun = false ∨ k.counted = true) : countFrame s c a k = k := by
  unfold countFrame
  rcases h with h | h <;> simp [h]

theorem countFrame_due (hbegun : k.begun = true) (hcounted : k.counted = false) :
    countFrame s c a k = { k.frame (dropTag s a == some c) with counted := true } := by
  unfold countFrame
  exact if_pos (by rw [hbegun, hcounted]; rfl)

theorem countFrame_agrees (hbegun : k.begun = true) (hcounted : k.counted = false) (h : tagAgrees s c a k) :
    countFrame s c a k = { k with run := 0, counted := true } := by
  rw [countFrame_due hbegun hcounted, TagCheck.frame_eq, if_pos (by rw [beq_iff_eq]; exact h)]

theorem countFrame_against (hbegun : k.begun = true) (hcounted : k.counted = false) (h : ¬tagAgrees s c a k) :
    countFrame s c a k = if k.run < 2 then { k with run := k.run + 1, counted := true }
      else { k with state := k.state.other, run := 0, counted := true } := by
  rw [countFrame_due hbegun hcounted, TagCheck.frame_eq, if_neg (by rw [beq_iff_eq]; exact h)]
  split <;> rfl

theorem countFrame_begun (s : State) (c : Nat) (a : Attachment) (k : TagCheck) : (countFrame s c a k).begun = k.begun := by
  unfold countFrame
  split
  · rw [TagCheck.frame_eq]
    split_ifs <;> rfl
  · rfl

end

/-! ### The third frame taken by itself -/

/-- What a raise does, by the conditions of R176. -/
theorem raise_eq (x : Subject) (s : State) :
    raise x s = if s.settings.enabled x = true ∧ x ∉ s.reports.subjects then
      { s with reports := { s.reports with subjects := s.reports.subjects ++ [x] } } else s := by
  unfold raise
  simp

/-- A third frame against a check's state changes the state, with a CIRCUIT report (R136; log 7). -/
theorem tagStateChange_third {c : Nat} {s : State} {f : CircuitFields} {a : Attachment} {r : Restoration} {k : TagCheck}
    (hc : s.circuit c = .inService f (some a) r (some k)) (hbegun : k.begun = true) (hcounted : k.counted = false)
    (hrun : k.run = 2) (h : ¬tagAgrees s c a k) :
    tagStateChange c s = raise (.circuit c) (s.setCircuit c
      (.inService f (some a) r (some { k with state := k.state.other, run := 0, counted := true }))) := by
  unfold tagStateChange
  rw [hc]
  dsimp only
  rw [countFrame_against hbegun hcounted h, if_neg (show ¬k.run < 2 by omega)]
  exact if_neg k.state.other_ne

/-- Settles O29: the frame is against the check's state, and `tagStateChange_third` says what it does. -/
theorem thirdFrameChangesTheTagCheck : Obligations.ThirdFrameChangesTheTagCheck := by
  intro c s f a r k hc hbegun hcounted hrun tag with_ raised
  have hthird (m : MatchState) (hm : k.state.other = m) (h : ¬tagAgrees s c a k) :
      exec (.tagCheckStateChange c) s = .next (raised (with_ m)) := by
    subst hm
    exact congrArg Host.Outcome.next ((tagStateChange_third hc hbegun hcounted hrun h).trans (raise_eq _ _))
  refine ⟨fun hk htag => ?_, fun hk htag => ?_⟩
  · exact hthird .mismatch (by rw [hk]; rfl) fun h => htag (h.mp hk)
  · exact hthird .match_ (by rw [hk]; rfl) fun h => MatchState.noConfusion (hk.symm.trans (h.mpr htag))

/-! ### Checks over a table -/

/-- A record with a function applied to its tag check, if it has one. -/
def CircuitRecord.mapCheck (g : Attachment → TagCheck → TagCheck) : CircuitRecord → CircuitRecord
  | .inService f (some a) r (some k) => .inService f (some a) r (some (g a k))
  | r => r

theorem CircuitRecord.mapCheck_of_unchecked {g : Attachment → TagCheck → TagCheck} {rec : CircuitRecord}
    (h : ∀ f a r k, rec ≠ .inService f (some a) r (some k)) : rec.mapCheck g = rec := by
  unfold CircuitRecord.mapCheck
  split
  · exact absurd rfl (h _ _ _ _)
  · rfl

theorem mapChecks_eq (g : Nat → Attachment → TagCheck → TagCheck) (t : Table CircuitRecord) :
    mapChecks g t = t.map (fun e => (e.1, e.2.mapCheck (g e.1))) := by
  refine List.map_congr_left fun e _ => ?_
  obtain ⟨c, rec⟩ := e
  dsimp only
  split
  · rfl
  · rename_i hunchecked
    exact Prod.ext rfl (CircuitRecord.mapCheck_of_unchecked hunchecked).symm

theorem look_mapChecks (g : Nat → Attachment → TagCheck → TagCheck) (t : Table CircuitRecord) (c : Nat) :
    look .absent (mapChecks g t) c = (look .absent t c).mapCheck (g c) := by
  rw [mapChecks_eq]
  exact look_map _ t (fun c rec => rec.mapCheck (g c)) c rfl

theorem keys_mapChecks (g : Nat → Attachment → TagCheck → TagCheck) (t : Table CircuitRecord) :
    (mapChecks g t).map Prod.fst = t.map Prod.fst := by
  rw [mapChecks_eq, List.map_map]
  rfl

theorem mapChecks_mapChecks (g h : Nat → Attachment → TagCheck → TagCheck) (t : Table CircuitRecord) :
    mapChecks g (mapChecks h t) = mapChecks (fun c a k => g c a (h c a k)) t := by
  simp only [mapChecks_eq, List.map_map]
  refine List.map_congr_left fun e _ => Prod.ext rfl ?_
  obtain ⟨c, rec⟩ := e
  match rec with
  | .absent | .defined _ _ | .inService _ none _ _ | .inService _ (some _) _ none | .inService _ (some _) _ (some _) => rfl

/-- The checks of a table that a function changes the state of (R136). -/
theorem mem_changedChecks (g : Nat → Attachment → TagCheck → TagCheck) (t : Table CircuitRecord) (c : Nat) :
    c ∈ changedChecks t (mapChecks g t) ↔
      ∃ f a r k, look .absent t c = .inService f (some a) r (some k) ∧ (g c a k).state ≠ k.state := by
  unfold changedChecks
  rw [List.mem_filter, keys_mapChecks]
  dsimp only
  rw [look_mapChecks]
  constructor
  · rintro ⟨_, h⟩
    match hrec : look .absent t c with
    | .absent | .defined _ _ | .inService _ none _ none | .inService _ none _ (some _) | .inService _ (some _) _ none =>
      simp [hrec, CircuitRecord.mapCheck] at h
    | .inService f (some a) r (some k) =>
      exact ⟨f, a, r, k, hrec, Ne.symm (by simpa [hrec, CircuitRecord.mapCheck] using h)⟩
  · rintro ⟨f, a, r, k, hrec, h⟩
    refine ⟨?_, by simpa [hrec, CircuitRecord.mapCheck] using h.symm⟩
    by_contra hkey
    have habsent : look .absent t c = .absent := look_of_not_mem fun e he hc => hkey (hc ▸ List.mem_map_of_mem he)
    rw [habsent] at hrec
    exact CircuitRecord.noConfusion hrec

/-! ### Several reports -/

/-- What several raises append: the subjects among them whose category is on and that were not pending, each once (R176). -/
theorem raiseAll_subjects (xs : List Subject) (s : State) :
    ∃ new, (raiseAll xs s).reports.subjects = s.reports.subjects ++ new ∧ new.Nodup ∧
      ∀ x, x ∈ new ↔ s.settings.enabled x = true ∧ x ∉ s.reports.subjects ∧ x ∈ xs := by
  induction xs generalizing s with
  | nil => exact ⟨[], by simp [raiseAll], List.nodup_nil, by simp⟩
  | cons y ys ih =>
    obtain ⟨new, hnew, hnodup, hmem⟩ := ih (raise y s)
    rw [settings_of_table (s := s) (by simp)] at hmem
    show ∃ new, (raiseAll ys (raise y s)).reports.subjects = _ ∧ _
    rw [raise_eq] at hnew hmem
    rw [raise_eq]
    split_ifs at hnew hmem ⊢ with hy
    · refine ⟨y :: new, by simpa using hnew, List.nodup_cons.mpr ⟨fun h => ?_, hnodup⟩, fun x => ?_⟩
      · exact ((hmem y).mp h).2.1 (by simp)
      · rw [List.mem_cons, hmem]
        by_cases hxy : x = y
        · subst hxy
          simp [hy]
        · simp [hxy]
    · refine ⟨new, hnew, hnodup, fun x => ?_⟩
      rw [hmem, List.mem_cons]
      by_cases hxy : x = y
      · subst hxy
        tauto
      · simp [hxy]

/-! ### The boundary -/

/-- The Connection Map of the next frame period (R134). -/
def State.nextMap (s : State) : Table Connection := s.switch.target.getD s.switch.connections

/-- A target swings at this boundary and moves the source of a drop (R138). -/
def State.movesDrop (s : State) (a : Attachment) : Prop :=
  s.switch.target ≠ none ∧
    sameSource (s.connection (tribOutput a.port a.start)).source (look .fill s.nextMap (tribOutput a.port a.start)).source = false

/-- What the swing of a pending target, where there is one, makes of a check (R138, R139). -/
def State.swungCheck (s : State) (c : Nat) (a : Attachment) (k : TagCheck) : TagCheck :=
  match s.switch.target with
  | none => k
  | some m => swingCheck s.switch.connections m c a k

/-- What a frame boundary makes of a check: the frame counted, the swing, the start of the next frame period. -/
def State.boundaryCheck (s : State) (c : Nat) (a : Attachment) (k : TagCheck) : TagCheck :=
  openFrame c a (s.swungCheck c a (countFrame s c a k))

section
variable (s : State) (c : Nat) (a : Attachment) (k : TagCheck)

theorem swungCheck_state : (s.swungCheck c a k).state = k.state := by
  unfold State.swungCheck
  split <;> rfl

theorem swungCheck_begun : (s.swungCheck c a k).begun = (k.begun || s.switch.target.isSome) := by
  unfold State.swungCheck
  split <;> rename_i h <;> rw [h] <;> simp [swingCheck]

variable {s a}

theorem swungCheck_run_of_moved (h : s.movesDrop a) : (s.swungCheck c a k).run = 0 := by
  obtain ⟨htarget, hsource⟩ := h
  obtain ⟨m, hm⟩ := Option.ne_none_iff_exists'.mp htarget
  rw [State.nextMap, hm] at hsource
  rw [State.swungCheck, hm]
  exact if_neg (by rw [Bool.not_eq_true]; exact hsource)

theorem swungCheck_run_of_not_moved (h : ¬s.movesDrop a) : (s.swungCheck c a k).run = k.run := by
  unfold State.swungCheck
  split
  · rfl
  · rename_i m hm
    refine if_pos (Bool.of_not_eq_false fun hsource => h ⟨by rw [hm]; exact Option.some_ne_none m, ?_⟩)
    rw [State.nextMap, hm]
    exact hsource

end

theorem boundaryCheck_state (s : State) (c : Nat) (a : Attachment) (k : TagCheck) :
    (s.boundaryCheck c a k).state = (countFrame s c a k).state := swungCheck_state ..

theorem boundaryCheck_begun (s : State) (c : Nat) (a : Attachment) (k : TagCheck) :
    (s.boundaryCheck c a k).begun = (k.begun || s.switch.target.isSome) :=
  (swungCheck_begun ..).trans (by rw [countFrame_begun])

theorem boundaryCheck_squelched (s : State) (c : Nat) (a : Attachment) (k : TagCheck) :
    (s.boundaryCheck c a k).squelched = true ↔ (s.boundaryCheck c a k).state = .mismatch := beq_iff_eq

/-- The run count after the boundary is that of the counted frame, or 0 when the swing moves the drop's source (R138). -/
theorem boundaryCheck_run (s : State) (c : Nat) (a : Attachment) (k : TagCheck) :
    (s.movesDrop a → (s.boundaryCheck c a k).run = 0) ∧
      (¬s.movesDrop a → (s.boundaryCheck c a k).run = (countFrame s c a k).run) :=
  ⟨swungCheck_run_of_moved c _, swungCheck_run_of_not_moved c _⟩

theorem mapChecks_id (t : Table CircuitRecord) : mapChecks (fun _ _ k => k) t = t := by
  refine List.map_id'' (fun e => ?_) t
  split
  · rename_i h
    exact Prod.ext rfl h.symm
  · rfl

/-- What a swing does to the switch, the checks and the counters (R134, R138, R139). -/
theorem swing_eq (s : State) :
    swing s = { s with
      switch := { connections := s.nextMap, target := none }
      table := { s.table with circuits := mapChecks s.swungCheck s.table.circuits }
      counters := if s.switch.target = none then s.counters else (bump 3 s).counters } := by
  unfold swing State.nextMap
  cases htarget : s.switch.target with
  | none =>
    have hchecks : s.swungCheck = fun _ _ k => k := by
      unfold State.swungCheck
      rw [htarget]
    have hswitch : s.switch = { connections := s.switch.connections, target := none } := by rw [← htarget]
    rw [hchecks, mapChecks_id, if_pos rfl, Option.getD_none, ← hswitch]
  | some m =>
    have hchecks : s.swungCheck = swingCheck s.switch.connections m := by
      unfold State.swungCheck
      rw [htarget]
    rw [hchecks, if_neg (Option.some_ne_none m)]
    rfl

/-- Counting the frames of the checks writes the checks and the pending list (R136, R176). -/
theorem countFrames_eq (s : State) :
    countFrames s = { s with
      table := { s.table with circuits := mapChecks (countFrame s) s.table.circuits }
      reports := { s.reports with subjects := (countFrames s).reports.subjects } } := by
  obtain ⟨subjects, h⟩ : ∃ subjects, countFrames s = _ := raiseAll_writes _ _
  rw [h]

/-- The state after a frame boundary, but for the pending list. -/
theorem frameBoundary_eq (s : State) :
    frameBoundary s = { s with
      now := s.now + 1
      switch := { connections := s.nextMap, target := none }
      table := { s.table with circuits := mapChecks s.boundaryCheck s.table.circuits }
      reports := { s.reports with subjects := (countFrames s).reports.subjects }
      counters := if s.switch.target = none then s.counters else (bump 3 s).counters } := by
  have hmap : (countFrames s).nextMap = s.nextMap := by simp [State.nextMap]
  have hchecks : (countFrames s).swungCheck = s.swungCheck := by
    funext c a k
    simp only [State.swungCheck, countFrames_frame]
  unfold frameBoundary
  rw [swing_eq, hmap, hchecks, countFrames_eq]
  simp only [mapChecks_mapChecks]
  rfl

/-- What the boundary makes of a record. -/
theorem circuit_frameBoundary (s : State) (c : Nat) :
    (frameBoundary s).circuit c = (s.circuit c).mapCheck (s.boundaryCheck c) := by
  rw [frameBoundary_eq]
  exact look_mapChecks ..

/-- The reports that the boundary appends: the circuits whose check changes its state (R136, R176). -/
theorem frameBoundary_subjects (s : State) :
    ∃ new, (frameBoundary s).reports.subjects = s.reports.subjects ++ new ∧ new.Nodup ∧
      ∀ x, x ∈ new ↔ s.settings.enabled x = true ∧ x ∉ s.reports.subjects ∧ ∃ c f a r k, .circuit c = x ∧
        s.circuit c = .inService f (some a) r (some k) ∧ (countFrame s c a k).state ≠ k.state := by
  obtain ⟨new, hnew, hnodup, hmem⟩ := raiseAll_subjects
    ((changedChecks s.table.circuits (mapChecks (countFrame s) s.table.circuits)).map .circuit)
    { s with table := { s.table with circuits := mapChecks (countFrame s) s.table.circuits } }
  refine ⟨new, by rw [frameBoundary_eq]; exact hnew, hnodup, fun x => (hmem x).trans ?_⟩
  rw [List.mem_map]
  simp only [mem_changedChecks]
  constructor
  · rintro ⟨hen, hx, c, ⟨f, a, r, k, hc, hstate⟩, hcx⟩
    exact ⟨hen, hx, c, f, a, r, k, hcx, hc, hstate⟩
  · rintro ⟨hen, hx, c, f, a, r, k, hcx, hc, hstate⟩
    exact ⟨hen, hx, c, ⟨f, a, r, k, hc, hstate⟩, hcx⟩

/-- A change of a check's state at the boundary is reported (R136). -/
theorem reported_frameBoundary {s : State} {c : Nat} {f : CircuitFields} {a : Attachment} {r : Restoration} {k : TagCheck}
    (hc : s.circuit c = .inService f (some a) r (some k)) (h : (countFrame s c a k).state ≠ k.state) :
    reported (.circuit c) (frameBoundary s) := by
  intro hen
  obtain ⟨new, hnew, _, hmem⟩ := frameBoundary_subjects s
  rw [hnew, List.mem_append, hmem]
  have hen' : s.settings.enabled (.circuit c) = true := by rwa [frameBoundary_eq] at hen
  by_cases hx : Subject.circuit c ∈ s.reports.subjects
  · exact .inl hx
  · exact .inr ⟨hen', hx, c, f, a, r, k, rfl, hc, h⟩

theorem counter_frameBoundary (s : State) (n : Nat) :
    (frameBoundary s).counter n =
      if n = 3 ∧ s.switch.target ≠ none then saturate (s.counter 3) else s.counter n := by
  rw [frameBoundary_eq]
  by_cases htarget : s.switch.target = none
  · rw [if_pos htarget, if_neg (fun h => h.2 htarget)]
    rfl
  · rw [if_neg htarget]
    exact (counter_bump 3 n s).trans (by simp only [htarget, ne_eq, not_false_eq_true, and_true])

/-- Settles O28: `frameBoundary_eq` gives the state, `boundaryCheck_run` and the laws of `countFrame` the checks, and
`frameBoundary_subjects` the reports. -/
theorem frameBoundarySwingsAndChecksTags : Obligations.FrameBoundarySwingsAndChecksTags := by
  intro s
  have heq := frameBoundary_eq s
  have hconnections : (frameBoundary s).switch.connections = s.nextMap := by rw [heq]
  refine ⟨frameBoundary s, rfl, by rw [heq], by rw [heq], hconnections, ?_, ?_, fun c hc => ?_, fun n hn => ?_, ?_, ?_⟩
  · rw [counter_frameBoundary]
    by_cases htarget : s.switch.target = none <;> simp [htarget]
  · intro c f a r k hc drop isMatch moved
    have hmoved : moved ↔ s.movesDrop a := by
      simp only [moved, State.movesDrop, State.connection, hconnections]
      rfl
    obtain ⟨hrun, hkept⟩ := boundaryCheck_run s c a k
    rw [hmoved]
    refine ⟨s.boundaryCheck c a k, by rw [circuit_frameBoundary, hc]; rfl, boundaryCheck_begun .., rfl, boundaryCheck_squelched ..,
      fun hidle => ?_, fun hbegun hcounted => ⟨fun hagrees => ?_, fun hagainst hless => ?_, fun hagainst hthird => ?_⟩⟩
    · have hcount := countFrame_idle (s := s) (c := c) (a := a) hidle
      exact ⟨by rw [boundaryCheck_state, hcount], hrun, fun h => by rw [hkept h, hcount]⟩
    · have hcount := countFrame_agrees hbegun hcounted (show tagAgrees s c a k from hagrees)
      refine ⟨by rw [boundaryCheck_state, hcount], ?_⟩
      by_cases h : s.movesDrop a
      · exact hrun h
      · rw [hkept h, hcount]
    · have hcount := countFrame_against hbegun hcounted (show ¬tagAgrees s c a k from hagainst)
      rw [if_pos hless] at hcount
      exact ⟨by rw [boundaryCheck_state, hcount], hrun, fun h => by rw [hkept h, hcount]⟩
    · have hcount := countFrame_against hbegun hcounted (show ¬tagAgrees s c a k from hagainst)
      rw [if_neg (by omega)] at hcount
      have hchanges : (countFrame s c a k).state ≠ k.state := by rw [hcount]; exact k.state.other_ne
      refine ⟨by rwa [boundaryCheck_state], ?_, reported_frameBoundary hc hchanges⟩
      by_cases h : s.movesDrop a
      · exact hrun h
      · rw [hkept h, hcount]
  · rw [circuit_frameBoundary, CircuitRecord.mapCheck_of_unchecked hc]
  · rw [counter_frameBoundary, if_neg (fun h => hn h.1)]
  · obtain ⟨new, hnew, hnodup, hmem⟩ := frameBoundary_subjects s
    refine ⟨new, hnew, hnodup, fun x => (hmem x).trans ⟨?_, ?_⟩⟩
    · rintro ⟨hen, hx, c, f, a, r, k, rfl, hc, hstate⟩
      exact ⟨hen, hx, c, f, a, r, k, s.boundaryCheck c a k, rfl, hc, by rw [circuit_frameBoundary, hc]; rfl,
        by rwa [boundaryCheck_state]⟩
    · rintro ⟨hen, hx, c, f, a, r, k, k', rfl, hc, hc', hstate⟩
      have hk : s.boundaryCheck c a k = k' := by
        rw [circuit_frameBoundary, hc] at hc'
        injection hc' with _ _ _ hk
        exact Option.some.inj hk
      exact ⟨hen, hx, c, f, a, r, k, rfl, hc, by rwa [← boundaryCheck_state, hk]⟩
  · rw [heq]

end Sys2Proof.Machine
end

section
/-! PROOF. The target map (O30): the outputs that each circuit writes at this node (R130 to R132), and what a map holds after the writes
of all circuits. -/

namespace Sys2Proof.Machine

/-! ### Writes of a map -/

/-- The map after several entries have been written, in order. -/
def writeAll (m : Table Connection) (l : List (Nat × Connection)) : Table Connection :=
  l.foldl (fun m w => put .fill m w.1 w.2) m

theorem look_writeAll_of_not_mem {l : List (Nat × Connection)} {o : Nat} (h : ∀ y, (o, y) ∉ l) (m : Table Connection) :
    look .fill (writeAll m l) o = look .fill m o := by
  induction l generalizing m with
  | nil => rfl
  | cons w l ih =>
    have hw : o ≠ w.1 := fun hw => h w.2 (hw ▸ List.mem_cons_self)
    exact (ih (fun y hy => h y (List.mem_cons_of_mem w hy)) _).trans (look_put_other _ _ _ hw)

/-- An output that is written, and always with one connection, has that connection. -/
theorem look_writeAll_of_mem {l : List (Nat × Connection)} {o : Nat} {x : Connection} (hx : (o, x) ∈ l)
    (h : ∀ y, (o, y) ∈ l → y = x) (m : Table Connection) : look .fill (writeAll m l) o = x := by
  induction l generalizing m with
  | nil => cases hx
  | cons w l ih =>
    by_cases hlater : ∃ y, (o, y) ∈ l
    · obtain ⟨y, hy⟩ := hlater
      have hyx : y = x := h y (List.mem_cons_of_mem w hy)
      exact ih (hyx ▸ hy) (fun y hy => h y (List.mem_cons_of_mem w hy)) _
    · have hlast : ∀ y, (o, y) ∉ l := fun y hy => hlater ⟨y, hy⟩
      have hw : (o, x) = w := (List.mem_cons.mp hx).resolve_right (hlast x)
      refine (look_writeAll_of_not_mem hlast _).trans ?_
      rw [← hw]
      exact look_put_same ..

/-! ### The writes of a circuit -/

/-- The add and the drop that an end writes for slot `i` of its range (R131). -/
def endWrites (c : Nat) (p : Side) (start : Nat) (a : Attachment) (i : Nat) : List (Nat × Connection) :=
  [(lineOutput p (start + i), { source := .tribIn a.port (a.start + i) c, circuit := some c }),
    (tribOutput a.port (a.start + i), { source := .lineIn p (start + i), circuit := some c })]

/-- The pass-through that an intermediate position writes for one slot (R132). -/
def throughWrites (c : Nat) (o : Orientation) (t : Nat) : List (Nat × Connection) :=
  [(lineOutput (clockwiseSide o) t, { source := .lineIn (counterSide o) t, circuit := some c }),
    (lineOutput (counterSide o) t, { source := .lineIn (clockwiseSide o) t, circuit := some c })]

/-- What a circuit writes for slot `i` of the range from `start` on, by the relation of position `own` to its route (R130). -/
def slotWrites (s : State) (own c : Nat) (f : CircuitFields) (att : Option Attachment) (dir : Direction) (start i : Nat) :
    List (Nat × Connection) :=
  match relation s.ringSize own f.endA f.endB dir, att with
  | .endA, some a => endWrites c (endSide s.settings.orientation dir true) start a i
  | .endB, some a => endWrites c (endSide s.settings.orientation dir false) start a i
  | .intermediate, _ => throughWrites c s.settings.orientation (start + i)
  | _, _ => []

/-- What the record of a circuit writes at position `own` (R130). -/
def circuitWrites (s : State) (own : Nat) (e : Nat × CircuitRecord) : List (Nat × Connection) :=
  match e.2 with
  | .inService f att r _ =>
    match routeUsed (decide (s.node.state = .active)) f r with
    | some (dir, start) => (List.range f.width).flatMap (slotWrites s own e.1 f att dir start)
    | none => []
  | _ => []

theorem connectEnd_eq (c : Nat) (p : Side) (start : Nat) (a : Attachment) (m : Table Connection) (i : Nat) :
    connectEnd c p start a m i = writeAll m (endWrites c p start a i) := rfl

theorem connectThrough_eq (c : Nat) (o : Orientation) (m : Table Connection) (t : Nat) :
    connectThrough c o m t = writeAll m (throughWrites c o t) := rfl

/-- Slots connected one by one are the writes of them all. -/
theorem foldl_eq_writeAll {g : Table Connection → Nat → Table Connection} {w : Nat → List (Nat × Connection)}
    (h : ∀ m i, g m i = writeAll m (w i)) (l : List Nat) (m : Table Connection) : l.foldl g m = writeAll m (l.flatMap w) := by
  unfold writeAll
  rw [List.foldl_flatMap]
  exact List.foldl_ext _ _ _ fun m i _ => h m i

theorem connectCircuit_eq (s : State) (own : Nat) (m : Table Connection) (e : Nat × CircuitRecord) :
    connectCircuit s.ringSize own s.settings.orientation (decide (s.node.state = .active)) m e =
      writeAll m (circuitWrites s own e) := by
  obtain ⟨c, rec⟩ := e
  unfold connectCircuit circuitWrites
  match rec with
  | .absent | .defined _ _ => rfl
  | .inService f att r _ =>
    dsimp only
    match routeUsed (decide (s.node.state = .active)) f r with
    | none => rfl
    | some (dir, start) =>
      dsimp only
      unfold slotWrites
      match relation s.ringSize own f.endA f.endB dir, att with
      | .endA, some a | .endB, some a => exact foldl_eq_writeAll (connectEnd_eq _ _ _ _) _ m
      | .intermediate, none | .intermediate, some _ =>
        dsimp only
        rw [rangeSlots, List.foldl_map]
        exact foldl_eq_writeAll (fun m i => connectThrough_eq c _ m (start + i)) _ m
      | .endA, none | .endB, none | .off, none | .off, some _ =>
        dsimp only
        rw [List.flatMap_eq_nil_iff.mpr fun _ _ => rfl]
        rfl

theorem targetOf_eq {s : State} {own : Nat} (hruns : s.node.state.runs = true) (hposition : s.position = some own) :
    targetOf s = writeAll [] (s.table.circuits.flatMap (circuitWrites s own)) := by
  unfold targetOf writeAll
  rw [hruns, hposition, List.foldl_flatMap]
  exact List.foldl_ext _ _ _ fun m e _ => connectCircuit_eq s own m e

/-! ### What is written is what connects -/

theorem usesRoute_iff (active : Bool) (f : CircuitFields) (r : Restoration) (dir : Direction) (start : Nat) :
    usesRoute active f r dir start ↔ routeUsed active f r = some (dir, start) := by
  unfold usesRoute routeUsed
  cases active with
  | false => simp [eq_comm]
  | true =>
    cases r with
    | down => by_cases h : f.cls = .unguarded <;> simp [h, eq_comm]
    | _ => simp [eq_comm]

theorem mem_endWrites {c : Nat} {p : Side} {start : Nat} {a : Attachment} {i o : Nat} {x : Connection} :
    (o, x) ∈ endWrites c p start a i ↔
      (o = lineOutput p (start + i) ∧ x = { source := .tribIn a.port (a.start + i) c, circuit := some c }) ∨
        (o = 128 + 16 * a.port + (a.start + i) ∧ x = { source := .lineIn p (start + i), circuit := some c }) := by
  simp only [endWrites, List.mem_cons, List.not_mem_nil, or_false, Prod.mk.injEq]
  rfl

theorem mem_throughWrites {c : Nat} {r : Orientation} {t o : Nat} {x : Connection} :
    (o, x) ∈ throughWrites c r t ↔
      (o = t ∧ x = { source := .lineIn .west t, circuit := some c }) ∨
        (o = 64 + t ∧ x = { source := .lineIn .east t, circuit := some c }) := by
  simp only [throughWrites, List.mem_cons, List.not_mem_nil, or_false, Prod.mk.injEq]
  cases r
  · rfl
  · exact or_comm

theorem relation_of_eq_endA {n q a b : Nat} {d : Direction} (h : q = a) : relation n q a b d = .endA := if_pos h

theorem relation_of_eq_endB {n q a b : Nat} {d : Direction} (ha : q ≠ a) (hb : q = b) : relation n q a b d = .endB :=
  (if_neg ha).trans (if_pos hb)

/-- A position that is no end of a route is intermediate to it or off it (R8). -/
theorem relation_of_ne {n q a b : Nat} {d : Direction} (ha : q ≠ a) (hb : q ≠ b) :
    relation n q a b d = .intermediate ∨ relation n q a b d = .off := by
  unfold relation
  rw [if_neg ha, if_neg hb]
  dsimp only
  split_ifs
  · exact .inl rfl
  · exact .inr rfl

/-- What a circuit writes for one slot, in the words of `connects`. -/
theorem mem_slotWrites {s : State} {own c : Nat} {f : CircuitFields} {att : Option Attachment} {dir : Direction} {start i o : Nat}
    {x : Connection} :
    (o, x) ∈ slotWrites s own c f att dir start i ↔
      (∃ a, att = some a ∧ (own = f.endA ∨ own = f.endB) ∧
        (o, x) ∈ endWrites c (endSide s.settings.orientation dir (decide (own = f.endA))) start a i) ∨
      (relation s.ringSize own f.endA f.endB dir = .intermediate ∧ (o, x) ∈ throughWrites c s.settings.orientation (start + i)) := by
  unfold slotWrites
  by_cases ha : own = f.endA
  · rw [relation_of_eq_endA ha]
    cases att <;> simp [ha]
  · by_cases hb : own = f.endB
    · rw [relation_of_eq_endB ha hb, decide_eq_false ha]
      cases att <;> simp [hb]
    · rcases relation_of_ne (n := s.ringSize) (d := dir) ha hb with h | h <;> rw [h] <;> simp [ha, hb]

theorem mem_circuitWrites {s : State} {own : Nat} {e : Nat × CircuitRecord} {o : Nat} {x : Connection} :
    (o, x) ∈ circuitWrites s own e ↔ ∃ f att r k dir start i, e.2 = .inService f att r k ∧
      routeUsed (decide (s.node.state = .active)) f r = some (dir, start) ∧ i < f.width ∧
      (o, x) ∈ slotWrites s own e.1 f att dir start i := by
  unfold circuitWrites
  constructor
  · intro h
    split at h
    · rename_i f att r k hrec
      split at h
      · rename_i dir start hroute
        obtain ⟨i, hi, h⟩ := List.mem_flatMap.mp h
        exact ⟨f, att, r, k, dir, start, i, hrec, hroute, List.mem_range.mp hi, h⟩
      · cases h
    · cases h
  · rintro ⟨f, att, r, k, dir, start, i, hrec, hroute, hi, h⟩
    rw [hrec]
    dsimp only
    rw [hroute]
    exact List.mem_flatMap.mpr ⟨i, List.mem_range.mpr hi, h⟩

/-- The writes of a circuit are the connections that its route in use gives the outputs. -/
theorem connects_iff (s : State) (own : Nat) (e : Nat × CircuitRecord) (o : Nat) (x : Connection) :
    connects s own e o x ↔ (o, x) ∈ circuitWrites s own e := by
  rw [mem_circuitWrites]
  unfold connects
  simp only [usesRoute_iff, mem_slotWrites, mem_endWrites, mem_throughWrites]

theorem mem_targetWrites {s : State} {own o : Nat} {x : Connection} :
    (o, x) ∈ s.table.circuits.flatMap (circuitWrites s own) ↔ ∃ e ∈ s.table.circuits, connects s own e o x := by
  simp only [List.mem_flatMap, connects_iff]

/-! ### One connection for each output of a circuit -/

theorem lineOutput_lt (p : Side) {t : Nat} (h : t < 64) : lineOutput p t < 128 := by
  cases p <;> simp only [lineOutput] <;> omega

theorem lineOutput_inj (p : Side) {t u : Nat} : lineOutput p t = lineOutput p u ↔ t = u := by
  cases p with
  | east => exact Iff.rfl
  | west => exact Nat.add_left_cancel_iff

section
variable {s : State} {own c : Nat} {f : CircuitFields} {att : Option Attachment} {dir : Direction} {start i j o : Nat}
  {x y : Connection}

theorem endWrites_unique {p : Side} {a : Attachment} (hi : start + i < 64) (hj : start + j < 64)
    (hx : (o, x) ∈ endWrites c p start a i) (hy : (o, y) ∈ endWrites c p start a j) : x = y := by
  have hlowi := lineOutput_lt p hi
  have hlowj := lineOutput_lt p hj
  rcases mem_endWrites.mp hx with ⟨ho, rfl⟩ | ⟨ho, rfl⟩ <;> rcases mem_endWrites.mp hy with ⟨ho', rfl⟩ | ⟨ho', rfl⟩
  · have hslot := (lineOutput_inj p).mp (ho.symm.trans ho')
    obtain rfl : i = j := by omega
    rfl
  · omega
  · omega
  · obtain rfl : i = j := by omega
    rfl

theorem throughWrites_unique {r : Orientation} (hi : start + i < 64) (hj : start + j < 64)
    (hx : (o, x) ∈ throughWrites c r (start + i)) (hy : (o, y) ∈ throughWrites c r (start + j)) : x = y := by
  rcases mem_throughWrites.mp hx with ⟨ho, rfl⟩ | ⟨ho, rfl⟩ <;> rcases mem_throughWrites.mp hy with ⟨ho', rfl⟩ | ⟨ho', rfl⟩
  · rw [ho.symm.trans ho']
  · omega
  · omega
  · rw [Nat.add_left_cancel (ho.symm.trans ho')]

/-- Over slots of one span, a circuit writes each output with one connection. -/
theorem slotWrites_unique (hi : start + i < 64) (hj : start + j < 64) (hx : (o, x) ∈ slotWrites s own c f att dir start i)
    (hy : (o, y) ∈ slotWrites s own c f att dir start j) : x = y := by
  unfold slotWrites at hx hy
  generalize relation s.ringSize own f.endA f.endB dir = rel at hx hy
  match rel, att with
  | .endA, some a | .endB, some a => exact endWrites_unique hi hj hx hy
  | .intermediate, none | .intermediate, some _ => exact throughWrites_unique hi hj hx hy
  | .endA, none | .endB, none | .off, none | .off, some _ => cases hx

end

/-- A circuit whose range lies within the span gives each output one connection. -/
theorem connects_unique {s : State} {own : Nat} {e : Nat × CircuitRecord} {o : Nat} {x y : Connection}
    (hrange : ∀ f att r k dir start, e.2 = .inService f att r k →
      usesRoute (decide (s.node.state = .active)) f r dir start → start + f.width ≤ 64)
    (hx : connects s own e o x) (hy : connects s own e o y) : x = y := by
  rw [connects_iff, mem_circuitWrites] at hx hy
  obtain ⟨f, att, r, k, dir, start, i, hrec, hroute, hi, hx⟩ := hx
  obtain ⟨f', att', r', k', dir', start', j, hrec', hroute', hj, hy⟩ := hy
  obtain ⟨rfl, rfl, rfl, rfl⟩ : f = f' ∧ att = att' ∧ r = r' ∧ k = k' := by
    simpa only [CircuitRecord.inService.injEq] using hrec.symm.trans hrec'
  obtain ⟨rfl, rfl⟩ : dir = dir' ∧ start = start' := by
    simpa only [Option.some.injEq, Prod.mk.injEq] using hroute.symm.trans hroute'
  have hspan := hrange f att r k dir start hrec ((usesRoute_iff ..).mpr hroute)
  exact slotWrites_unique (by omega) (by omega) hx hy

/-- Settles O30: the target is what the circuits write in turn (`targetOf_eq`), and what they write is what `connects` names. -/
theorem targetConnectsEndsAndPassesThrough : Obligations.TargetConnectsEndsAndPassesThrough := by
  refine fun s => ⟨fun own hruns hposition => ⟨fun o hnone => ?_, fun hrange e he o x hx halone => ?_⟩, fun hidle i hi => ?_⟩
  · rw [targetOf_eq hruns hposition, look_writeAll_of_not_mem fun y hy => ?_]
    · rfl
    · obtain ⟨e, he, hy⟩ := mem_targetWrites.mp hy
      exact hnone e he y hy
  · rw [targetOf_eq hruns hposition]
    refine look_writeAll_of_mem (mem_targetWrites.mpr ⟨e, he, hx⟩) (fun y hy => ?_) []
    obtain ⟨d, hd, hy⟩ := mem_targetWrites.mp hy
    obtain rfl : d = e := by
      by_contra hne
      exact halone d hd hne y hy
    refine connects_unique (fun f att r k dir start hrec => hrange d.1 f att r k dir start ?_) hy hx
    rw [← hrec]
    exact hd
  · have htransparent : targetOf s = transparentMap := by
      unfold targetOf
      rcases hidle with h | h <;> rw [h]
      · rfl
      · cases s.node.state.runs <;> rfl
    rw [htransparent]
    exact look_transparentMap i hi

end Sys2Proof.Machine
end

section
/-! PROOF. The strap ID and the UNADDRESSED node (O14; R143, R144): every command but POWER_RESET keeps the strap, and in UNADDRESSED
with no chain in execution it keeps the node, the ring map, the settings and the cursor. -/

namespace Sys2Proof.Machine

/-! ### What only directives and the node state's own events move -/

/-- From `s` to `t` the node, the ring map, the settings, the execution state and the cursor have stayed. -/
structure NodeKept (s t : State) : Prop where
  node : t.node = s.node
  ring : t.table.ring = s.table.ring
  settings : t.settings = s.settings
  execution : t.mgmt.execution = s.mgmt.execution
  cursor : t.mgmt.cursor = s.mgmt.cursor

namespace NodeKept

theorem refl (s : State) : NodeKept s s := ⟨rfl, rfl, rfl, rfl, rfl⟩

theorem trans {s t u : State} (h : NodeKept s t) (g : NodeKept t u) : NodeKept s u :=
  ⟨g.node.trans h.node, g.ring.trans h.ring, g.settings.trans h.settings, g.execution.trans h.execution, g.cursor.trans h.cursor⟩

theorem after {s t u : State} (g : NodeKept t u) (h : NodeKept s t) : NodeKept s u := h.trans g

/-- What writes at most the records of the circuit table, and leaves the node, the execution state and the cursor as they were. -/
theorem of_circuits {s t : State} (ht : t.table = { s.table with circuits := t.table.circuits })
    (hn : t.node = s.node := by simp) (he : t.mgmt.execution = s.mgmt.execution := by simp)
    (hc : t.mgmt.cursor = s.mgmt.cursor := by simp) : NodeKept s t :=
  ⟨hn, by rw [ht], by unfold State.settings; rw [ht], he, hc⟩

/-- What leaves the circuit table, the node and the Management Unit as they were. -/
theorem of_eq {s t : State} (ht : t.table = s.table := by simp) (hn : t.node = s.node := by simp)
    (hm : t.mgmt = s.mgmt := by simp) : NodeKept s t :=
  of_circuits (by rw [ht]) hn (by rw [hm]) (by rw [hm])

/-- An undisturbing step that leaves the node and the Management Unit as they were. -/
theorem of_undisturbed {s t : State} (hu : Undisturbed s t) (hn : t.node = s.node := by simp) (hm : t.mgmt = s.mgmt := by simp) :
    NodeKept s t :=
  of_circuits hu.table hn (by rw [hm]) (by rw [hm])

/-- An arriving management frame, a break and a frame offered to a queue (R154 to R159). -/
theorem of_channel {g : State → State} (hg : ChannelOnly g) (s : State) : NodeKept s (g s) :=
  of_circuits (by rw [hg.rest s]) (by rw [hg.rest s]) (hg.execution s) (hg.cursor s)

end NodeKept

theorem nodeKept_bandFrame (p : Side) {b : Nat} (hb : b < 4) (f : BandFrame) (s : State) : NodeKept s (bandFrame p b f s) := by
  obtain ⟨_, hnode, _, _, _, htable, _, _, _, hexecution, hcursor, _⟩ := keepsBesidePort_bandFrame p hb f s
  exact .of_circuits htable hnode hexecution hcursor

theorem nodeKept_bandFrameTransmit (p : Side) (s : State) : NodeKept s (bandFrameTransmit p s) :=
  .of_circuits (by simp) (by simp) rfl rfl

theorem nodeKept_tributaryOverhead (before : Alignment) (f : TributaryFrame) (s : State) :
    NodeKept s (tributaryOverhead before f s) := by
  have hbroken : NodeKept s (if (s.trib 0).alignment = before then s else breakStream .tributary s) := by
    split
    · exact .refl s
    · exact .of_channel (channelOnly_breakStream _) s
  unfold tributaryOverhead
  dsimp only
  generalize (if (s.trib 0).alignment = before then s else breakStream .tributary s) = t at hbroken ⊢
  split
  · exact hbroken.trans (.of_channel (channelOnly_assembleField _ _) t)
  · exact hbroken

theorem nodeKept_tributaryFrame (n : Nat) (f : TributaryFrame) (s : State) : NodeKept s (tributaryFrame n f s) := by
  have hreceived : NodeKept s (receiveTributary n f s) := .of_eq
  unfold tributaryFrame
  dsimp only
  split
  · exact hreceived.trans (nodeKept_tributaryOverhead _ f _)
  · exact hreceived

theorem nodeKept_tributaryAlignmentChange (n : Nat) (f : TributaryFrame) (s : State) :
    NodeKept s (tributaryAlignmentChange n f s) := by
  unfold tributaryAlignmentChange
  dsimp only
  split
  · exact .refl s
  · exact nodeKept_tributaryFrame n f s

theorem nodeKept_tributaryFrameTransmit (n : Nat) (s : State) : NodeKept s (tributaryFrameTransmit n s) := by
  unfold tributaryFrameTransmit
  dsimp only
  split
  · exact .of_circuits (by simp) (by simp) rfl rfl
  · exact .of_eq

theorem nodeKept_reportEmission (s : State) : NodeKept s (reportEmission s) := by
  unfold reportEmission
  split
  · exact .refl s
  · exact .refl s
  · exact .refl s
  · split
    · exact .of_eq
    · exact (NodeKept.of_channel (channelOnly_offerFrame _ _) _).after (.of_eq rfl rfl rfl)

/-! ### The strap ID -/

theorem strap_restart (s : State) : (restart s).node.strap = s.node.strap := by
  obtain ⟨_, _, hnode, _⟩ := restart_frames s
  obtain ⟨hrestarted, _⟩ := restartNode_spec (restartSignals (restartTables s))
  rw [hnode, hrestarted]
  simp [restartSignals, restartTables]

theorem strap_evaluateRing (before : Table Byte) (s : State) : (evaluateRing before s).node.strap = s.node.strap := by
  cases h : sameRing before s.table.ring with
  | true => rw [evaluateRing_same h]
  | false =>
    obtain ⟨_, _, _, _, _, _, hstrap, _⟩ := ringChanged_spec s
    rw [evaluateRing_changed h, hstrap]

theorem strap_doLoad (bulk : List Byte) (s : State) : (doLoad bulk s).state.node.strap = s.node.strap := by
  rcases doLoad_cases bulk s with h | h | h | h <;> rw [h]
  · simp
  · rcases loadRing_cases bulk s with h | ⟨_, ring, mgmt, h⟩ <;> rw [h]
    exact strap_evaluateRing _ _
  · simp

theorem strap_listenExpiry (s : State) : (listenExpiry s).node.strap = s.node.strap := by
  unfold listenExpiry
  split
  · simp [setNodeState]
  · rfl

theorem chainClosed_strap : ChainClosed (fun s t => t.node.strap = s.node.strap) where
  refl _ := rfl
  trans h g := g.trans h
  channel h := by rw [h]
  restart := strap_restart
  service a c _ _ := by simp
  load := strap_doLoad
  operator _ _ _ := by simp

/-! ### What an UNADDRESSED node does not take (R144) -/

section
variable {s : State}

theorem directive_unaddressed (h : s.node.state = .unaddressed) (d : Directive) : directive d s = s := if_pos h

theorem executeRequest_unaddressed (h : s.node.state = .unaddressed) (pause : Option Nat) : executeRequest pause s = s := if_pos h

theorem listenExpiry_unaddressed (h : s.node.state = .unaddressed) : listenExpiry s = s := by
  unfold listenExpiry
  rw [h]

theorem holdTimerExpiry_idle (h : s.mgmt.execution = .idle) : holdTimerExpiry s = s := by
  unfold holdTimerExpiry
  rw [h]

theorem heldServiceRelease_idle (h : s.mgmt.execution = .idle) : heldServiceRelease s = s := by
  unfold heldServiceRelease
  rw [h]

end

/-! ### The statement -/

/-- From `s` to `t` the strap ID has stayed, and, when `s` is UNADDRESSED with no chain in execution, so has the node with all that a
directive could reach. -/
structure NoExit (s t : State) : Prop where
  strap : t.node.strap = s.node.strap
  kept : s.node.state = .unaddressed → s.mgmt.execution = .idle → NodeKept s t

theorem NodeKept.noExit {s t : State} (h : NodeKept s t) : NoExit s t := ⟨by rw [h.node], fun _ _ => h⟩

/-- What keeps the strap ID, and does nothing in an UNADDRESSED node with no chain in execution. -/
theorem NoExit.of_inert {s t : State} (hstrap : t.node.strap = s.node.strap)
    (hinert : s.node.state = .unaddressed → s.mgmt.execution = .idle → t = s) : NoExit s t :=
  ⟨hstrap, fun hu hi => by rw [hinert hu hi]; exact .refl s⟩

/-- What a command other than POWER_RESET does to the strap ID and to an UNADDRESSED node. -/
theorem noExit_exec {c : Instr} {s t : State} (hreset : ∀ strap, c ≠ .powerReset strap) (h : exec c s = .next t) :
    NoExit s t := by
  have answered : ∀ {u}, NoExit s u → exec c s = .next u → NoExit s t := fun hu e => by
    rw [e] at h; cases h; exact hu
  have kept : ∀ {u}, NodeKept s u → exec c s = .next u → NoExit s t := fun hu => answered hu.noExit
  have frameWhen : ∀ (q : Prop) [Decidable q] p (b : Fin 4) f, NodeKept s (if q then bandFrame p b f s else s) := by
    intro q _ p b f
    split
    · exact nodeKept_bandFrame p b.isLt f s
    · exact .refl s
  have directed : ∀ d, exec c s = .next (directive d s) → NoExit s t := fun d =>
    answered (.of_inert (chainClosed_strap.directive d s) fun hu _ => directive_unaddressed hu d)
  cases c with
  | powerReset strap => exact absurd rfl (hreset strap)
  | bandFrame p b f => exact kept (nodeKept_bandFrame p b.isLt f s) rfl
  | bandEntryIntoLost p b => exact kept (frameWhen _ p b noSignal) rfl
  | bandEntryIntoAligned p b f => exact kept (frameWhen _ p b f) rfl
  | degradeIntervalEnd p b f => exact kept (frameWhen _ p b f) rfl
  | holdOffExpiry p b => exact kept (.of_undisturbed (undisturbed_holdOffExpiry p b s)) rfl
  | returnTimerExpiry p b => exact kept (.of_undisturbed (undisturbed_returnTimerExpiry p b s)) rfl
  | bandFrameTransmit p => exact kept (nodeKept_bandFrameTransmit p s) rfl
  | tributaryFrame n f => exact kept (nodeKept_tributaryFrame n f s) rfl
  | tributaryAlignmentChange n f => exact kept (nodeKept_tributaryAlignmentChange n f s) rfl
  | tributaryFrameTransmit n => exact kept (nodeKept_tributaryFrameTransmit n s) rfl
  | switchFrameBoundary => exact kept (.of_undisturbed (undisturbed_frameBoundary s)) rfl
  | tagCheckStateChange n => exact kept (.of_circuits (tagStateChange_table n s).1) rfl
  | noticeTaken => exact kept (.of_undisturbed (undisturbed_takeNotice s)) rfl
  | stalenessExpiry q => exact kept (.of_undisturbed (undisturbed_stalenessExpiry q s)) rfl
  | refreshTimerExpiry => exact kept .of_eq rfl
  | gatherExpiry => exact kept .of_eq rfl
  | passCompletion => exact kept (.of_undisturbed (undisturbed_passCompletion s)) rfl
  | buildStart => exact kept .of_eq rfl
  | buildEnd => exact kept .of_eq rfl
  | listenExpiry => exact answered (.of_inert (strap_listenExpiry s) fun hu _ => listenExpiry_unaddressed hu) rfl
  | managementFrameFromLine p bytes => exact kept (.of_channel (channelOnly_frameTaken _ bytes) s) rfl
  | managementFrameFromTributary bytes => exact kept (.of_channel (channelOnly_frameTaken _ bytes) s) rfl
  | executeRequest pause =>
    exact answered (.of_inert (chainClosed_strap.executeRequest pause s) fun hu _ => executeRequest_unaddressed hu pause) rfl
  | select table index => exact directed _ rfl
  | load bulk => exact directed _ rfl
  | read count => exact directed _ rfl
  | serviceIn n => exact directed _ rfl
  | serviceOut n => exact directed _ rfl
  | holdTimerExpiry =>
    exact answered (.of_inert (chainClosed_strap.holdTimerExpiry s) fun _ hi => holdTimerExpiry_idle hi) rfl
  | heldServiceRelease =>
    exact answered (.of_inert (chainClosed_strap.heldServiceRelease s) fun _ hi => heldServiceRelease_idle hi) rfl
  | operator side value => exact directed _ rfl
  | capture flag => exact directed _ rfl
  | restart => exact directed _ rfl
  | reportEmission => exact kept (nodeKept_reportEmission s) rfl

/-- Settles O14: no command but POWER_RESET writes the strap; the directives and the listen expiry, which alone move the rest, do
nothing in UNADDRESSED, and a hold needs a chain in execution. -/
theorem unaddressedHasNoExit : Obligations.UnaddressedHasNoExit := by
  refine ⟨fun c s t hreset h => (noExit_exec hreset h).strap, fun c s t hreset hu hidle h => ?_⟩
  have hkept := (noExit_exec hreset h).kept hu hidle
  exact ⟨hkept.node, hkept.ring, hkept.settings, hkept.execution.trans hidle, hkept.cursor⟩

end Sys2Proof.Machine
end

section
/-! PROOF. The bounds of the outgoing frame queues and of the request queue (O6): what writes a queue (R158, R159), what leaves them all
as they are, chains of directives, and the statement. -/

namespace Sys2Proof.Machine

/-! ### The bounds -/

/-- The bounds of R158 and R159 on a Management Unit. -/
def Management.bounded (m : Management) : Prop :=
  (∀ q, (m.queues.get q).frames.length ≤ Config.frameQueueMax) ∧ m.requests.length ≤ Config.requestQueueMax

theorem queuesBounded_iff (s : State) : s.queuesBounded = true ↔ s.mgmt.bounded := by
  unfold State.queuesBounded Management.bounded
  simp only [Bool.and_eq_true, decide_eq_true_eq]
  constructor
  · rintro ⟨⟨⟨heast, hwest⟩, htrib⟩, hrequests⟩
    refine ⟨fun q => ?_, hrequests⟩
    rcases q with (_ | _) | _
    exacts [heast, hwest, htrib]
  · rintro ⟨hqueues, hrequests⟩
    exact ⟨⟨⟨hqueues (.line .east), hqueues (.line .west)⟩, hqueues .tributary⟩, hrequests⟩

/-- From `s` to `t` the bounds of the queues have been kept. -/
def KeepsBounds (s t : State) : Prop := s.mgmt.bounded → t.mgmt.bounded

namespace KeepsBounds

theorem refl (s : State) : KeepsBounds s s := id

theorem trans {s t u : State} (h : KeepsBounds s t) (g : KeepsBounds t u) : KeepsBounds s u := fun hs => g (h hs)

theorem after {s t u : State} (g : KeepsBounds t u) (h : KeepsBounds s t) : KeepsBounds s u := h.trans g

/-- What writes neither an outgoing frame queue nor the request queue. -/
theorem of_queues {s t : State} (hq : t.mgmt.queues = s.mgmt.queues := by simp) (hr : t.mgmt.requests = s.mgmt.requests := by simp) :
    KeepsBounds s t := by
  unfold KeepsBounds Management.bounded
  rw [hq, hr]
  exact id

/-- What leaves the Management Unit as it was. -/
theorem of_mgmt {s t : State} (h : t.mgmt = s.mgmt := by simp) : KeepsBounds s t := of_queues (by rw [h]) (by rw [h])

end KeepsBounds

/-! ### Writes of a queue -/

theorem keepsBounds_setQueue (q : MgmtPort) {v : FrameQueue} (hv : v.frames.length ≤ Config.frameQueueMax) (s : State) :
    KeepsBounds s (setQueue q v s) := by
  rintro ⟨hqueues, hrequests⟩
  refine ⟨fun r => ?_, hrequests⟩
  show ((s.mgmt.queues.set q v).get r).frames.length ≤ _
  rw [Trio.get_set]
  split
  · exact hv
  · exact hqueues r

/-- A frame is appended to a queue with a free place alone (R158). -/
theorem keepsBounds_offerFrame (q : MgmtPort) (f : Frame) (s : State) : KeepsBounds s (offerFrame q f s) := by
  rcases offerFrame_cases q f s with ⟨hfree, h⟩ | ⟨_, h⟩ <;> rw [h]
  · exact keepsBounds_setQueue q (by simpa using hfree) s
  · exact .of_mgmt

theorem keepsBounds_advanceStream (q : MgmtPort) (s : State) : KeepsBounds s (advanceStream q s) := fun hs =>
  keepsBounds_setQueue q ((dropSent_length _ _).trans (hs.1 q)) s hs

theorem keepsBounds_sendFrame (f : Frame) (s : State) : KeepsBounds s (sendFrame f s) := by
  unfold sendFrame
  split
  · exact keepsBounds_offerFrame _ f s
  · exact .refl s

/-- A request is appended while fewer than 4 are held (R159). -/
theorem keepsBounds_offerRequest (f : Frame) (s : State) : KeepsBounds s (offerRequest f s) := by
  unfold offerRequest
  split
  · rename_i hroom
    rintro ⟨hqueues, _⟩
    refine ⟨hqueues, ?_⟩
    rw [List.length_append]
    exact hroom
  · exact (keepsBounds_sendFrame _ s).trans (.of_mgmt rfl)

/-! ### Arriving frames (R154 to R156) -/

theorem keepsBounds_receiveFrame (q : MgmtPort) (f : Frame) (s : State) : KeepsBounds s (receiveFrame q f s) := by
  cases q with
  | line p =>
    show KeepsBounds s (receiveFromLine p f s)
    unfold receiveFromLine forwardFrame
    repeat' split
    · exact keepsBounds_offerFrame _ _ s
    · exact .of_mgmt
    · exact keepsBounds_offerRequest f s
    · exact keepsBounds_offerFrame _ f s
    · exact .of_mgmt
  | tributary =>
    show KeepsBounds s (receiveFromTributary f s)
    unfold receiveFromTributary injectRequest
    repeat' split
    · exact .refl s
    · exact keepsBounds_offerRequest _ s
    · exact keepsBounds_offerFrame _ _ s
    · exact keepsBounds_sendFrame _ s

theorem keepsBounds_frameTaken (q : MgmtPort) (bytes : List Byte) (s : State) : KeepsBounds s (frameTaken q bytes s) := by
  unfold frameTaken
  split
  · exact keepsBounds_receiveFrame q _ s
  · exact .of_mgmt

theorem keepsBounds_assembleByte (q : MgmtPort) (s : State) (b : Byte) : KeepsBounds s (assembleByte q s b) := by
  unfold assembleByte
  dsimp only
  repeat' split
  · exact .refl s
  · exact .of_queues rfl rfl
  · exact .of_queues rfl rfl
  · exact .of_queues rfl rfl
  · exact .of_queues rfl rfl
  · exact .of_queues rfl rfl
  · exact (KeepsBounds.of_queues rfl rfl).trans (keepsBounds_frameTaken q _ (setAssembler q .hunt s))

theorem keepsBounds_assembleField (q : MgmtPort) (bytes : List Byte) (s : State) : KeepsBounds s (assembleField q bytes s) := by
  induction bytes generalizing s with
  | nil => exact .refl s
  | cons b bytes ih => exact (keepsBounds_assembleByte q s b).trans (ih _)

theorem keepsBounds_breakStream (q : MgmtPort) (s : State) : KeepsBounds s (breakStream q s) := by
  rw [breakStream_eq]
  split
  · exact .refl s
  · exact .of_queues rfl rfl

theorem keepsBounds_setStreaming (p : Side) (on : Bool) (s : State) : KeepsBounds s (setStreaming p on s) := by
  unfold setStreaming
  split
  · exact .refl s
  · exact (keepsBounds_breakStream _ _).after (.of_mgmt rfl)

theorem keepsBounds_portOverhead (p : Side) (b : Nat) (f : BandFrame) (s : State) : KeepsBounds s (portOverhead p b f s) := by
  unfold portOverhead
  repeat' split
  · exact (keepsBounds_assembleField _ _ _).after ((keepsBounds_setStreaming p true (readNotice p f.notice s)).after .of_mgmt)
  · exact .refl s
  · exact keepsBounds_setStreaming p false s
  · exact .refl s

theorem keepsBounds_bandFrame (p : Side) (b : Nat) (f : BandFrame) (s : State) : KeepsBounds s (bandFrame p b f s) :=
  KeepsBounds.after (.of_mgmt (intervalFrame_frame _ _ _ _).2.2.2.2)
    ((keepsBounds_portOverhead p b f (alignmentChanged p b (s.band p b).alignment (receiveBand p b f s))).after .of_mgmt)

theorem keepsBounds_tributaryFrame (n : Nat) (f : TributaryFrame) (s : State) : KeepsBounds s (tributaryFrame n f s) := by
  have hreceived : KeepsBounds s (receiveTributary n f s) := .of_mgmt
  unfold tributaryFrame tributaryOverhead
  dsimp only
  generalize receiveTributary n f s = u at hreceived ⊢
  have hbroken : KeepsBounds s (if (u.trib 0).alignment = (s.trib 0).alignment then u else breakStream .tributary u) := by
    split
    · exact hreceived
    · exact hreceived.trans (keepsBounds_breakStream _ u)
  split
  · split
    · exact hbroken.trans (keepsBounds_assembleField _ _ _)
    · exact hbroken
  · exact hreceived

/-! ### Chains -/

theorem keepsBounds_sendReply (c : Chain) (s : State) : KeepsBounds s (sendReply c s) := by
  unfold sendReply
  split
  · exact .refl s
  · refine (keepsBounds_sendFrame _ s).trans fun ⟨hqueues, hrequests⟩ => ⟨hqueues, ?_⟩
    rw [List.length_tail]
    exact (Nat.sub_le _ _).trans hrequests

theorem keepsBounds_endChain (c : Chain) (s : State) : KeepsBounds s (endChain c s) := by
  unfold endChain
  dsimp only
  split
  · exact (keepsBounds_sendReply c s).trans (.of_queues (by simp) (by simp))
  · exact (keepsBounds_sendReply c s).trans (.of_queues rfl rfl)

/-- A directive's answer keeps the bounds, after an effect that does. -/
theorem KeepsBounds.answer {s u : State} (h : KeepsBounds s u) (c : Chain) (more : Bool) (code : ResultCode) (count : Nat) :
    KeepsBounds s (Machine.answer c more code count u) := by
  unfold Machine.answer
  split
  · exact h.trans (keepsBounds_endChain _ u)
  · exact h.trans (.of_queues rfl rfl)

/-- A LOAD writes of the Management Unit the cursor alone (R163, R165). -/
theorem mgmt_doLoad (bulk : List Byte) (s : State) :
    (doLoad bulk s).state.mgmt = { s.mgmt with cursor := (doLoad bulk s).state.mgmt.cursor } := by
  have himages : ∀ {write : List Byte → State → Except ResultCode State} (records : Nat) (l : List (List Byte)),
      (∀ image t u, write image t = .ok u → u.mgmt = t.mgmt) →
      (loadImages write records l 0 s).state.mgmt =
        { s.mgmt with cursor := (loadImages write records l 0 s).state.mgmt.cursor } := by
    intro write records l hw
    refine loadImages_keeps (R := fun t => t.mgmt = { s.mgmt with cursor := t.mgmt.cursor }) (fun image t u ht hu => ?_) l 0 rfl
    show { u.mgmt with cursor := (advanceCursor u).mgmt.cursor } = { s.mgmt with cursor := (advanceCursor u).mgmt.cursor }
    rw [hw image t u hu, ht]
  rcases doLoad_cases bulk s with h | h | h | h <;> rw [h]
  · rcases loadSettings_cases bulk s with h | ⟨image, h, _⟩ <;> rw [h]
    rw [(storeSettings_frame _ _).2.2.2.2]
    rfl
  · unfold loadRing
    split
    · rfl
    · dsimp only
      rw [(evaluateRing_frame _ _).2.2.2.2]
      refine himages _ _ fun image t u hu => ?_
      unfold writeRing at hu
      dsimp only at hu
      split at hu <;> cases hu
      rfl
  · refine himages _ _ fun image t u hu => ?_
    obtain ⟨r, _, rfl, _⟩ := writeCircuit_ok hu
    rfl

theorem keepsBounds_takeDirective (c : Chain) (more : Bool) (d : Directive) (s : State) :
    KeepsBounds s (takeDirective c more d s) := by
  have refused : ∀ code count, KeepsBounds s (answer c more code count s) := (KeepsBounds.refl s).answer c more
  cases d with
  | select table index =>
    refine KeepsBounds.answer ?_ c more _ _
    unfold doSelect
    repeat' split
    exacts [.refl s, .of_queues rfl rfl, .refl s]
  | load bulk => exact KeepsBounds.answer (.of_queues (by rw [mgmt_doLoad]) (by rw [mgmt_doLoad])) c more _ _
  | read count =>
    unfold takeDirective
    dsimp only
    split
    · exact refused _ _
    · exact .of_queues rfl rfl
  | service circuit action =>
    unfold takeDirective takeService
    dsimp only
    repeat' split
    · exact refused _ _
    · exact refused _ _
    · exact .of_queues rfl rfl
    · exact KeepsBounds.answer .of_mgmt c more _ _
  | operator side value => exact KeepsBounds.answer .of_mgmt c more _ _
  | capture flag => exact KeepsBounds.answer .of_mgmt c more _ _
  | restart => exact (KeepsBounds.refl s).answer _ _ _ _

theorem keepsBounds_chainStep (c : Chain) (s : State) : KeepsBounds s (chainStep c s) := by
  have refused : ∀ code count, KeepsBounds s (answer c false code count s) := (KeepsBounds.refl s).answer c false
  unfold chainStep readRecord
  dsimp only
  repeat' split
  · exact refused _ _
  · exact refused _ _
  · exact .of_queues rfl rfl
  · exact refused _ _
  · exact refused _ _
  · exact keepsBounds_takeDirective _ _ _ s
  · exact keepsBounds_endChain c s

theorem keepsBounds_runChain (n : Nat) (s : State) : KeepsBounds s (runChain n s) := by
  induction n generalizing s with
  | zero => exact .refl s
  | succ n ih =>
    unfold runChain
    split
    · exact (keepsBounds_chainStep _ s).trans (ih _)
    · exact .refl s

theorem keepsBounds_runPaused (pause : Option Nat) (s : State) : KeepsBounds s (runPaused pause s) := by
  unfold runPaused
  split
  · exact keepsBounds_runChain _ s
  · exact .refl s

theorem keepsBounds_executeRequest (pause : Option Nat) (s : State) : KeepsBounds s (executeRequest pause s) := by
  have hstart : KeepsBounds s (startRequest s) := by
    unfold startRequest
    split
    · exact .refl s
    · exact .of_queues rfl rfl
  unfold executeRequest
  repeat' split
  · exact .refl s
  · exact hstart.trans (keepsBounds_runPaused pause _)
  · exact keepsBounds_runPaused pause s
  · exact .refl s

theorem keepsBounds_directive (d : Directive) (s : State) : KeepsBounds s (directive d s) := by
  have taken : ∀ c more, KeepsBounds s (runPaused none (takeDirective c more d s)) := fun c more =>
    (keepsBounds_takeDirective c more d s).trans (keepsBounds_runPaused none _)
  unfold directive
  dsimp only
  repeat' split
  · exact .refl s
  · exact taken _ _
  · exact taken _ _
  · exact keepsBounds_takeDirective _ _ _ s
  · exact .refl s
  · exact .refl s
  · exact .refl s

theorem keepsBounds_holdTimerExpiry (s : State) : KeepsBounds s (holdTimerExpiry s) := by
  unfold holdTimerExpiry
  split
  · exact KeepsBounds.answer (u := s.reach _) .of_mgmt _ _ _ _
  · exact .refl s

theorem keepsBounds_heldServiceRelease (s : State) : KeepsBounds s (heldServiceRelease s) := by
  unfold heldServiceRelease takeService
  dsimp only
  repeat' split
  · exact .refl s
  · exact KeepsBounds.answer .of_mgmt _ _ _ _
  · exact .refl s

theorem keepsBounds_reportEmission (s : State) : KeepsBounds s (reportEmission s) := by
  unfold reportEmission
  repeat' split
  · exact .refl s
  · exact .refl s
  · exact .refl s
  · exact .of_mgmt rfl
  · exact (keepsBounds_offerFrame _ _ _).after (.of_mgmt rfl)

/-! ### The statement -/

/-- What a command other than POWER_RESET does to the queues. -/
theorem keepsBounds_exec {c : Instr} {s t : State} (hreset : ∀ strap, c ≠ .powerReset strap) (h : exec c s = .next t) :
    KeepsBounds s t := by
  have kept : ∀ {u}, KeepsBounds s u → exec c s = .next u → KeepsBounds s t := fun hu e => by
    rw [e] at h; cases h; exact hu
  have directed : ∀ d, exec c s = .next (directive d s) → KeepsBounds s t := fun d => kept (keepsBounds_directive d s)
  have frameWhen : ∀ (q : Prop) [Decidable q] p b f, KeepsBounds s (if q then bandFrame p b f s else s) := by
    intro q _ p b f
    split
    · exact keepsBounds_bandFrame p b f s
    · exact .refl s
  cases c with
  | powerReset strap => exact absurd rfl (hreset strap)
  | bandFrame p b f => exact kept (keepsBounds_bandFrame p b f s) rfl
  | bandEntryIntoLost p b => exact kept (frameWhen _ p b noSignal) rfl
  | bandEntryIntoAligned p b f => exact kept (frameWhen _ p b f) rfl
  | degradeIntervalEnd p b f => exact kept (frameWhen _ p b f) rfl
  | holdOffExpiry p b => exact kept .of_mgmt rfl
  | returnTimerExpiry p b => exact kept .of_mgmt rfl
  | bandFrameTransmit p =>
    have hstream : KeepsBounds s (advanceStream (.line p) s) := keepsBounds_advanceStream _ s
    exact kept (u := bandFrameTransmit p s) (hstream.trans (.of_mgmt rfl)) rfl
  | tributaryFrame n f => exact kept (keepsBounds_tributaryFrame n f s) rfl
  | tributaryAlignmentChange n f =>
    refine kept ?_ rfl
    unfold tributaryAlignmentChange
    dsimp only
    split
    · exact .refl s
    · exact keepsBounds_tributaryFrame n f s
  | tributaryFrameTransmit n =>
    refine kept ?_ rfl
    unfold tributaryFrameTransmit
    dsimp only
    split
    · exact (KeepsBounds.of_mgmt rfl).trans (keepsBounds_advanceStream _ _)
    · exact .of_mgmt rfl
  | switchFrameBoundary => exact kept .of_mgmt rfl
  | tagCheckStateChange n => exact kept .of_mgmt rfl
  | noticeTaken => exact kept .of_mgmt rfl
  | stalenessExpiry q => exact kept .of_mgmt rfl
  | refreshTimerExpiry => exact kept .of_mgmt rfl
  | gatherExpiry => exact kept .of_mgmt rfl
  | passCompletion => exact kept .of_mgmt rfl
  | buildStart => exact kept .of_mgmt rfl
  | buildEnd => exact kept .of_mgmt rfl
  | listenExpiry => exact kept .of_mgmt rfl
  | managementFrameFromLine p bytes => exact kept (keepsBounds_frameTaken _ bytes s) rfl
  | managementFrameFromTributary bytes => exact kept (keepsBounds_frameTaken _ bytes s) rfl
  | executeRequest pause => exact kept (keepsBounds_executeRequest pause s) rfl
  | select table index => exact directed _ rfl
  | load bulk => exact directed _ rfl
  | read count => exact directed _ rfl
  | serviceIn n => exact directed _ rfl
  | serviceOut n => exact directed _ rfl
  | holdTimerExpiry => exact kept (keepsBounds_holdTimerExpiry s) rfl
  | heldServiceRelease => exact kept (keepsBounds_heldServiceRelease s) rfl
  | operator side value => exact directed _ rfl
  | capture flag => exact directed _ rfl
  | restart => exact directed _ rfl
  | reportEmission => exact kept (keepsBounds_reportEmission s) rfl

/-- Settles O6: a queue grows in `offerFrame` and `offerRequest` alone, which look for a place first; a power reset empties them. -/
theorem stepsKeepQueueBounds : Obligations.StepsKeepQueueBounds := by
  intro s t hs h
  unfold step at h
  split at h
  · cases h
    exact hs
  · rename_i c rest _
    by_cases hreset : ∃ strap, c = .powerReset strap
    · obtain ⟨strap, rfl⟩ := hreset
      cases h
      exact (powerResetMeetsTheInvariants.2 strap).2.1
    · rw [queuesBounded_iff] at hs ⊢
      exact keepsBounds_exec (fun strap he => hreset ⟨strap, he⟩) h hs

end Sys2Proof.Machine
end

section
/-! PROOF. Directives taken by themselves: SELECT (O47), CAPTURE (O57) and READ (O51); and the expiry of a hold (O55). -/

namespace Sys2Proof.Machine

/-! ### SELECT and CAPTURE -/

/-- The record counts of the tables by table number; a number above 8 names none (R163). -/
theorem tableOf_records (n : Nat) :
    (tableOf n).elim 0 TableId.records = [1, 1, 32, 1024, 32, 32, 32, 192, 37].getD n 0 := by
  match n with
  | 0 | 1 | 2 | 3 | 4 | 5 | 6 | 7 | 8 => rfl
  | _ + 9 => rfl

theorem doSelect_taken {table index : Nat} {tid : TableId} (ht : tableOf table = some tid) (hi : index < tid.records) (s : State) :
    doSelect table index s = { state := setCursor tid index s, code := .ok, count := 0 } := by
  unfold doSelect
  rw [ht]
  exact if_pos hi

theorem doSelect_refused {table index : Nat} (h : (tableOf table).elim 0 TableId.records ≤ index) (s : State) :
    doSelect table index s = { state := s, code := .range, count := 0 } := by
  unfold doSelect
  cases ht : tableOf table with
  | none => rfl
  | some tid =>
    rw [ht] at h
    exact if_neg (Nat.not_lt.mpr h)

theorem exec_select {s : State} (h : s.canTake) (table : Byte) (index : Half) :
    exec (.select table index) s =
      .next ((doSelect table.toNat index.toNat s).state.answeredWith (doSelect table.toNat index.toNat s).code
        (doSelect table.toNat index.toNat s).count []) :=
  congrArg Host.Outcome.next (directive_answered h rfl)

/-- Settles O47: the list of the statement is the record counts by table number. -/
theorem selectSetsTheCursor : Obligations.SelectSetsTheCursor := by
  intro table index s htake records
  have hrecords : (tableOf table.toNat).elim 0 TableId.records = records := tableOf_records table.toNat
  refine ⟨fun hi => ?_, fun hi => ?_⟩
  · rw [← hrecords] at hi
    cases ht : tableOf table.toNat with
    | none => rw [ht] at hi; exact absurd hi (Nat.not_lt_zero _)
    | some tid =>
      rw [ht] at hi
      refine ⟨tid, rfl, ?_⟩
      rw [exec_select htake, doSelect_taken ht hi]
      rfl
  · rw [exec_select htake, doSelect_refused (hrecords.trans_le hi)]

theorem exec_capture {s : State} (h : s.canTake) (flag : Byte) :
    exec (.capture flag) s =
      .next ((doCapture flag.toNat s).state.answeredWith (doCapture flag.toNat s).code (doCapture flag.toNat s).count []) :=
  congrArg Host.Outcome.next (directive_answered h rfl)

/-- Settles O57: the snapshot is the table of live counters, which is emptied with the flag set. -/
theorem captureCopiesTheCounters : Obligations.CaptureCopiesTheCounters := by
  intro flag s htake
  rw [exec_capture htake]
  refine ⟨fun hflag => ?_, fun hflag => ?_⟩
  · rw [doCapture, if_pos hflag]
  · have hone : flag.toNat = 1 ↔ flag = 1 := BitVec.toNat_inj (y := (1 : Byte))
    rw [doCapture, if_neg (Nat.not_lt.mpr hflag)]
    refine ⟨_, rfl, fun n => rfl, fun n => ?_, rfl⟩
    show look 0 (if flag.toNat = 1 then [] else s.counters) n = _
    rw [apply_ite (look 0 · n)]
    simp only [hone]
    rfl

/-! ### The end of a chain -/

/-- The last directive of a chain ends it, whatever it gives (R160). -/
theorem chainAnswered_last (c : Chain) (code : ResultCode) (count : Nat) (s : State) :
    s.chainAnswered c false code count =
      s.chainEnded c (c.items ++ [{ index := c.index, code := code, count := count }]) c.records := by
  unfold State.chainAnswered
  exact if_neg (fun h => Bool.noConfusion h.1)

theorem answer_last (c : Chain) (code : ResultCode) (count : Nat) (s : State) :
    answer c false code count s =
      s.chainEnded c (c.items ++ [{ index := c.index, code := code, count := count }]) c.records :=
  (answer_eq _ _ _ _ _).trans (chainAnswered_last _ _ _ _)

/-- The outgoing queue a frame is named turns on the node, the tables and the map alone (R157). -/
theorem namedQueue_congr {s t : State} (hnode : t.node = s.node) (htable : t.table = s.table) (hmap : t.map = s.map) (dest : Byte) :
    namedQueue t dest = namedQueue s dest := by
  unfold namedQueue pathTo pathUsable State.ownId State.position State.ringSize State.settings
  rw [hnode, htable, hmap]

theorem offerFrame_congr {s t : State} (hqueues : t.mgmt.queues = s.mgmt.queues) (hcounters : t.counters = s.counters)
    (q : MgmtPort) (f : Frame) :
    offerFrame q f t = { t with
      mgmt := { t.mgmt with queues := (offerFrame q f s).mgmt.queues }, counters := (offerFrame q f s).counters } := by
  unfold offerFrame
  rw [hqueues]
  dsimp only
  split
  · unfold setQueue
    rw [hqueues, ← hcounters]
  · unfold bump State.counter
    rw [hcounters, ← hqueues]

/-- What sending a frame does turns on the node, the tables, the map and the outgoing queues alone, and writes the queues and the
counters alone (R157, R158). -/
theorem sendFrame_congr {s t : State} (hnode : t.node = s.node) (htable : t.table = s.table) (hmap : t.map = s.map)
    (hqueues : t.mgmt.queues = s.mgmt.queues) (hcounters : t.counters = s.counters) (f : Frame) :
    sendFrame f t =
      { t with mgmt := { t.mgmt with queues := (sendFrame f s).mgmt.queues }, counters := (sendFrame f s).counters } := by
  unfold sendFrame
  rw [namedQueue_congr hnode htable hmap]
  cases namedQueue s f.destination with
  | none =>
    show t = { t with mgmt := { t.mgmt with queues := s.mgmt.queues }, counters := s.counters }
    rw [← hqueues, ← hcounters]
  | some q => exact offerFrame_congr hqueues hcounters q f

/-- Settles O55: an answer that refuses ends the chain, and sending the reply does not turn on the time. -/
theorem holdExpiryAnswersEngineBusy : Obligations.HoldExpiryAnswersEngineBusy := by
  intro s ch h e hholding items
  have hended : exec .holdTimerExpiry s = .next (State.chainEnded { s with now := max s.now e } ch items ch.records) := by
    show Host.Outcome.next (holdTimerExpiry s) = _
    unfold holdTimerExpiry
    rw [hholding]
    exact congrArg Host.Outcome.next (answer_last ch .engineBusy 0 (s.reach e))
  refine ⟨hended, fun origin tag hrequester hdue => ?_⟩
  rw [hended]
  unfold State.chainEnded
  rw [hrequester, hdue]
  dsimp only
  rw [sendFrame_congr (s := s) (t := { s with now := max s.now e }) rfl rfl rfl rfl rfl,
    sendFrame_congr (s := s) (t := s) rfl rfl rfl rfl rfl]
  rfl

/-! ### READ -/

/-- No record turns on the Management Unit (R163). -/
theorem recordImage_mgmt (s : State) (m : Management) (t : TableId) (i : Nat) :
    recordImage { s with mgmt := m } t i = recordImage s t i := by
  cases t <;> rfl

section
variable {c : Chain} {r : Reading} {s : State}

theorem readRecord_done (h : r.remaining = 0) :
    readRecord c r s = s.chainEnded c (c.items ++ [{ index := c.index, code := .ok, count := r.returned }]) c.records := by
  rw [readRecord, if_pos h, answer_last]

theorem readRecord_tableEnd (h : r.remaining ≠ 0) (hend : s.mgmt.cursor.table.records ≤ s.mgmt.cursor.index) :
    readRecord c r s =
      s.chainEnded c (c.items ++ [{ index := c.index, code := .endOfTable, count := r.returned }]) c.records := by
  rw [readRecord, if_neg h, if_pos hend, answer_last]

theorem readRecord_full (h : r.remaining ≠ 0) (hin : s.mgmt.cursor.index < s.mgmt.cursor.table.records)
    (hfull : s.settings.maxReply < replySize (c.items.length + 1)
      (c.records.length + (recordImage s s.mgmt.cursor.table s.mgmt.cursor.index).length)) :
    readRecord c r s =
      s.chainEnded c (c.items ++ [{ index := c.index, code := .truncated, count := r.returned }]) c.records := by
  rw [readRecord, if_neg h, if_neg (Nat.not_le.mpr hin), if_neg (Nat.not_le.mpr hfull), answer_last]

theorem readRecord_taken (h : r.remaining ≠ 0) (hin : s.mgmt.cursor.index < s.mgmt.cursor.table.records)
    (hfits : replySize (c.items.length + 1)
      (c.records.length + (recordImage s s.mgmt.cursor.table s.mgmt.cursor.index).length) ≤ s.settings.maxReply) :
    readRecord c r s = setExecution (.running { c with
      records := c.records ++ recordImage s s.mgmt.cursor.table s.mgmt.cursor.index
      reading := some { remaining := r.remaining - 1, returned := r.returned + 1 } }) (advanceCursor s) := by
  rw [readRecord, if_neg h, if_neg (Nat.not_le.mpr hin), if_pos hfits]

end

/-- The chain of a READ by itself in progress: some records in the reply, `left` still to return and `n` returned. -/
def readChain (records : List Byte) (left n : Nat) : Chain :=
  { Chain.start none [] with records := records, reading := some { remaining := left, returned := n } }

/-- A READ by itself in progress, with the cursor at index `i` of a table. -/
def State.reading (s : State) (t : TableId) (i : Nat) (records : List Byte) (left n : Nat) : State :=
  setExecution (.running (readChain records left n)) (setCursor t i s)

theorem runChain_reading_step (s : State) (t : TableId) (i : Nat) (records : List Byte) (left n fuel : Nat) :
    runChain (fuel + 1) (s.reading t i records left n) = runChain fuel
      (readRecord (readChain records left n) { remaining := left, returned := n } (s.reading t i records left n)) := rfl

/-- The `m` records of a table from index `i` on. -/
def recordsFrom (s : State) (t : TableId) (i m : Nat) : List Byte := (List.range m).flatMap (fun j => recordImage s t (i + j))

theorem recordsFrom_succ (s : State) (t : TableId) (i m : Nat) :
    recordsFrom s t i (m + 1) = recordImage s t i ++ recordsFrom s t (i + 1) m := by
  unfold recordsFrom
  rw [List.range_succ_eq_map, List.flatMap_cons, List.flatMap_map, Nat.add_zero]
  simp only [Nat.succ_eq_add_one, Nat.add_assoc, Nat.add_comm 1]

/-- A READ of `k` records from index `i` on, with `size` bytes in the reply, ends with a code after `m` of them: they lie in the table
and fit the reply, and the code says why it ends there (R167). -/
structure ReadEnds (s : State) (t : TableId) (i k size m : Nat) (code : ResultCode) : Prop where
  within : m ≤ k
  fits : m ≠ 0 → i + m ≤ t.records ∧ size + (recordsFrom s t i m).length ≤ s.settings.maxReply
  why : (code = .ok ∧ m = k) ∨ (code = .endOfTable ∧ m < k ∧ t.records ≤ i + m) ∨
    (code = .truncated ∧ m < k ∧ i + m < t.records ∧
      s.settings.maxReply < size + (recordsFrom s t i m).length + (recordImage s t (i + m)).length)

/-- A READ that takes one record more before it ends. -/
theorem ReadEnds.succ {s : State} {t : TableId} {i k size m : Nat} {code : ResultCode}
    (h : ReadEnds s t (i + 1) k (size + (recordImage s t i).length) m code) (hi : i < t.records)
    (hfits : size + (recordImage s t i).length ≤ s.settings.maxReply) : ReadEnds s t i (k + 1) size (m + 1) code := by
  obtain ⟨hwithin, hmore, hwhy⟩ := h
  have hindex : i + (m + 1) = i + 1 + m := by omega
  have hlength : size + (recordsFrom s t i (m + 1)).length =
      size + (recordImage s t i).length + (recordsFrom s t (i + 1) m).length := by
    rw [recordsFrom_succ, List.length_append]; omega
  refine ⟨Nat.succ_le_succ hwithin, fun _ => ?_, ?_⟩
  · rw [hindex, hlength]
    by_cases hm : m = 0
    · subst hm
      exact ⟨hi, hfits⟩
    · exact hmore hm
  · rw [hindex, hlength, Nat.succ_lt_succ_iff, Nat.succ_inj]
    exact hwhy

/-- A READ by itself runs to its end, a record at a step (R167). -/
theorem runChain_reading (s : State) (t : TableId) (k : Nat) : ∀ (i : Nat) (l : List Byte) (n fuel : Nat), k < fuel →
    ∃ m code, ReadEnds s t i k (14 + l.length) m code ∧
      runChain fuel (s.reading t i l k n) =
        (setCursor t (i + m) s).answeredWith code (n + m) (l ++ recordsFrom s t i m) := by
  induction k with
  | zero =>
    intro i l n fuel hfuel
    obtain ⟨fuel, rfl⟩ : ∃ f, fuel = f + 1 := ⟨fuel - 1, by omega⟩
    refine ⟨0, .ok, ⟨le_rfl, fun h => absurd rfl h, .inl ⟨rfl, rfl⟩⟩, ?_⟩
    rw [runChain_reading_step, readRecord_done rfl, runChain_stopped _ (fun c hc => by cases hc)]
    simp only [recordsFrom, List.range_zero, List.flatMap_nil, List.append_nil]
    rfl
  | succ k ih =>
    intro i l n fuel hfuel
    obtain ⟨fuel, rfl⟩ : ∃ f, fuel = f + 1 := ⟨fuel - 1, by omega⟩
    have himage : recordImage (s.reading t i l (k + 1) n) t i = recordImage s t i := recordImage_mgmt s _ t i
    have hleft : k + 1 ≠ 0 := Nat.succ_ne_zero k
    have hended : ∀ code, (s.reading t i l (k + 1) n).chainEnded
        (readChain l (k + 1) n) [{ index := 0, code := code, count := n }] l =
        (setCursor t (i + 0) s).answeredWith code (n + 0) (l ++ recordsFrom s t i 0) := fun code => by
      rw [show recordsFrom s t i 0 = [] from rfl, List.append_nil]
      rfl
    rw [runChain_reading_step]
    by_cases hend : t.records ≤ i
    · refine ⟨0, .endOfTable, ⟨Nat.zero_le _, fun h => absurd rfl h, .inr (.inl ⟨rfl, Nat.succ_pos k, hend⟩)⟩, ?_⟩
      rw [readRecord_tableEnd hleft hend, runChain_stopped _ (fun c hc => by cases hc)]
      exact hended .endOfTable
    · have hin : i < t.records := Nat.not_le.mp hend
      have hsize : replySize 1 (l.length + (recordImage (s.reading t i l (k + 1) n) t i).length) =
          14 + l.length + (recordImage s t i).length := by
        rw [himage]
        unfold replySize
        omega
      by_cases hfits : 14 + l.length + (recordImage s t i).length ≤ s.settings.maxReply
      · obtain ⟨m, code, hends, hrun⟩ := ih (i + 1) (l ++ recordImage s t i) (n + 1) fuel (by omega)
        rw [List.length_append, ← Nat.add_assoc] at hends
        refine ⟨m + 1, code, hends.succ hin hfits, ?_⟩
        rw [readRecord_taken (c := readChain l (k + 1) n) (s := s.reading t i l (k + 1) n) hleft hin (hsize.trans_le hfits)]
        show runChain fuel (s.reading t (i + 1) (l ++ recordImage (s.reading t i l (k + 1) n) t i) k (n + 1)) = _
        rw [himage, recordsFrom_succ, ← List.append_assoc, show i + (m + 1) = i + 1 + m by omega,
          show n + (m + 1) = n + 1 + m by omega]
        exact hrun
      · have hfull : s.settings.maxReply < 14 + l.length + (recordImage s t i).length := Nat.not_le.mp hfits
        refine ⟨0, .truncated, ⟨Nat.zero_le _, fun h => absurd rfl h,
          .inr (.inr ⟨rfl, Nat.succ_pos k, hin, hfull⟩)⟩, ?_⟩
        rw [readRecord_full (c := readChain l (k + 1) n) (s := s.reading t i l (k + 1) n) hleft hin (hfull.trans_eq hsize.symm), runChain_stopped _ (fun c hc => by cases hc)]
        exact hended .truncated

/-- A READ that asks for records is taken by itself and read to its end (R167; log 16). -/
theorem exec_read {s : State} (h : s.canTake) {count : Byte} (hcount : count.toNat ≠ 0) :
    exec (.read count) s = .next (runChain 260 (s.reading s.mgmt.cursor.table s.mgmt.cursor.index [] count.toNat 0)) := by
  refine congrArg Host.Outcome.next ?_
  show directive (.read count.toNat) s = _
  rw [directive_alone h, takeDirective, if_neg hcount]
  rfl

/-- Settles O51: by `runChain_reading`, from the cursor with no record in the reply. -/
theorem readReturnsRecords : Obligations.ReadReturnsRecords := by
  intro count s htake cur
  have hzero : count.toNat = 0 ↔ count = 0 := BitVec.toNat_inj (y := (0 : Byte))
  refine ⟨fun hcount => ?_, fun hcount => ?_⟩
  · refine congrArg Host.Outcome.next (directive_answered htake ?_)
    rw [takeDirective, if_pos (hzero.mpr hcount)]
  · have hcount' : count.toNat ≠ 0 := fun h => hcount (hzero.mp h)
    have hlt : count.toNat < 260 := count.isLt.trans (by decide)
    obtain ⟨m, code, ⟨hwithin, hfits, hwhy⟩, hrun⟩ := runChain_reading s cur.table count.toNat cur.index [] 0 260 hlt
    refine ⟨m, code, hwithin, ?_, hfits, hwhy⟩
    rw [exec_read htake hcount', hrun, Nat.zero_add]
    rfl

end Sys2Proof.Machine
end

section
/-! PROOF. Management frames from a line port (O44) and from tributary port 0 (O45): a frame read back from its bytes (R153), the outgoing
queues (R158), and the path a frame leaves by (R157). -/

namespace Sys2Proof.Machine

/-! ### A frame read back from its bytes (R153) -/

/-- Two bytes after a run of bytes are the field at the run's end. -/
theorem halfAt_append_bytes2 (l : List Byte) {n : Nat} (h : n < 65536) : halfAt (l ++ bytes2 n) l.length = n := by
  unfold halfAt byteAt
  rw [List.getD_append_right _ _ _ _ le_rfl, List.getD_append_right _ _ _ _ (Nat.le_succ _), Nat.sub_self, Nat.succ_sub le_rfl, Nat.sub_self]
  exact bytes2_value h

theorem frameOf_bytes {f : Frame} (hmin : 2 ≤ f.body.length) (hmax : f.body.length ≤ 1014) : frameOf f.bytes = some f := by
  have hlen : f.bytes.length = f.body.length + 10 := Frame.bytes_length f
  have hunchecked : f.unchecked.length = f.bytes.length - 2 := by simp [Frame.bytes, bytes2]
  have htake : f.bytes.take (f.bytes.length - 2) = f.unchecked := List.take_left' hunchecked
  have hcheck : halfAt f.bytes (f.bytes.length - 2) = (fletcher (f.unchecked.map BitVec.toNat)).toNat := by
    rw [← hunchecked]
    exact halfAt_append_bytes2 f.unchecked (BitVec.isLt _)
  have htag : BitVec.ofNat 16 (halfAt f.bytes 4) = f.tag := by
    rw [show halfAt f.bytes 4 = f.tag.toNat from bytes2_value f.tag.isLt, BitVec.ofNat_toNat, BitVec.setWidth_eq]
  unfold frameOf
  dsimp only
  rw [if_pos ⟨by omega, by omega, halfAt_frame f hmax, by rw [htake]; exact hcheck⟩, htag, htake]
  rfl

/-- A frame's bytes are received as the frame (R155, R156; log 23). -/
theorem frameTaken_bytes {f : Frame} (hmin : 2 ≤ f.body.length) (hmax : f.body.length ≤ 1014) (q : MgmtPort) (s : State) :
    frameTaken q f.bytes s = receiveFrame q f s := by
  rw [frameTaken, frameOf_bytes hmin hmax]

theorem frameTaken_bad {bytes : List Byte} (h : frameOf bytes = none) (q : MgmtPort) (s : State) :
    frameTaken q bytes s = bump (ctrBad q) s := by
  rw [frameTaken, h]

/-! ### Offering and sending -/

theorem offerFrame_eq (q : MgmtPort) (f : Frame) (s : State) :
    offerFrame q f s =
      if (s.mgmt.queues.get q).frames.length < 8 then
        setQueue q { s.mgmt.queues.get q with frames := (s.mgmt.queues.get q).frames ++ [f] } s
      else bump (ctrDiscarded q) s := by
  rcases offerFrame_cases q f s with ⟨hfree, h⟩ | ⟨hfull, h⟩
  · exact h.trans (if_pos hfree).symm
  · exact h.trans (if_neg (Nat.not_lt.mpr hfull)).symm

theorem offerFrame_free {q : MgmtPort} {s : State} (h : (s.mgmt.queues.get q).frames.length < 8) (f : Frame) :
    offerFrame q f s = setQueue q { s.mgmt.queues.get q with frames := (s.mgmt.queues.get q).frames ++ [f] } s := by
  rw [offerFrame_eq, if_pos h]

theorem queue_setQueue (q : MgmtPort) (v : FrameQueue) (s : State) : (setQueue q v s).mgmt.queues.get q = v :=
  (Trio.get_set _ _ _ _).trans (if_pos rfl)

/-- A frame whose named queue has a free place is appended there (R157, R158). -/
theorem frames_sendFrame {f : Frame} {s : State} {q : MgmtPort} (hq : namedQueue s f.destination = some q)
    (hfree : (s.mgmt.queues.get q).frames.length < 8) :
    ((sendFrame f s).mgmt.queues.get q).frames = (s.mgmt.queues.get q).frames ++ [f] := by
  unfold sendFrame
  rw [hq]
  dsimp only
  rw [offerFrame_free hfree, queue_setQueue]

/-- Sending a frame counts a discard at most (R158). -/
theorem counter_sendFrame {n : Nat} (hn : ∀ q, n ≠ ctrDiscarded q) (f : Frame) (s : State) :
    (sendFrame f s).counter n = s.counter n := by
  unfold sendFrame
  split
  · rename_i q _
    rcases offerFrame_cases q f s with ⟨_, h⟩ | ⟨_, h⟩ <;> rw [h]
    · rfl
    · rw [counter_bump, if_neg (hn q)]
  · rfl

theorem requests_sendFrame (f : Frame) (s : State) : (sendFrame f s).mgmt.requests = s.mgmt.requests := by
  rw [sendFrame_congr (s := s) (t := s) rfl rfl rfl rfl rfl]

theorem offerRequest_taken {s : State} (h : s.mgmt.requests.length < 4) (f : Frame) :
    offerRequest f s = { s with mgmt := { s.mgmt with
      requests := s.mgmt.requests ++ [{ origin := f.origin, tag := f.tag, body := f.body }] } } := if_pos h

/-- With 4 requests held a request is answered with QUEUE_FULL (R159). -/
theorem offerRequest_refused {s : State} (h : 4 ≤ s.mgmt.requests.length) (f : Frame) :
    offerRequest f s = bump ctrQueueFull (sendCode f.origin f.tag .queueFull s) := if_neg (Nat.not_lt.mpr h)

/-! ### Frames from a line port -/

theorem exec_line {f : Frame} (hmin : 2 ≤ f.body.length) (hmax : f.body.length ≤ 1014) (p : Side) (s : State) :
    exec (.managementFrameFromLine p f.bytes) s = .next (receiveFromLine p f s) :=
  congrArg Host.Outcome.next (frameTaken_bytes hmin hmax (.line p) s)

/-- A frame from a line port for this node is handled by its kind (R155). -/
theorem receiveFromLine_own {s : State} {f : Frame} (hstate : s.node.state ≠ .unaddressed) (hown : s.ownId = some f.destination)
    (p : Side) :
    receiveFromLine p f s =
      if f.kind = 1 then offerRequest f s
      else if f.kind = 2 ∨ f.kind = 3 then offerFrame .tributary f s
      else bump (ctrBad (.line p)) s :=
  if_neg (by rintro (h | h); exacts [hstate h, h hown])

/-- Settles O44: by the branches of R155's table, with `frameOf_bytes` for the frame its bytes are. -/
theorem lineFramesAreForwardedOrTaken : Obligations.LineFramesAreForwardedOrTaken := by
  intro p f s hmin hmax into
  have hinto : ∀ q g, into q g = offerFrame q g s := fun q g => (offerFrame_eq q g s).symm
  rw [exec_line hmin hmax]
  refine ⟨fun hpassed => ?_, fun hstate hown => ?_, fun bytes hbad => congrArg Host.Outcome.next (frameTaken_bad hbad _ s)⟩
  · rw [hinto, receiveFromLine, if_pos hpassed]
    rfl
  · rw [receiveFromLine_own hstate hown]
    refine ⟨fun hkind hroom => ?_, fun hkind hfull => ?_, fun hkind => ?_, fun h1 h2 h3 => ?_⟩
    · rw [if_pos hkind, offerRequest_taken hroom]
    · rw [if_pos hkind, offerRequest_refused hfull]
      refine ⟨_, rfl, ?_, requests_sendFrame _ s, fun q hq hfree => frames_sendFrame hq hfree⟩
      have hdiscard : ∀ q, ctrQueueFull ≠ ctrDiscarded q := fun q => by rcases q with (_ | _) | _ <;> decide
      rw [show (4 : Nat) = ctrQueueFull from rfl, counter_bump, if_pos rfl]
      exact congrArg saturate (counter_sendFrame hdiscard _ s)
    · have hnot : f.kind ≠ 1 := by rcases hkind with h | h <;> rw [h] <;> decide
      rw [hinto, if_neg hnot, if_pos hkind]
    · rw [if_neg h1, if_neg (by rintro (h | h); exacts [h2 h, h3 h])]

/-! ### Path selection (R157) -/

theorem positionOf_lt {ring : Table Byte} {id : Byte} {d : Nat} (h : positionOf ring id = some d) : d < ringSizeOf ring :=
  List.mem_range.mp (List.mem_of_find?_eq_some h)

theorem ringSub_eq {n x y : Nat} (h : y < n) : ringSub n x y = (x + n - y) % n := by
  rw [ringSub, Nat.mod_eq_of_lt h, Nat.add_sub_assoc (Nat.le_of_lt h)]

theorem route_cw {n a : Nat} (h : a < n) (b : Nat) :
    route n a b .cw = (List.range ((b + n - a) % n)).map (fun j => (a + j) % n) := by
  rw [route, ringSub_eq h]

theorem route_ccw {n b : Nat} (h : b < n) (a : Nat) :
    route n a b .ccw = (List.range ((a + n - b) % n)).map (fun j => (a + n - 1 - j) % n) := by
  rw [route, ringSub_eq h]
  refine List.map_congr_left fun j hj => ?_
  have hlt : (a + n - b) % n < n := Nat.mod_lt _ (Nat.zero_lt_of_lt h)
  have hj' := List.mem_range.mp hj
  by_cases hlast : j + 1 < n
  · rw [ringSub_eq hlast, Nat.sub_sub, Nat.add_comm 1]
  · omega

/-- A path is usable when none of its spans has all four bands in W (R157). -/
theorem pathUsable_range (s : State) (m : Nat) (span : Nat → Nat) :
    pathUsable s ((List.range m).map span) = true ↔ ∀ j, j < m → s.map.bandsInW (span j) ≠ allBands := by
  simp [pathUsable]

/-- A frame to an ID that is not in the ring, or from a node that is not placed, leaves clockwise (R157). -/
theorem pathTo_unplaced {s : State} {dest : Byte} (h : s.position = none ∨ positionOf s.table.ring dest = none) :
    pathTo s dest = some (clockwiseSide s.settings.orientation) := by
  unfold pathTo
  rcases h with h | h
  · rw [h]
  · rw [h]
    cases s.position <;> rfl

/-- The hops from position `a` clockwise to position `b` (R7). -/
def hopsTo (n a b : Nat) : Nat := (b + n - a) % n

/-- No span on the way clockwise from position `own` to position `d` has all four bands in W (R157). -/
def State.cwOpen (s : State) (own d : Nat) : Prop :=
  ∀ j, j < hopsTo s.ringSize own d → s.map.bandsInW ((own + j) % s.ringSize) ≠ allBands

/-- No span on the way counter-clockwise from position `own` to position `d` has all four bands in W (R157). -/
def State.ccwOpen (s : State) (own d : Nat) : Prop :=
  ∀ j, j < hopsTo s.ringSize d own → s.map.bandsInW ((own + s.ringSize - 1 - j) % s.ringSize) ≠ allBands

section
variable {s : State} {dest : Byte} {own d : Nat} (hp : s.position = some own) (hd : positionOf s.table.ring dest = some d)
include hp hd

/-- The path between two positions of the ring, by which of the two ways round is usable and by their hops (R157). -/
theorem pathTo_placed :
    ∃ cw ccw : Bool, (cw = true ↔ s.cwOpen own d) ∧ (ccw = true ↔ s.ccwOpen own d) ∧
      pathTo s dest =
        if cw && (!ccw || decide (hopsTo s.ringSize own d ≤ hopsTo s.ringSize d own)) then
          some (clockwiseSide s.settings.orientation)
        else if ccw then some (counterSide s.settings.orientation)
        else none := by
  refine ⟨_, _, pathUsable_range s _ _, pathUsable_range s _ _, ?_⟩
  unfold pathTo
  rw [hp, hd]
  dsimp only
  rw [route_cw (position_lt hp), route_ccw (show d < s.ringSize from positionOf_lt hd), List.length_map, List.length_map,
    List.length_range, List.length_range]
  rfl

theorem pathTo_clockwise (hopen : s.cwOpen own d) (hbest : ¬s.ccwOpen own d ∨ hopsTo s.ringSize own d ≤ hopsTo s.ringSize d own) :
    pathTo s dest = some (clockwiseSide s.settings.orientation) := by
  obtain ⟨cw, ccw, hcw, hccw, hpath⟩ := pathTo_placed hp hd
  rw [hpath, if_pos]
  rw [hcw.mpr hopen, Bool.true_and, Bool.or_eq_true, decide_eq_true_eq]
  refine hbest.imp (fun h => ?_) id
  rw [Bool.eq_false_iff.mpr (mt hccw.mp h)]
  rfl

theorem pathTo_counter (hopen : s.ccwOpen own d) (hbest : ¬s.cwOpen own d ∨ hopsTo s.ringSize d own < hopsTo s.ringSize own d) :
    pathTo s dest = some (counterSide s.settings.orientation) := by
  obtain ⟨cw, ccw, hcw, hccw, hpath⟩ := pathTo_placed hp hd
  rw [hpath, hccw.mpr hopen, if_neg, if_pos rfl]
  rw [Bool.not_true, Bool.false_or, Bool.and_eq_true, decide_eq_true_eq, hcw]
  rintro ⟨hcwOpen, hle⟩
  exact hbest.elim (fun h => h hcwOpen) (fun h => Nat.not_le.mpr h hle)

theorem pathTo_closed (hcwClosed : ¬s.cwOpen own d) (hccwClosed : ¬s.ccwOpen own d) : pathTo s dest = none := by
  obtain ⟨cw, ccw, hcw, hccw, hpath⟩ := pathTo_placed hp hd
  rw [hpath, Bool.eq_false_iff.mpr (mt hcw.mp hcwClosed), Bool.eq_false_iff.mpr (mt hccw.mp hccwClosed)]
  rfl

end

/-! ### Frames from tributary port 0 -/

theorem exec_tributary {f : Frame} (hmin : 2 ≤ f.body.length) (hmax : f.body.length ≤ 1014) (s : State) :
    exec (.managementFrameFromTributary f.bytes) s = .next (receiveFromTributary f s) :=
  congrArg Host.Outcome.next (frameTaken_bytes hmin hmax .tributary s)

/-- A REQUEST from tributary port 0 joins the request queue, or is injected with the own ID as its origin (R156). -/
theorem receiveFromTributary_request {s : State} {f : Frame} (hstate : s.node.state ≠ .unaddressed) (hkind : f.kind = 1) :
    receiveFromTributary f s =
      if f.destination = 0 ∨ s.ownId = some f.destination then offerRequest { f with origin := s.node.strap } s
      else injectRequest { f with origin := s.node.strap, hops := 32 } s :=
  if_neg (by rintro (h | h); exacts [hstate h, h hkind])

theorem injectRequest_sent {s : State} {f : Frame} {p : Side} (hpath : pathTo s f.destination = some p)
    (hfree : (s.mgmt.queues.get (.line p)).frames.length < 8) :
    injectRequest f s = setQueue (.line p) { s.mgmt.queues.get (.line p) with
      frames := (s.mgmt.queues.get (.line p)).frames ++ [f] } s := by
  rw [injectRequest, hpath]
  exact offerFrame_free hfree f

theorem injectRequest_unreachable {s : State} {f : Frame} (hpath : pathTo s f.destination = none) :
    injectRequest f s = sendCode f.origin f.tag .unreachable s := by
  rw [injectRequest, hpath]

/-- Settles O45: the path that `pathTo` finds open, with `route_cw` and `route_ccw` for the spans each way round. -/
theorem gatewayRequestsFollowTheOpenPath : Obligations.GatewayRequestsFollowTheOpenPath := by
  intro f s hmin hmax sent free cwPort ccwPort
  rw [exec_tributary hmin hmax]
  refine ⟨fun hnone => congrArg Host.Outcome.next (if_pos hnone), fun hstate hkind => ?_⟩
  rw [receiveFromTributary_request hstate hkind]
  refine ⟨fun hown hroom => ?_, fun hzero hother => ?_⟩
  · rw [if_pos hown, offerRequest_taken hroom]
  · rw [if_neg (by rintro (h | h); exacts [hzero h, hother h])]
    have hsent : ∀ p, pathTo s f.destination = some p → free (.line p) →
        Host.Outcome.next (injectRequest { f with origin := s.node.strap, hops := 32 } s) =
          (.next (sent (.line p)) : Host.Outcome State Fault Refusal) := fun p hpath hfree =>
      congrArg Host.Outcome.next (injectRequest_sent hpath hfree)
    refine ⟨fun hunplaced => hsent _ (pathTo_unplaced hunplaced), fun own d hp hd => ?_⟩
    intro n cw ccw cwOpen ccwOpen
    refine ⟨fun hopen hbest => hsent _ (pathTo_clockwise hp hd hopen hbest),
      fun hopen hbest => hsent _ (pathTo_counter hp hd hopen hbest), fun hcw hccw hfree hid => ?_⟩
    have hnone : pathTo s f.destination = none := pathTo_closed hp hd hcw hccw
    rw [injectRequest_unreachable (f := { f with origin := s.node.strap, hops := 32 }) hnone]
    exact ⟨_, rfl, frames_sendFrame (if_pos hid) hfree⟩

end Sys2Proof.Machine
end

section
/-! PROOF. What neither reads nor writes the Management Unit, so that a LOAD and an OPERATOR directive do in a chain what they do by
themselves (O46). -/

namespace Sys2Proof.Machine

/-! ### Blind to the Management Unit -/

/-- An effect that neither reads nor writes the Management Unit. -/
def MgmtBlind (g : State → State) : Prop := ∀ (s : State) (m : Management), g { s with mgmt := m } = { g s with mgmt := m }

namespace MgmtBlind

theorem id : MgmtBlind (fun s => s) := fun _ _ => rfl

theorem comp {g h : State → State} (hg : MgmtBlind g) (hh : MgmtBlind h) : MgmtBlind (fun s => g (h s)) := fun s m => by
  dsimp only
  rw [hh s m, hg (h s) m]

/-- An effect that is chosen by what does not turn on the Management Unit. -/
theorem choose {α : Type} (c : State → α) {g : α → State → State} (hc : ∀ (s : State) (m : Management), c { s with mgmt := m } = c s)
    (hg : ∀ a, MgmtBlind (g a)) : MgmtBlind (fun s => g (c s) s) := fun s m => by
  dsimp only
  rw [hc s m]
  exact hg (c s) s m

theorem ite {c : State → Prop} [DecidablePred c] {g h : State → State}
    (hc : ∀ (s : State) (m : Management), c { s with mgmt := m } ↔ c s) (hg : MgmtBlind g) (hh : MgmtBlind h) :
    MgmtBlind (fun s => if c s then g s else h s) := fun s m => by
  dsimp only
  by_cases hs : c s
  · rw [if_pos hs, if_pos ((hc s m).mpr hs), hg s m]
  · rw [if_neg hs, if_neg (fun h' => hs ((hc s m).mp h')), hh s m]

/-- The same effect for each element of a list in turn. -/
theorem foldl {α : Type} {g : State → α → State} (hg : ∀ a, MgmtBlind (fun s => g s a)) (l : List α) :
    MgmtBlind (fun s => l.foldl g s) := by
  induction l with
  | nil => exact id
  | cons a l ih => exact ih.comp (hg a)

/-- What does not read the Management Unit does the same whatever the execution state. -/
theorem setExecution {g : State → State} (hg : MgmtBlind g) (e : Execution) (s : State) :
    g (setExecution e s) = setExecution e (g s) := by
  have hsame := congrArg State.mgmt (hg s s.mgmt)
  have hkept : (g s).mgmt = s.mgmt := hsame
  rw [Machine.setExecution, hg, Machine.setExecution, hkept]

end MgmtBlind

/-! ### Reports, notices, the engine -/

theorem mgmtBlind_raise (x : Subject) : MgmtBlind (raise x) :=
  .ite (fun _ _ => Iff.rfl) (fun _ _ => rfl) .id

theorem mgmtBlind_raiseAll (l : List Subject) : MgmtBlind (raiseAll l) := .foldl mgmtBlind_raise l

theorem mgmtBlind_originate : MgmtBlind originate := by
  intro s m
  unfold originate
  rw [show State.position { s with mgmt := m } = s.position from rfl]
  cases s.node.state.runs <;> cases s.position <;> rfl

theorem mgmtBlind_evaluateConvergence : MgmtBlind evaluateConvergence :=
  .ite (c := fun s => convergenceOf s = s.notices.convergence) (fun _ _ => Iff.rfl) .id
    (.comp (mgmtBlind_raise .node) fun _ _ => rfl)

theorem mgmtBlind_refreshDigest : MgmtBlind refreshDigest :=
  .ite (c := fun s => digestOf s.table = s.table.digest) (fun _ _ => Iff.rfl) .id
    (.comp mgmtBlind_evaluateConvergence (.comp mgmtBlind_originate fun _ _ => rfl))

theorem mgmtBlind_abandonBuild : MgmtBlind abandonBuild := by
  intro s m
  unfold abandonBuild
  dsimp only
  cases s.engine.state <;> rfl

theorem mgmtBlind_endWork : MgmtBlind endWork := by
  intro s m
  unfold endWork
  dsimp only
  cases s.engine.state with
  | build k i => exact mgmtBlind_abandonBuild s m
  | _ => rfl

theorem mgmtBlind_install (r : PassResult) : MgmtBlind (install r) :=
  .choose (fun s => (changedByInstall r.outcomes s.table.circuits).map Subject.circuit)
    (g := fun l s => raise .node (raiseAll l (deriveTarget { s with
      engine := { s.engine with grants := r.grants, resultNumber := s.engine.resultNumber + 1 }
      table := { s.table with circuits := installRecords r.outcomes s.table.circuits } })))
    (fun _ _ => rfl) fun l => .comp (mgmtBlind_raise .node) (.comp (mgmtBlind_raiseAll l) fun _ _ => rfl)

theorem mgmtBlind_answerMapChange : MgmtBlind answerMapChange := by
  intro s m
  unfold answerMapChange
  rw [show fastPathResult { s with mgmt := m } = fastPathResult s from rfl]
  cases fastPathResult s with
  | none => rfl
  | some r => exact MgmtBlind.comp (fun _ _ => rfl) (mgmtBlind_install r) s m

theorem mgmtBlind_mapChange : MgmtBlind mapChange := by
  intro s m
  unfold mapChange
  dsimp only
  cases s.node.state with
  | active =>
    dsimp only
    cases s.engine.state with
    | idle => exact mgmtBlind_answerMapChange s m
    | gather e => rfl
    | pass i => rfl
    | build k i => exact mgmtBlind_answerMapChange.comp mgmtBlind_abandonBuild s m
  | starting e => exact mgmtBlind_abandonBuild s m
  | _ => rfl

/-! ### The Failure Map -/

theorem mgmtBlind_writeMap (m : FailureMap) : MgmtBlind (writeMap m) :=
  .choose (fun s => deriveSpans (spansOfRing s.table.ring s.node.strap) s.settings.actOnDegrade m.spans)
    (g := fun spans s => raiseAll ((changedSpans s.map.spans spans).map Subject.span) { s with map := { m with spans := spans } })
    (fun _ _ => rfl) fun spans => .choose (fun s => (changedSpans s.map.spans spans).map Subject.span)
      (g := fun l s => raiseAll l { s with map := { m with spans := spans } }) (fun _ _ => rfl)
      fun l => .comp (mgmtBlind_raiseAll l) fun _ _ => rfl

/-- A write of the map as the state has it. -/
theorem mgmtBlind_writeMap_of (f : State → FailureMap) (hf : ∀ (s : State) (m : Management), f { s with mgmt := m } = f s) :
    MgmtBlind (fun s => writeMap (f s) s) := .choose f hf mgmtBlind_writeMap

theorem mgmtBlind_deliverMapChange (before : FailureMap) : MgmtBlind (deliverMapChange before) :=
  .ite (c := fun s => before.sets = s.map.sets) (fun _ _ => Iff.rfl) .id mgmtBlind_mapChange

/-- A change of the map that is delivered to the engine (R56). -/
theorem MgmtBlind.delivered {g : State → State} (hg : MgmtBlind g) : MgmtBlind (fun s => deliverMapChange s.map (g s)) :=
  .choose (fun s => s.map) (g := fun before s => deliverMapChange before (g s)) (fun _ _ => rfl)
    fun before => .comp (mgmtBlind_deliverMapChange before) hg

theorem mgmtBlind_setRequest (own : Nat) (side : Side) (r : OperatorRequest) : MgmtBlind (setRequest own side r) := by
  have hwrite : MgmtBlind (fun s => writeMap (s.requestedMap own side r) s) := mgmtBlind_writeMap_of _ fun _ _ => rfl
  exact MgmtBlind.delivered (g := requestNoticed own side r)
    (.ite (c := fun s => (s.map.copies.get side).request = r) (fun _ _ => Iff.rfl) hwrite (.comp mgmtBlind_originate hwrite))

theorem mgmtBlind_rebuildMap : MgmtBlind rebuildMap :=
  mgmtBlind_writeMap_of (fun s => storeOwnEnds s { clearRequests s.map with spans := [] }) fun _ _ => rfl

theorem mgmtBlind_orientationChanged : MgmtBlind orientationChanged := by
  have hwrite : MgmtBlind (fun s => writeMap (storeOwnEnds s (clearRequests s.map)) s) := mgmtBlind_writeMap_of _ fun _ _ => rfl
  refine .choose (fun s => s.position) (g := fun own s => match own with
    | none => deliverMapChange s.map (writeMap (storeOwnEnds s (clearRequests s.map)) s)
    | some p => deliverMapChange s.map
      (if s.map.ownEnds s.ringSize p = (writeMap (storeOwnEnds s (clearRequests s.map)) s).map.ownEnds s.ringSize p then
        writeMap (storeOwnEnds s (clearRequests s.map)) s
      else originate (writeMap (storeOwnEnds s (clearRequests s.map)) s))) (fun _ _ => rfl) fun own => ?_
  cases own with
  | none => exact hwrite.delivered
  | some p =>
    refine MgmtBlind.delivered (.ite (fun s m => ?_) hwrite (.comp mgmtBlind_originate hwrite))
    rw [show (writeMap (storeOwnEnds { s with mgmt := m } (clearRequests s.map)) { s with mgmt := m }).map = _ from
      congrArg (fun t : State => t.map) (hwrite s m)]
    exact Iff.rfl

theorem mgmtBlind_actOnDegradeChanged : MgmtBlind actOnDegradeChanged :=
  .delivered (g := fun s => writeMap s.map s) (mgmtBlind_writeMap_of (fun s => s.map) fun _ _ => rfl)

/-! ### The storing of a SETTINGS record (R166) -/

theorem mgmtBlind_viewsDelivered (side : Side) (views : Quad View) : MgmtBlind (viewsDelivered side views) := by
  intro s m
  unfold viewsDelivered
  rw [show State.position { s with mgmt := m } = s.position from rfl]
  cases s.position with
  | none => rfl
  | some p => exact MgmtBlind.comp (mgmtBlind_deliverMapChange s.map) (.comp mgmtBlind_originate (mgmtBlind_writeMap _)) s m

theorem mgmtBlind_setSupervisor (p : Side) (b : Nat) (v : Supervisor) : MgmtBlind (setSupervisor p b v) :=
  .ite (c := fun s => v.view = (s.band p b).supervisor.view) (fun _ _ => Iff.rfl) (fun _ _ => rfl)
    (.choose (fun s => ((s.setBand p b { s.band p b with supervisor := v }).port p).bands.map (fun x => x.supervisor.view))
      (g := fun views s => viewsDelivered p views (raise (.port p) (s.setBand p b { s.band p b with supervisor := v })))
      (fun _ _ => rfl) fun views => .comp (mgmtBlind_viewsDelivered p views) (.comp (mgmtBlind_raise _) fun _ _ => rfl))

theorem mgmtBlind_deriveBand (p : Side) (b : Nat) (v : Supervisor) : MgmtBlind (deriveBand p b v) :=
  .choose (fun s => deriveView ((s.band p b).alignment == .lost) s.now s.returnPeriods v) (g := setSupervisor p b)
    (fun _ _ => rfl) (mgmtBlind_setSupervisor p b)

theorem mgmtBlind_clearDegrade (e : Side × Nat) : MgmtBlind (fun s => clearDegrade s e) :=
  .ite (c := fun s => (s.band e.1 e.2).supervisor.rawDegrade = true) (fun _ _ => Iff.rfl)
    (.choose (fun s => { (s.band e.1 e.2).supervisor with rawDegrade := false }) (fun _ _ => rfl) (mgmtBlind_deriveBand e.1 e.2)) .id

theorem mgmtBlind_deliverOrientation (before : Settings) : MgmtBlind (deliverOrientation before) :=
  .ite (c := fun s => s.settings.orientation = before.orientation) (fun _ _ => Iff.rfl) .id
    (.comp (fun _ _ => rfl) mgmtBlind_orientationChanged)

theorem mgmtBlind_deliverActOnDegrade (before : Settings) : MgmtBlind (deliverActOnDegrade before) :=
  .ite (c := fun s => s.settings.actOnDegrade = before.actOnDegrade) (fun _ _ => Iff.rfl) .id
    (.comp mgmtBlind_actOnDegradeChanged mgmtBlind_refreshDigest)

theorem mgmtBlind_deliverThreshold : MgmtBlind deliverThreshold :=
  .ite (c := fun s => s.settings.degradeSet = 0) (fun _ _ => Iff.rfl) (.foldl mgmtBlind_clearDegrade allBandsOfPorts) .id

theorem mgmtBlind_storeSettings (r : Settings) : MgmtBlind (storeSettings r) :=
  .choose (fun s => s.settings) (g := fun before s =>
    deliverThreshold (deliverActOnDegrade before (deliverOrientation before (s.withSettings r)))) (fun _ _ => rfl)
    fun before => .comp mgmtBlind_deliverThreshold (.comp (mgmtBlind_deliverActOnDegrade before)
      (.comp (mgmtBlind_deliverOrientation before) fun _ _ => rfl))

/-! ### The evaluation of a ring map (R3) -/

theorem mgmtBlind_enterStarting : MgmtBlind enterStarting :=
  .comp (g := fun s => raise .node (deriveTarget s))
    (h := fun s => evaluateConvergence (originate (setNodeState (.starting (s.now + ms s.settings.listen)) s)))
    (.comp (mgmtBlind_raise .node) fun _ _ => rfl)
    (.comp mgmtBlind_evaluateConvergence (.comp mgmtBlind_originate fun _ _ => rfl))

theorem mgmtBlind_enterUnplaced : MgmtBlind enterUnplaced :=
  .comp (g := fun s => raise .node (deriveTarget s))
    (h := fun s => evaluateConvergence { s with
      node := { s.node with state := .unplaced }, notices := { s.notices with refresh := none } })
    (.comp (mgmtBlind_raise .node) fun _ _ => rfl) (.comp mgmtBlind_evaluateConvergence fun _ _ => rfl)

theorem mgmtBlind_nodeAfterRing : MgmtBlind nodeAfterRing :=
  .ite (c := fun s => s.placed = true) (fun _ _ => Iff.rfl) mgmtBlind_enterStarting
    (.ite (c := fun s => s.node.state.runs = true) (fun _ _ => Iff.rfl) mgmtBlind_enterUnplaced .id)

theorem mgmtBlind_ringDelivered : MgmtBlind ringDelivered := by
  have hbuilt : MgmtBlind (fun s => rebuildMap (clearNotices (plansOfRing (countRingChange (endWork s))))) :=
    .comp mgmtBlind_rebuildMap (.comp (g := fun s => clearNotices (plansOfRing (countRingChange s))) (fun _ _ => rfl)
      mgmtBlind_endWork)
  refine .ite (fun s m => ?_) hbuilt (.comp mgmtBlind_originate hbuilt)
  rw [show (rebuildMap (clearNotices (plansOfRing (countRingChange (endWork { s with mgmt := m }))))).table = _ from
    congrArg (fun t : State => t.table) (hbuilt s m)]

theorem mgmtBlind_evaluateRing (before : Table Byte) : MgmtBlind (evaluateRing before) := by
  intro s m
  cases h : sameRing before s.table.ring with
  | true => rw [evaluateRing_same h, evaluateRing_same (s := { s with mgmt := m }) h]
  | false =>
    rw [evaluateRing_changed h, evaluateRing_changed (s := { s with mgmt := m }) h]
    exact mgmtBlind_nodeAfterRing.comp mgmtBlind_ringDelivered s m

/-! ### LOAD and OPERATOR, whatever the execution state -/

/-- The result with an execution state put in. -/
def Result.executing (r : Result) (e : Execution) : Result := { r with state := setExecution e r.state }

theorem loadImages_setExecution {write : List Byte → State → Except ResultCode State} (e : Execution)
    (hw : ∀ image s, write image (setExecution e s) = (write image s).map (setExecution e)) (records : Nat)
    (l : List (List Byte)) (n : Nat) (s : State) :
    loadImages write records l n (setExecution e s) = (loadImages write records l n s).executing e :=
  loadImages_comm (f := setExecution e) (fun _ => rfl) (fun _ => rfl) hw records l n s

theorem writeCircuit_setExecution (e : Execution) (image : List Byte) (s : State) :
    writeCircuit image (setExecution e s) = (writeCircuit image s).map (setExecution e) := by
  unfold writeCircuit
  dsimp only
  rw [show (setExecution e s).circuit (setExecution e s).mgmt.cursor.index = s.circuit s.mgmt.cursor.index from rfl]
  split
  · rfl
  · cases circuitImage image <;> rfl

theorem writeRing_setExecution (e : Execution) (image : List Byte) (s : State) :
    writeRing image (setExecution e s) = (writeRing image s).map (setExecution e) := by
  unfold writeRing
  dsimp only
  split <;> rfl

theorem loadSettings_setExecution (e : Execution) (bulk : List Byte) (s : State) :
    loadSettings bulk (setExecution e s) = (loadSettings bulk s).executing e := by
  unfold loadSettings
  cases imagesOf 24 bulk with
  | nil => rfl
  | cons image rest =>
    dsimp only
    rw [show (setExecution e s).mgmt.cursor = s.mgmt.cursor from rfl,
      show orientationInUse (settingsImage image) (setExecution e s) = orientationInUse (settingsImage image) s from rfl,
      show advanceCursor (setExecution e s) = setExecution e (advanceCursor s) from rfl,
      (mgmtBlind_storeSettings _).setExecution]
    repeat' split
    all_goals rfl

theorem loadRing_setExecution (e : Execution) (bulk : List Byte) (s : State) :
    loadRing bulk (setExecution e s) = (loadRing bulk s).executing e := by
  unfold loadRing
  rw [show (setExecution e s).anyInService = s.anyInService from rfl, loadImages_setExecution e (writeRing_setExecution e)]
  split
  · rfl
  · dsimp only [Result.executing]
    rw [(mgmtBlind_evaluateRing _).setExecution]
    rfl

/-- A LOAD does the same whatever the execution state (R165). -/
theorem doLoad_setExecution (e : Execution) (bulk : List Byte) (s : State) :
    doLoad bulk (setExecution e s) = (doLoad bulk s).executing e := by
  unfold doLoad
  rw [show (setExecution e s).mgmt.cursor = s.mgmt.cursor from rfl]
  split
  · exact loadSettings_setExecution e bulk s
  · exact loadRing_setExecution e bulk s
  · exact loadImages_setExecution e (writeCircuit_setExecution e) _ _ 0 s
  · rfl

theorem doSelect_setExecution (e : Execution) (table index : Nat) (s : State) :
    doSelect table index (setExecution e s) = (doSelect table index s).executing e := by
  unfold doSelect
  cases tableOf table with
  | none => rfl
  | some tid => dsimp only; split <;> rfl

/-- OPERATOR does the same whatever the execution state (R49, R170). -/
theorem doOperator_setExecution (e : Execution) (side value : Nat) (s : State) :
    doOperator side value (setExecution e s) = (doOperator side value s).executing e := by
  unfold doOperator
  rw [show (setExecution e s).position = s.position from rfl]
  split
  · rfl
  · cases s.position with
    | none => rfl
    | some p =>
      dsimp only
      rw [(mgmtBlind_setRequest _ _ _).setExecution]
      rfl

theorem doCapture_setExecution (e : Execution) (flag : Nat) (s : State) :
    doCapture flag (setExecution e s) = (doCapture flag s).executing e := by
  unfold doCapture
  split <;> rfl

end Sys2Proof.Machine
end

section
/-! PROOF. The directives of a chain, read from its bytes (R160; 12_formats.md, "Directives"), and the command each of them is (log 16). -/

namespace Sys2Proof.Machine

/-! ### Reading a directive -/

theorem toNat_append (high low : Byte) : (high ++ low : Half).toNat = high.toNat * 256 + low.toNat := by
  rw [BitVec.toNat_append, ← Nat.shiftLeft_add_eq_or_of_lt low.isLt, Nat.shiftLeft_eq]

/-- The more flag of a header (R160). -/
theorem more_eq (header : Byte) : (header.toNat / 128 == 1) = decide (128 ≤ header.toNat) := by
  have := header.isLt
  rw [Bool.eq_iff_iff, beq_iff_eq, decide_eq_true_eq]
  omega

section
variable {header : Byte} {operands : List Byte}

theorem nextDirective_unknown (h : header.toNat % 128 = 0 ∨ 8 ≤ header.toNat % 128) (operands : List Byte) :
    nextDirective (header :: operands) = .error .unknownDirective := by
  unfold nextDirective
  dsimp only
  generalize header.toNat % 128 = code at h
  match code, h with
  | 0, _ => rfl
  | 1, h | 2, h | 3, h | 4, h | 5, h | 6, h | 7, h => omega
  | _ + 8, _ => rfl

/-- A LOAD and a READ are the last directive of their chain (R160). -/
theorem nextDirective_more (h : header.toNat % 128 = 2 ∨ header.toNat % 128 = 3) (hmore : 128 ≤ header.toNat)
    (operands : List Byte) : nextDirective (header :: operands) = .error .badChain := by
  have hflag : (header.toNat / 128 == 1) = true := (more_eq header).trans (decide_eq_true hmore)
  unfold nextDirective
  dsimp only
  rcases h with h | h <;> rw [h]
  · exact if_pos hflag
  · exact if_pos hflag

/-- A body that ends within a directive's operands (R160). -/
theorem nextDirective_short (h : operands.length < [0, 3, 0, 1, 3, 2, 1, 0].getD (header.toNat % 128) 0) :
    nextDirective (header :: operands) = .error .badChain := by
  unfold nextDirective
  dsimp only
  generalize header.toNat % 128 = code at h
  match code, h with
  | 1, h | 4, h | 5, h | 6, h => exact if_pos h
  | 0, h | 2, h | 7, h | _ + 8, h => exact absurd h (Nat.not_lt_zero _)
  | 3, h => exact (ite_congr rfl (fun _ => rfl) fun _ => if_pos h).trans (ite_self _)

theorem nextDirective_select (h : header.toNat % 128 = 1) (table high low : Byte) (after : List Byte) :
    nextDirective (header :: table :: high :: low :: after) =
      .ok { more := decide (128 ≤ header.toNat), directive := .select table.toNat (high ++ low : Half).toNat, rest := after } := by
  rw [toNat_append, ← more_eq]
  unfold nextDirective
  dsimp only
  rw [h]
  exact if_neg (by simp)

theorem nextDirective_service (h : header.toNat % 128 = 4) (high low action : Byte) (after : List Byte) :
    nextDirective (header :: high :: low :: action :: after) =
      .ok { more := decide (128 ≤ header.toNat), directive := .service (high ++ low : Half).toNat action.toNat, rest := after } := by
  rw [toNat_append, ← more_eq]
  unfold nextDirective
  dsimp only
  rw [h]
  exact if_neg (by simp)

end

/-! ### Directives as commands -/

/-- The directive that a command of the table is taken as (log 16). -/
def directiveOf : Instr → Option Directive
  | .select table index => some (.select table.toNat index.toNat)
  | .load bulk => some (.load bulk)
  | .read count => some (.read count.toNat)
  | .serviceIn circuit => some (.service circuit.toNat 1)
  | .serviceOut circuit => some (.service circuit.toNat 2)
  | .operator side value => some (.operator side.toNat value.toNat)
  | .capture flag => some (.capture flag.toNat)
  | .restart => some .restart
  | _ => none

theorem exec_directiveOf {i : Instr} {d : Directive} (h : directiveOf i = some d) (s : State) :
    exec i s = .next (directive d s) := by
  cases i <;> cases h <;> rfl

/-- The bytes that spell a command are read as the directive it is taken as, and leave the bytes after it (R160). -/
theorem Spells.nextDirective {header : Byte} {operands after : List Byte} {i : Instr}
    (h : Spells (header.toNat % 128) operands i after)
    (hlast : header.toNat % 128 = 2 ∨ header.toNat % 128 = 3 → decide (128 ≤ header.toNat) = false) :
    ∃ d, directiveOf i = some d ∧ nextDirective (header :: operands) =
      .ok { more := decide (128 ≤ header.toNat), directive := d, rest := after } := by
  generalize hcode : header.toNat % 128 = code at h hlast
  cases h with
  | select table high low => exact ⟨_, rfl, nextDirective_select hcode table high low after⟩
  | serviceIn high low => exact ⟨_, rfl, nextDirective_service hcode high low 1 after⟩
  | serviceOut high low => exact ⟨_, rfl, nextDirective_service hcode high low 2 after⟩
  | load =>
    refine ⟨_, rfl, ?_⟩
    have hmore := hlast (.inl rfl)
    rw [hmore]
    unfold Machine.nextDirective
    dsimp only
    rw [hcode, more_eq, hmore]
    rfl
  | read count =>
    refine ⟨_, rfl, ?_⟩
    have hmore := hlast (.inr rfl)
    rw [hmore]
    unfold Machine.nextDirective
    dsimp only
    rw [hcode, more_eq, hmore]
    exact if_neg (by simp)
  | _ =>
    refine ⟨_, rfl, ?_⟩
    unfold Machine.nextDirective
    dsimp only
    rw [hcode, more_eq]
    exact if_neg (by simp)

/-- A directive that is read leaves fewer bytes than there were (R160). -/
theorem nextDirective_rest {body : List Byte} {d : ReadDirective} (h : nextDirective body = .ok d) : d.rest.length < body.length := by
  unfold nextDirective at h
  split at h
  · cases h
  · dsimp only at h
    repeat' split at h
    all_goals cases h
    all_goals
      simp only [List.length_drop, List.length_cons, List.length_nil]
      omega

/-- A READ that is read from a body asks for at most 255 records (R167). -/
theorem nextDirective_count {body : List Byte} {d : ReadDirective} {count : Nat} (h : nextDirective body = .ok d)
    (hd : d.directive = .read count) : count ≤ 255 := by
  unfold nextDirective at h
  split at h
  · cases h
  · dsimp only at h
    repeat' split at h
    all_goals cases h
    all_goals cases hd
    exact Nat.le_of_lt_succ (BitVec.isLt _)

end Sys2Proof.Machine
end

section
/-! PROOF. The steps of a chain (R160 to R162, R167, R168): what one step does, that a chain comes to its end, and that a directive does
in a chain what it does by itself. -/

namespace Sys2Proof.Machine

/-! ### One step -/

section
variable {s : State} {c : Chain}

theorem executeRequest_running (hstate : s.node.state ≠ .unaddressed) (hrun : s.mgmt.execution = .running c)
    (pause : Option Nat) : executeRequest pause s = runChain (pause.getD c.stepsLeft) s := by
  rw [executeRequest, if_neg hstate, hrun]
  dsimp only
  rw [runPaused, hrun]

/-- EXECUTE_REQUEST with a pause of 1 is one step of the chain in execution (log 17). -/
theorem exec_step (hstate : s.node.state ≠ .unaddressed) (hrun : s.mgmt.execution = .running c) :
    exec (.executeRequest (some 1)) s = .next (chainStep c s) := by
  refine congrArg Host.Outcome.next ?_
  show executeRequest (some 1) s = _
  rw [executeRequest_running hstate hrun]
  exact runChain_running 0 hrun

/-- An answer that refuses ends the chain (R161). -/
theorem chainAnswered_refused (more : Bool) {code : ResultCode} (h : code ∉ [ResultCode.ok, .endOfTable, .truncated]) (count : Nat) :
    s.chainAnswered c more code count =
      s.chainEnded c (c.items ++ [{ index := c.index, code := code, count := count }]) c.records := by
  unfold State.chainAnswered
  exact if_neg (fun h' => h h'.2)

theorem chainStep_noRoom (hread : c.reading = none) (hroom : c.hasRoom s = false) :
    chainStep c s = s.chainEnded c c.items c.records := by
  rw [chainStep, hread]
  dsimp only
  rw [hroom]
  exact endChain_eq c s

/-- A directive that is not read ends the chain with the code it is refused with (R160; log 29). -/
theorem chainStep_unread {code : ResultCode} (hread : c.reading = none) (hroom : c.hasRoom s = true)
    (hnext : nextDirective c.rest = .error code) :
    chainStep c s = s.chainEnded c (c.items ++ [{ index := c.index, code := code, count := 0 }]) c.records := by
  rw [chainStep, hread]
  dsimp only
  rw [if_pos hroom, hnext]
  exact answer_last c code 0 s

theorem chainStep_directive {d : ReadDirective} (hread : c.reading = none) (hroom : c.hasRoom s = true)
    (hnext : nextDirective c.rest = .ok d) :
    chainStep c s = takeDirective { c with rest := d.rest } d.more d.directive s := by
  rw [chainStep, hread]
  dsimp only
  rw [if_pos hroom, hnext]

end

/-! ### What a directive gives -/

/-- A directive that is neither held nor a READ of records nor a RESTART gives a result at once, which its chain answers with. -/
inductive Gives : Directive → State → Result → Prop where
  | select (table index : Nat) (s : State) : Gives (.select table index) s (doSelect table index s)
  | load (bulk : List Byte) (s : State) : Gives (.load bulk) s (doLoad bulk s)
  | readNone (s : State) : Gives (.read 0) s { state := s, code := .range, count := 0 }
  | serviceRange {circuit action : Nat} (s : State) : Config.circuitMax ≤ circuit ∨ actionOf action = none →
    Gives (.service circuit action) s { state := s, code := .range, count := 0 }
  | service {circuit action : Nat} {a : ServiceAction} {s : State} : circuit < Config.circuitMax → actionOf action = some a →
    s.lockHeld = false →
    Gives (.service circuit action) s { state := (service a circuit s).1, code := (service a circuit s).2, count := 0 }
  | operator (side value : Nat) (s : State) : Gives (.operator side value) s (doOperator side value s)
  | capture (flag : Nat) (s : State) : Gives (.capture flag) s (doCapture flag s)

namespace Gives

variable {d : Directive} {s : State} {r : Result}

theorem taken (h : Gives d s r) (c : Chain) (more : Bool) : takeDirective c more d s = answer c more r.code r.count r.state := by
  cases h with
  | select | load | operator | capture => rfl
  | readNone => rfl
  | @serviceRange circuit action _ h =>
    unfold takeDirective
    dsimp only
    by_cases hcircuit : Config.circuitMax ≤ circuit
    · rw [if_pos hcircuit]
    · rw [if_neg hcircuit, h.resolve_left hcircuit]
  | service hcircuit ha hl =>
    unfold takeDirective takeService
    dsimp only
    rw [if_neg (Nat.not_le.mpr hcircuit), ha]
    dsimp only
    rw [if_neg (by simp [hl])]

/-- The result does not turn on the execution state. -/
theorem executing (h : Gives d s r) (e : Execution) : Gives d (setExecution e s) (r.executing e) := by
  cases h with
  | select table index => rw [← doSelect_setExecution]; exact .select table index _
  | load bulk => rw [← doLoad_setExecution]; exact .load bulk _
  | readNone => exact .readNone _
  | serviceRange _ h => exact .serviceRange _ h
  | @service circuit action a _ hcircuit ha hl =>
    have hservice : Gives (.service circuit action) (setExecution e s) _ := .service hcircuit ha hl
    rw [service_setExecution] at hservice
    exact hservice
  | operator side value => rw [← doOperator_setExecution]; exact .operator side value _
  | capture flag => rw [← doCapture_setExecution]; exact .capture flag _

/-- Of the Management Unit the cursor alone is written (R163). -/
theorem mgmt (h : Gives d s r) : r.state.mgmt = { s.mgmt with cursor := r.state.mgmt.cursor } := by
  cases h with
  | select table index =>
    unfold doSelect
    repeat' split
    all_goals rfl
  | load bulk => exact mgmt_doLoad bulk s
  | readNone | serviceRange => rfl
  | service => dsimp only; rw [mgmt_service]
  | operator side value => rw [(doOperator_frame _ _ _).2.2.2.2.2]
  | capture flag => rw [(doCapture_frame _ _).2.2.2.2.2.2.2.2.2.2.2]

/-- Of these a LOAD alone can write the node (R3). -/
theorem node (h : Gives d s r) (hload : ∀ bulk, d ≠ .load bulk) : r.state.node = s.node := by
  cases h with
  | load bulk => exact absurd rfl (hload bulk)
  | readNone | serviceRange => rfl
  | select | service | operator | capture => simp

end Gives

/-- A SERVICE directive on a circuit of the table that finds the lock HELD is held with the bytes after it (R168). -/
theorem takeDirective_held {s : State} (hl : s.lockHeld = true) {circuit action : Nat} {a : ServiceAction}
    (hcircuit : circuit < Config.circuitMax) (ha : actionOf action = some a) (c : Chain) (more : Bool) :
    takeDirective c more (.service circuit action) s = setExecution
      (.holding c { circuit := circuit, action := a, more := more } (s.now + 2000)) s := by
  unfold takeDirective takeService
  dsimp only
  rw [if_neg (Nat.not_le.mpr hcircuit), ha]
  dsimp only
  rw [if_pos hl]
  rfl

theorem takeDirective_read {count : Nat} (h : count ≠ 0) (c : Chain) (more : Bool) (s : State) :
    takeDirective c more (.read count) s =
      setExecution (.running { c with reading := some { remaining := count, returned := 0 } }) s := if_neg h

/-- Every directive gives a result at once, is a READ of records, a SERVICE that finds the lock HELD, or a RESTART. -/
theorem gives_or (d : Directive) (s : State) :
    (∃ r, Gives d s r) ∨ (∃ count, d = .read count ∧ count ≠ 0) ∨
      (∃ circuit action a, d = .service circuit action ∧ circuit < Config.circuitMax ∧ actionOf action = some a ∧
        s.lockHeld = true) ∨ d = .restart := by
  cases d with
  | select table index => exact .inl ⟨_, .select table index s⟩
  | load bulk => exact .inl ⟨_, .load bulk s⟩
  | read count =>
    by_cases h : count = 0
    · subst h
      exact .inl ⟨_, .readNone s⟩
    · exact .inr (.inl ⟨count, rfl, h⟩)
  | service circuit action =>
    by_cases hcircuit : Config.circuitMax ≤ circuit
    · exact .inl ⟨_, .serviceRange s (.inl hcircuit)⟩
    · cases ha : actionOf action with
      | none => exact .inl ⟨_, .serviceRange s (.inr ha)⟩
      | some a =>
        cases hl : s.lockHeld with
        | false => exact .inl ⟨_, .service (Nat.not_le.mp hcircuit) ha hl⟩
        | true => exact .inr (.inr (.inl ⟨circuit, action, a, rfl, Nat.not_le.mp hcircuit, ha, rfl⟩))
  | operator side value => exact .inl ⟨_, .operator side value s⟩
  | capture flag => exact .inl ⟨_, .capture flag s⟩
  | restart => exact .inr (.inr (.inr rfl))

/-! ### Chains come to their end -/

/-- At most this many steps are left of a chain: one for each byte of its body, and those of a READ of 255 records. -/
def Chain.stepsMost (c : Chain) : Nat :=
  match c.reading with
  | some r => r.remaining + 1
  | none => c.rest.length + 258

/-- A READ in progress was asked for at most 255 records (R167). -/
def Chain.readsByte (c : Chain) : Prop := ∀ r, c.reading = some r → r.remaining ≤ 255

theorem Chain.stepsMost_le {c : Chain} (h : c.readsByte) : c.stepsMost ≤ c.stepsLeft := by
  unfold stepsMost stepsLeft
  split
  · rename_i r hr
    have := h r hr
    omega
  · omega

/-- An answer that leaves the chain in execution writes nothing but the chain, which goes on with its next directive (R160). -/
theorem answer_goesOn {c c' : Chain} {more : Bool} {code : ResultCode} {count : Nat} {s : State}
    (h : (answer c more code count s).mgmt.execution = .running c') :
    more = true ∧ c' = c.answered code count ∧ (answer c more code count s).node = s.node := by
  rcases answer_execution c more code count s with hidle | ⟨hmore, hrun⟩
  · rw [hidle] at h; cases h
  · obtain rfl : c.answered code count = c' := by rw [hrun] at h; injection h
    refine ⟨hmore, rfl, ?_⟩
    unfold answer at hrun ⊢
    split at hrun
    · simp at hrun
    · rename_i hgoes
      rw [if_neg hgoes]
      rfl

/-- A directive that leaves its chain in execution leaves the node as it was, and the chain at its next directive or in a READ. -/
theorem takeDirective_goesOn {c c' : Chain} {more : Bool} {d : Directive} {s : State} (hload : ∀ bulk, d = .load bulk → more = false)
    (h : (takeDirective c more d s).mgmt.execution = .running c') :
    (takeDirective c more d s).node = s.node ∧ ((c'.rest = c.rest ∧ c'.reading = none) ∨
      ∃ count, d = .read count ∧ c'.reading = some { remaining := count, returned := 0 }) := by
  rcases gives_or d s with ⟨r, hr⟩ | ⟨count, rfl, hcount⟩ | ⟨circuit, action, a, rfl, hcircuit, ha, hl⟩ | rfl
  · rw [hr.taken] at h ⊢
    obtain ⟨hmore, rfl, hnode⟩ := answer_goesOn h
    refine ⟨hnode.trans (hr.node fun bulk hd => ?_), .inl ⟨rfl, rfl⟩⟩
    rw [hload bulk hd] at hmore
    cases hmore
  · rw [takeDirective_read hcount] at h ⊢
    obtain rfl := Execution.running.inj h
    exact ⟨rfl, .inr ⟨count, rfl, rfl⟩⟩
  · rw [takeDirective_held hl hcircuit ha] at h
    cases h
  · obtain ⟨_, rfl, hnode⟩ := answer_goesOn (c := { c with restartDue := true }) h
    exact ⟨hnode, .inl ⟨rfl, rfl⟩⟩

/-- A record of a READ that leaves its chain in execution leaves the node as it was, with one record less to return. -/
theorem readRecord_goesOn {c c' : Chain} {r : Reading} {s : State} (h : (readRecord c r s).mgmt.execution = .running c') :
    (readRecord c r s).node = s.node ∧ r.remaining ≠ 0 ∧
      c'.reading = some { remaining := r.remaining - 1, returned := r.returned + 1 } := by
  unfold readRecord at h ⊢
  dsimp only at h ⊢
  split at h
  · cases (answer_goesOn h).1
  · rename_i hleft
    split at h
    · cases (answer_goesOn h).1
    · rename_i hin
      split at h
      · rename_i hfits
        obtain rfl := Execution.running.inj h
        rw [if_neg hleft, if_neg hin, if_pos hfits]
        exact ⟨rfl, hleft, rfl⟩
      · cases (answer_goesOn h).1

/-- A step that leaves the chain in execution leaves the node as it was, and fewer steps to take. -/
theorem chainStep_goesOn {c c' : Chain} {s : State} (hc : c.readsByte) (h : (chainStep c s).mgmt.execution = .running c') :
    (chainStep c s).node = s.node ∧ c'.readsByte ∧ c'.stepsMost < c.stepsMost := by
  unfold Chain.readsByte Chain.stepsMost
  unfold chainStep at h ⊢
  cases hread : c.reading with
  | some r =>
    rw [hread] at h
    dsimp only at h ⊢
    obtain ⟨hnode, hleft, hread'⟩ := readRecord_goesOn h
    have hremaining := hc r hread
    rw [hread']
    refine ⟨hnode, fun r' hr' => ?_, by dsimp only; omega⟩
    obtain rfl := Option.some.inj hr'
    dsimp only
    omega
  | none =>
    rw [hread] at h
    dsimp only at h ⊢
    split at h
    · rename_i hroom
      rw [if_pos hroom]
      cases hnext : nextDirective c.rest with
      | error code =>
        rw [hnext] at h
        cases (answer_goesOn h).1
      | ok d =>
        rw [hnext] at h
        have hrest := nextDirective_rest hnext
        obtain ⟨hnode, ⟨hrest', hread'⟩ | ⟨count, hd, hread'⟩⟩ :=
          takeDirective_goesOn (fun bulk hd => nextDirective_load hnext hd) h
        · rw [hread', hrest']
          exact ⟨hnode, (fun r' hr' => by cases hr'), by dsimp only; omega⟩
        · have hcount := nextDirective_count hnext hd
          rw [hread']
          refine ⟨hnode, fun r' hr' => ?_, by dsimp only; omega⟩
          obtain rfl := Option.some.inj hr'
          exact hcount
    · rw [endChain_execution] at h
      cases h

/-- As many steps as are left bring a chain to its end. -/
theorem runChain_ends {c : Chain} {s : State} {n : Nat} (hc : c.readsByte) (hrun : s.mgmt.execution = .running c)
    (hn : c.stepsMost ≤ n) : ∀ c', (runChain n s).mgmt.execution ≠ .running c' := by
  induction n generalizing c s with
  | zero =>
    unfold Chain.stepsMost at hn
    split at hn <;> omega
  | succ n ih =>
    rw [runChain_running n hrun]
    by_cases hgoes : ∃ b, (chainStep c s).mgmt.execution = .running b
    · obtain ⟨b, hb⟩ := hgoes
      obtain ⟨_, hb', hless⟩ := chainStep_goesOn hc hb
      exact ih hb' hb (by omega)
    · rw [runChain_stopped n fun b hb => hgoes ⟨b, hb⟩]
      exact fun b hb => hgoes ⟨b, hb⟩

/-- More steps than are left do no more. -/
theorem runChain_enough {c : Chain} {s : State} {m n : Nat} (hc : c.readsByte) (hrun : s.mgmt.execution = .running c)
    (hm : c.stepsMost ≤ m) (hn : c.stepsMost ≤ n) : runChain m s = runChain n s := by
  have hmost : ∀ k, c.stepsMost ≤ k → runChain k s = runChain c.stepsMost s := fun k hk => by
    obtain ⟨j, rfl⟩ := Nat.exists_eq_add_of_le hk
    rw [runChain_add, runChain_stopped _ (runChain_ends hc hrun le_rfl)]
  rw [hmost m hm, hmost n hn]

/-- A chain left in execution after some steps has left the node as it was. -/
theorem runChain_goesOn {c c' : Chain} {s : State} {n : Nat} (hc : c.readsByte) (hrun : s.mgmt.execution = .running c)
    (h : (runChain n s).mgmt.execution = .running c') : (runChain n s).node = s.node ∧ c'.readsByte := by
  induction n generalizing c s with
  | zero =>
    obtain rfl := Execution.running.inj (hrun.symm.trans h)
    exact ⟨rfl, hc⟩
  | succ n ih =>
    rw [runChain_running n hrun] at h ⊢
    by_cases hgoes : ∃ b, (chainStep c s).mgmt.execution = .running b
    · obtain ⟨b, hb⟩ := hgoes
      obtain ⟨hnode, hb', _⟩ := chainStep_goesOn hc hb
      obtain ⟨hnode', hc'⟩ := ih hb' hb h
      exact ⟨hnode'.trans hnode, hc'⟩
    · rw [runChain_stopped n fun b hb => hgoes ⟨b, hb⟩] at h
      exact absurd ⟨c', h⟩ hgoes

end Sys2Proof.Machine
end

section
/-! PROOF. Requests executed and answered (O46): a chain from its request to its reply, a chain left and gone on with, and each step. -/

namespace Sys2Proof.Machine

/-! ### A chain of one directive -/

/-- The reply's body of one item of index 0 and count 0 (R161). -/
theorem body_single (code : ResultCode) :
    [({ index := 0, code := code, count := 0 } : Item)].flatMap Item.bytes ++ [] = [0, byte code.code, 0, 0] := by
  cases code <;> rfl

theorem startRequest_eq {s : State} {r : Request} {rest : List Request} (h : s.mgmt.requests = r :: rest) :
    startRequest s = setExecution (.running (Chain.start (some (r.origin, r.tag)) r.body)) s := by
  rw [startRequest, h]

theorem executeRequest_idle {s : State} (hstate : s.node.state ≠ .unaddressed) (hidle : s.mgmt.execution = .idle)
    {r : Request} {rest : List Request} (h : s.mgmt.requests = r :: rest) (pause : Option Nat) :
    executeRequest pause s = runChain (pause.getD (Chain.start (some (r.origin, r.tag)) r.body).stepsLeft)
      (setExecution (.running (Chain.start (some (r.origin, r.tag)) r.body)) s) := by
  rw [executeRequest, if_neg hstate, hidle]
  dsimp only
  rw [startRequest_eq h]
  rfl

/-- The end of a request's chain without a RESTART: the reply is sent, and the request leaves the queue (R162). -/
theorem chainEnded_replied {s : State} {r : Request} {rest : List Request} (hidle : s.mgmt.execution = .idle)
    (hrequests : s.mgmt.requests = r :: rest) (e : Execution) (cursor : Cursor) {c : Chain}
    (hrequester : c.requester = some (r.origin, r.tag)) (hdue : c.restartDue = false) (items : List Item) :
    ({ s with mgmt := { s.mgmt with execution := e, cursor := cursor } } : State).chainEnded c items [] =
      let u := sendFrame { kind := 2, destination := r.origin, origin := s.node.strap, hops := 32, tag := r.tag,
                           body := items.flatMap Item.bytes ++ [] } s
      { u with mgmt := { u.mgmt with requests := rest, cursor := cursor, lastItems := items, lastRecords := [] } } := by
  unfold State.chainEnded
  rw [hrequester, hdue]
  dsimp only
  rw [sendFrame_congr (s := s) (t := { s with mgmt := { s.mgmt with execution := e, cursor := cursor } }) rfl rfl rfl rfl rfl,
    sendFrame_congr (s := s) (t := s) rfl rfl rfl rfl rfl]
  simp only [Bool.false_eq_true, if_false, hidle, hrequests, List.tail_cons]

/-- A chain whose first step ends it has been executed by that step. -/
theorem runChain_first {c : Chain} {s t : State} (hrun : s.mgmt.execution = .running c) (hstep : chainStep c s = t)
    (hended : t.mgmt.execution = .idle) (n : Nat) : runChain (n + 1) s = t := by
  rw [runChain_running n hrun, hstep, runChain_stopped n fun c hc => by rw [hended] at hc; cases hc]

@[simp] theorem chainEnded_execution (s : State) (c : Chain) (items : List Item) (records : List Byte) :
    (s.chainEnded c items records).mgmt.execution = .idle := by
  have h := endChain_execution { c with items := items, records := records } s
  rwa [endChain_eq] at h

/-! ### A chain left and gone on with -/

theorem readsByte_start (requester : Option (Byte × Half)) (body : List Byte) : (Chain.start requester body).readsByte :=
  fun _ h => by cases h

/-- A request left in execution after some steps and gone on with ends as if it had not been left (R160; log 17). -/
theorem executeRequest_left {s : State} (hstate : s.node.state ≠ .unaddressed) (hidle : s.mgmt.execution = .idle)
    {r : Request} {rest : List Request} (h : s.mgmt.requests = r :: rest) (m : Nat) {c : Chain}
    (hleft : (executeRequest (some m) s).mgmt.execution = .running c) :
    executeRequest none (executeRequest (some m) s) = executeRequest none s := by
  rw [executeRequest_idle hstate hidle h] at hleft ⊢
  rw [executeRequest_idle hstate hidle h]
  dsimp only [Option.getD_some, Option.getD_none] at hleft ⊢
  generalize hc : Chain.start (some (r.origin, r.tag)) r.body = b at *
  have hb : b.readsByte := hc ▸ readsByte_start _ _
  generalize hu : setExecution (.running b) s = u at *
  have hrun : u.mgmt.execution = .running b := by rw [← hu]; rfl
  have hnode : u.node = s.node := by rw [← hu]; rfl
  obtain ⟨hnode', hreads⟩ := runChain_goesOn hb hrun hleft
  rw [executeRequest_running (by rw [show (runChain m u).node = s.node from hnode'.trans hnode]; exact hstate) hleft]
  have hmost := Chain.stepsMost_le hb
  calc runChain c.stepsLeft (runChain m u)
      = runChain (c.stepsLeft + b.stepsLeft) (runChain m u) :=
        runChain_enough hreads hleft (Chain.stepsMost_le hreads) ((Chain.stepsMost_le hreads).trans (Nat.le_add_right _ _))
    _ = runChain (m + (c.stepsLeft + b.stepsLeft)) u := (runChain_add _ _ _).symm
    _ = runChain b.stepsLeft u := runChain_enough hb hrun (by omega) hmost

/-! ### Directives in a chain -/

theorem directiveOf_read {i : Instr} {count : Nat} (h : directiveOf i = some (.read count)) :
    ∃ n : Byte, i = .read n ∧ n.toNat = count := by
  cases i <;> cases h
  exact ⟨_, rfl, rfl⟩

theorem directiveOf_restart {i : Instr} (h : directiveOf i = some .restart) : i = .restart := by
  cases i <;> cases h
  rfl

/-- An action code that is neither IN nor OUT (R14). -/
theorem actionOf_none {action : Byte} (hin : action ≠ 1) (hout : action ≠ 2) : actionOf action.toNat = none := by
  have hne : ∀ {b : Byte}, action ≠ b → action.toNat ≠ b.toNat := fun h => mt BitVec.toNat_inj.mp h
  unfold actionOf
  split
  · exact absurd ‹_› (hne hin)
  · exact absurd ‹_› (hne hout)
  · rfl

section
variable {s : State} {c : Chain}

/-- The command of the chain's next directive takes it (log 16). -/
theorem directive_next {d : ReadDirective} (hstate : s.node.state ≠ .unaddressed) (hrun : s.mgmt.execution = .running c)
    (hread : c.reading = none) (hroom : c.hasRoom s = true) (hnext : nextDirective c.rest = .ok d) :
    directive d.directive s =
      match d.directive with
      | .read _ => runPaused none (chainStep c s)
      | _ => chainStep c s := by
  rw [chainStep_directive hread hroom hnext, directive, if_neg hstate, hrun]
  dsimp only
  rw [hread, hnext]
  exact if_pos ⟨rfl, hroom⟩

/-- A chain run to its end is run from its first step to its end. -/
theorem runPaused_chainStep (hstate : s.node.state ≠ .unaddressed) (hrun : s.mgmt.execution = .running c) (hc : c.readsByte) :
    runPaused none (chainStep c s) = executeRequest none s := by
  rw [executeRequest_running hstate hrun]
  have hmost := Chain.stepsMost_le hc
  show _ = runChain (c.rest.length + 259 + 1) s
  rw [runChain_running _ hrun, runPaused]
  split
  · rename_i b hb
    obtain ⟨_, hb', hless⟩ := chainStep_goesOn hc hb
    refine runChain_enough hb' hb (Chain.stepsMost_le hb') ?_
    unfold Chain.stepsLeft at hmost
    omega
  · rename_i hstopped
    exact (runChain_stopped _ hstopped).symm

/-- A directive that gives a result at once gives it by itself (log 16). -/
theorem directive_gives {d : Directive} {r : Result} (hcan : s.canTake) (hr : Gives d s r) :
    directive d s = r.state.answeredWith r.code r.count [] := directive_answered hcan (hr.taken _ _)

/-- A directive does in a chain what its command does by itself, with the code and the count of that (R160, R161). -/
theorem takeDirective_alone {i : Instr} {d : Directive} (hd : directiveOf i = some d) (hstate : s.node.state ≠ .unaddressed)
    (hrestart : i ≠ .restart) (hreads : ∀ n, i = .read n → n = 0) {v : State} {result : ResultCode} {count : Nat}
    (hv : exec i (setExecution .idle s) = .next (v.answeredWith result count [])) (left : Chain) (more : Bool) :
    takeDirective left more d s = State.chainAnswered
      { v with mgmt := { v.mgmt with lastItems := s.mgmt.lastItems, lastRecords := s.mgmt.lastRecords } } left more result count := by
  have hcan : (setExecution .idle s).canTake := ⟨hstate, rfl⟩
  rw [exec_directiveOf hd] at hv
  rcases gives_or d s with ⟨r, hr⟩ | ⟨k, rfl, hk⟩ | ⟨circuit, action, a, rfl, hcircuit, ha, hl⟩ | rfl
  · rw [directive_gives hcan (hr.executing .idle)] at hv
    obtain ⟨hcode, hcount, hstates⟩ := answeredWith_inj hv
    rw [hr.taken, answer_eq, show r.code = result from hcode, show r.count = count from hcount]
    have hnoted : v.noting s.mgmt = (setExecution .idle r.state).noting s.mgmt := by
      rw [← noting_answeredWith v .ok 0 [] s.mgmt, ← hstates, noting_answeredWith]
      rfl
    have hkept : (setExecution .idle r.state).noting s.mgmt = setExecution .idle r.state := by
      unfold State.noting setExecution
      rw [hr.mgmt]
    rw [← chainAnswered_setExecution .idle left more result count r.state, ← hkept, ← hnoted]
    exact chainAnswered_setExecution .idle left more result count
      { v with mgmt := { v.mgmt with lastItems := s.mgmt.lastItems, lastRecords := s.mgmt.lastRecords } }
  · obtain ⟨n, rfl, rfl⟩ := directiveOf_read hd
    exact absurd (hreads n rfl ▸ rfl) hk
  · rw [directive_held hcan hl ha hcircuit] at hv
    cases congrArg (fun t : State => t.mgmt.execution) (Host.Outcome.next.inj hv)
  · exact absurd (directiveOf_restart hd) hrestart

/-- The command of a chain's next directive does what EXECUTE_REQUEST does: one step, and a READ to its end (log 16). -/
theorem exec_spelled (hstate : s.node.state ≠ .unaddressed) (hrun : s.mgmt.execution = .running c) (hread : c.reading = none)
    (hroom : c.hasRoom s = true) {header : Byte} {operands after : List Byte} {i : Instr} (hrest : c.rest = header :: operands)
    (hspells : Spells (header.toNat % 128) operands i after)
    (hlast : header.toNat % 128 = 2 ∨ header.toNat % 128 = 3 → decide (128 ≤ header.toNat) = false) :
    exec i s = if header.toNat % 128 = 3 then exec (.executeRequest none) s else exec (.executeRequest (some 1)) s := by
  obtain ⟨d, hd, hnext⟩ := hspells.nextDirective hlast
  have hdirective := directive_next hstate hrun hread hroom (hrest ▸ hnext)
  have hc : c.readsByte := fun r hr => by rw [hread] at hr; cases hr
  rw [exec_directiveOf hd, exec_step hstate hrun]
  generalize header.toNat % 128 = code at hspells
  cases hspells with
  | read count after =>
    cases hd
    rw [if_pos rfl]
    exact congrArg Host.Outcome.next (hdirective.trans (runPaused_chainStep hstate hrun hc))
  | _ =>
    cases hd
    rw [if_neg (by decide)]
    exact congrArg Host.Outcome.next hdirective

end

/-! ### The statement -/

theorem hasRoom_iff (c : Chain) (s : State) :
    c.hasRoom s = true ↔ 10 + 4 * (c.items.length + 1) + c.records.length ≤ s.settings.maxReply := decide_eq_true_iff

theorem hasRoom_start {s : State} (h : 14 ≤ s.settings.maxReply) (requester : Option (Byte × Half)) (body : List Byte) :
    (Chain.start requester body).hasRoom s = true := decide_eq_true h

/-- A request of one SELECT ends its chain with its first step (R164). -/
theorem chainStep_request_select {s : State} {requester : Option (Byte × Half)} {body : List Byte} (hreply : 14 ≤ s.settings.maxReply)
    {table index : Nat} {tid : TableId} {bulk : List Byte} (htable : tableOf table = some tid) (hlt : table < 256)
    (hindex : index < tid.records) (hbody : body = [1, byte table] ++ bytes2 index ++ bulk) :
    chainStep (Chain.start requester body) (setExecution (.running (Chain.start requester body)) s) =
      ({ s with mgmt := { s.mgmt with
        execution := .running (Chain.start requester body)
        cursor := { table := tid, index := index } } } : State).chainEnded
        (Chain.start requester bulk) [{ index := 0, code := .ok, count := 0 }] [] := by
  have hsmall : index < 65536 := hindex.trans (by cases tid <;> decide)
  have hnext : nextDirective body = .ok { more := false, directive := .select table index, rest := bulk } := by
    have hread := nextDirective_select (header := 1) rfl (byte table) (byte (index / 256)) (byte index) bulk
    rw [toNat_append, bytes2_value hsmall, show (byte table).toNat = table from Nat.mod_eq_of_lt hlt] at hread
    rw [hbody]
    exact hread
  generalize hrun : setExecution (.running (Chain.start requester body)) s = u
  have hroom : (Chain.start requester body).hasRoom u = true := hasRoom_start (hrun ▸ hreply) _ _
  rw [chainStep_directive rfl hroom hnext, (Gives.select table index _).taken, doSelect_taken htable hindex, answer_last, ← hrun]
  rfl

section
variable {s : State} {r : Request} {rest : List Request} (hstate : s.node.state ≠ .unaddressed)
  (hidle : s.mgmt.execution = .idle) (hrequests : s.mgmt.requests = r :: rest)
include hstate hidle hrequests

/-- A request whose first step ends its chain with one item is answered with that item (R160, R162). -/
theorem exec_request_one {code : ResultCode} {e : Execution} {cursor : Cursor} {body : List Byte}
    (h : chainStep (Chain.start (some (r.origin, r.tag)) r.body)
        (setExecution (.running (Chain.start (some (r.origin, r.tag)) r.body)) s) =
      ({ s with mgmt := { s.mgmt with execution := e, cursor := cursor } } : State).chainEnded
        (Chain.start (some (r.origin, r.tag)) body) [{ index := 0, code := code, count := 0 }] []) :
    exec (.executeRequest none) s =
      let u := sendFrame { kind := 2, destination := r.origin, origin := s.node.strap, hops := 32, tag := r.tag,
                           body := [0, byte code.code, 0, 0] } s
      .next { u with mgmt := { u.mgmt with
        requests := rest, cursor := cursor, lastItems := [{ index := 0, code := code, count := 0 }], lastRecords := [] } } := by
  refine congrArg Host.Outcome.next ((executeRequest_idle hstate hidle hrequests none).trans ?_)
  rw [← body_single]
  exact (runChain_first rfl h (chainEnded_execution _ _ _ _) _).trans
    (chainEnded_replied hidle hrequests e cursor rfl rfl [{ index := 0, code := code, count := 0 }])

end

/-- Settles O46: a request's chain by its first step, a chain left and gone on with by `executeRequest_left`, and each step by what
reading its directive gives, what the directive gives and `readRecord`. -/
theorem requestsAreExecutedAndAnswered : Obligations.RequestsAreExecutedAndAnswered := by
  refine ⟨fun s r rest hstate hidle hrequests hreply => ?_, fun s c hstate hrun hread => ?_, fun s c r hstate hrun hread => ?_⟩
  · refine ⟨fun table index tid bulk htable hlt hindex hbody => ?_, fun header bulk hbody hheader => ?_, fun m t ht hleft => ?_⟩
    · exact exec_request_one hstate hidle hrequests (chainStep_request_select hreply htable hlt hindex hbody)
    · refine exec_request_one hstate hidle hrequests (body := r.body)
        (e := .running (Chain.start (some (r.origin, r.tag)) r.body)) (cursor := s.mgmt.cursor) ?_
      refine chainStep_unread rfl (hasRoom_start hreply _ _) ?_
      show nextDirective r.body = _
      rw [hbody]
      exact nextDirective_unknown hheader bulk
    · obtain ⟨c, hc⟩ := hleft
      cases ht
      exact congrArg Host.Outcome.next (executeRequest_left hstate hidle hrequests m hc)
  · have hstep := exec_step hstate hrun
    intro step ends items room
    have hends : ∀ {items v}, chainStep c s = v.chainEnded c items c.records → ends items v := fun h =>
      hstep.trans (congrArg Host.Outcome.next h)
    have hrefuses : ResultCode.range ∉ [ResultCode.ok, .endOfTable, .truncated] := by decide
    have hroom : room → c.hasRoom s = true := (hasRoom_iff c s).mpr
    refine ⟨fun hfull => hends (chainStep_noRoom hread (Bool.eq_false_iff.mpr (mt (hasRoom_iff c s).mp hfull))),
      fun hfits hrest => hends (chainStep_unread hread (hroom hfits) (by rw [hrest]; rfl)),
      fun hfits header operands hrest => ?_⟩
    intro code more
    have hunread : ∀ {refusal}, nextDirective (header :: operands) = .error refusal → ends (items refusal) s := fun h =>
      hends (chainStep_unread hread (hroom hfits) (hrest ▸ h))
    have htaken : ∀ {d after}, nextDirective (header :: operands) = .ok { more := more, directive := d, rest := after } →
        chainStep c s = takeDirective { c with rest := after } more d s := fun h =>
      chainStep_directive hread (hroom hfits) (hrest ▸ h)
    refine ⟨fun hcode => hunread (nextDirective_unknown hcode operands),
      fun hcode hmore => hunread (nextDirective_more hcode (of_decide_eq_true hmore) operands),
      fun hshort => hunread (nextDirective_short hshort), fun table high low after hcode hoperands => ?_,
      fun high low action after hcode hoperands hin hout => ?_, fun i after hspells hlast => ?_⟩
    · subst hoperands
      intro index
      have hselect := htaken (nextDirective_select hcode table high low after)
      rw [toNat_append, (Gives.select _ _ s).taken, answer_eq] at hselect
      have hrange : (tableOf table.toNat).elim 0 TableId.records ≤ index → ends (items .range) s := fun h => by
        rw [doSelect_refused h] at hselect
        exact hends (hselect.trans (chainAnswered_refused more hrefuses 0))
      refine ⟨fun hnone => hrange (by rw [hnone]; exact Nat.zero_le _), fun tid htable =>
        ⟨fun hindex => hrange (by rw [htable]; exact hindex), fun hindex hmore => ?_, fun hindex hmore => ?_⟩⟩
      · rw [doSelect_taken htable hindex, hmore, chainAnswered_last] at hselect
        exact hends hselect
      · rw [doSelect_taken htable hindex, hmore] at hselect
        refine hstep.trans (congrArg Host.Outcome.next (hselect.trans ?_))
        unfold State.chainAnswered
        rw [if_pos ⟨rfl, List.mem_cons_self⟩, hread]
        rfl
    · subst hoperands
      have hservice := htaken (nextDirective_service hcode high low action after)
      rw [(Gives.serviceRange s (.inr (actionOf_none hin hout))).taken, answer_eq] at hservice
      exact hends (hservice.trans (chainAnswered_refused more hrefuses 0))
    · intro left
      obtain ⟨d, hd, hnext⟩ := hspells.nextDirective hlast
      have htake : ∀ {v}, takeDirective left more d s = v → step = .next v := fun h =>
        hstep.trans (congrArg Host.Outcome.next ((htaken hnext).trans h))
      refine ⟨fun hrestart hreads v result count hv => htake (takeDirective_alone hd hstate hrestart hreads hv left more),
        fun hl n hn => ⟨fun hi => htake ?_, fun hi => htake ?_⟩, fun n hi hn => htake ?_, fun hi => htake ?_,
        exec_spelled hstate hrun hread (hroom hfits) hrest hspells hlast⟩
      · subst hi
        cases hd
        exact takeDirective_held hl hn rfl left more
      · subst hi
        cases hd
        exact takeDirective_held hl hn rfl left more
      · subst hi
        cases hd
        exact takeDirective_read (fun h => hn (BitVec.toNat_inj.mp h)) left more s
      · subst hi
        cases hd
        exact answer_eq { left with restartDue := true } more .ok 0 s
  · intro step cur image size ends
    have hstep : chainStep c s = readRecord c r s := by rw [chainStep, hread]
    have hexec : ∀ {v}, readRecord c r s = v → step = .next v := fun h =>
      (exec_step hstate hrun).trans (congrArg Host.Outcome.next (hstep.trans h))
    refine ⟨fun hdone => hexec (readRecord_done hdone), fun hleft => ⟨fun hend => hexec (readRecord_tableEnd hleft hend),
      fun hin hfull => hexec (readRecord_full hleft hin ?_), fun hin hfits => hexec (readRecord_taken hleft hin ?_)⟩⟩
    · unfold replySize
      exact hfull.trans_eq (Nat.add_assoc _ _ _)
    · unfold replySize
      exact (Nat.add_assoc _ _ _).symm.trans_le hfits

end Sys2Proof.Machine
end

section
/-! PROOF. The emission of REPORT frames (O59): the size of a report item (R180), the queue an emission uses and what it does
(R178, R179). -/

namespace Sys2Proof.Machine

/-! ### Report items (R180) -/

theorem length_derivedImage (d : Option Derived) : (derivedImage d).length = 7 := by
  cases d <;> rfl

theorem length_circuitItem (c : Nat) (r : CircuitRecord) : (circuitItem c r).length = 16 := by
  cases r <;> rfl

/-- The item of every subject has 16 bytes (R179). -/
theorem length_itemOf (s : State) (x : Subject) : (itemOf s x).length = 16 := by
  cases x with
  | node => rfl
  | port p => rfl
  | span k => simp [itemOf, spanItem, length_derivedImage, bytes2]
  | circuit c => exact length_circuitItem c (s.circuit c)

theorem length_reportFrame_body (s : State) (taken : List Subject) : (reportFrame s taken).body.length = 16 * taken.length := by
  simp [reportFrame, List.length_flatMap, length_itemOf, Nat.mul_comm]

/-! ### The queue of an emission (R178) -/

/-- An emission has a queue exactly when the destination is not 0 and names one with a free place. -/
theorem reportQueue_eq_some {s : State} {q : MgmtPort} :
    reportQueue s = some q ↔ s.settings.reportDestination ≠ 0 ∧ namedQueue s s.settings.reportDestination = some q ∧
      (s.mgmt.queues.get q).frames.length < 8 := by
  unfold reportQueue
  split
  · next hzero => exact iff_of_false nofun fun h => h.1 hzero
  · next hdest =>
    rw [Option.filter_eq_some_iff]
    exact (and_congr_right fun _ => decide_eq_true_iff).trans (and_iff_right hdest).symm

theorem reportQueue_eq_none {s : State}
    (h : s.settings.reportDestination = 0 ∨
      ∀ q, namedQueue s s.settings.reportDestination = some q → 8 ≤ (s.mgmt.queues.get q).frames.length) :
    reportQueue s = none := by
  refine Option.eq_none_iff_forall_ne_some.mpr fun q hq => ?_
  obtain ⟨hdest, hnamed, hfree⟩ := reportQueue_eq_some.mp hq
  rcases h with hzero | hfull
  · exact hdest hzero
  · exact absurd hfree (Nat.not_lt.mpr (hfull q hnamed))

/-! ### What an emission does (R178, R179) -/

theorem reportEmission_still {s : State}
    (h : s.reports.subjects = [] ∨ s.node.state = .unaddressed ∨ reportQueue s = none) : reportEmission s = s := by
  unfold reportEmission
  split
  · rfl
  · rfl
  · rfl
  · next hq hsubjects hstate =>
    rcases h with h | h | h
    · exact (hsubjects h).elim
    · exact (hstate h).elim
    · cases hq.symm.trans h

/-- When its conditions hold, an emission empties the list if no subject of a category that is on is pending, and else offers
the frame of the first 16 of them. -/
theorem reportEmission_due {s : State} {q : MgmtPort} (hsubjects : s.reports.subjects ≠ []) (hstate : s.node.state ≠ .unaddressed)
    (hq : reportQueue s = some q) :
    reportEmission s =
      if reportable s = [] then { s with reports := { s.reports with subjects := [] } }
      else offerFrame q (reportFrame s ((reportable s).take 16))
        { s with reports := { s.reports with subjects := (reportable s).drop 16, number := s.reports.number + 1 } } := by
  unfold reportEmission
  split
  · next hnil => exact absurd hnil hsubjects
  · next hunaddressed _ => exact absurd hunaddressed hstate
  · next hnone _ _ => cases hq.symm.trans hnone
  · next hsome _ _ =>
    cases hq.symm.trans hsome
    have hempty : (reportable s).take Config.reportItems = [] ↔ reportable s = [] :=
      List.take_eq_nil_iff.trans (or_iff_right (by decide))
    split
    · next hnil => exact (if_pos (hempty.mp hnil)).symm
    · next hcons => exact (if_neg (mt hempty.mpr hcons)).symm

/-- Settles O59: by `reportQueue_eq_some` for the conditions, and by whether a subject of a category that is on is pending. -/
theorem emissionTakesUpToSixteenSubjects : Obligations.EmissionTakesUpToSixteenSubjects := by
  intro s on
  refine ⟨fun hstill => ?_, fun q hsubjects hstate hdest hnamed hfree => ?_⟩
  · exact congrArg Host.Outcome.next (reportEmission_still (hstill.imp_right (Or.imp_right reportQueue_eq_none)))
  · have hq : reportQueue s = some q := reportQueue_eq_some.mpr ⟨hdest, hnamed, hfree⟩
    have hdue := reportEmission_due hsubjects hstate hq
    refine ⟨fun hoff => ?_, fun hon => ⟨(reportFrame s (on.take 16)).body, rfl, ?_, ?_⟩⟩
    · exact congrArg Host.Outcome.next (hdue.trans (if_pos hoff))
    · rw [length_reportFrame_body, List.length_take]
    · refine congrArg Host.Outcome.next ((hdue.trans (if_neg hon)).trans (offerFrame_free ?_ _))
      exact hfree

end Sys2Proof.Machine
end

section
/-! PROOF. The check code under errors (O25; R185). The syndrome and the parity of a field change at an inverted bit by what is
the bit's own: the syndrome by its code, the parity always. The table of R185 reads a bit's code back as that bit, so that the
codes of two bits differ. -/

namespace Sys2Proof.Machine

/-! ### An inverted bit -/

theorem getLsbD_flipBit (f : NoticeField) {i : Nat} (hi : i < 128) (n : Nat) :
    (flipBit f i).getLsbD n = (f.getLsbD n ^^ decide (n = i)) := by
  unfold flipBit
  rw [BitVec.getLsbD_xor, ← BitVec.twoPow_eq, BitVec.getLsbD_twoPow]
  simp [hi, eq_comm]

theorem flipBit_flipBit (f : NoticeField) (i : Nat) : flipBit (flipBit f i) i = f := by
  unfold flipBit
  rw [BitVec.xor_assoc, BitVec.xor_self, BitVec.xor_zero]

/-- An inverted bit inverts the parity of the bits it stands among. -/
theorem parityBelow_flipBit (f : NoticeField) {i : Nat} (hi : i < 128) (n : Nat) :
    parityBelow (flipBit f i) n = (parityBelow f n ^^ decide (i < n)) := by
  induction n with
  | zero => simp [parityBelow]
  | succ n ih =>
    rw [parityBelow_succ, parityBelow_succ, ih, getLsbD_flipBit f hi]
    rcases lt_trichotomy i n with h | rfl | h
    · simp [h, h.ne', Nat.lt_succ_of_lt h]
    · simp
    · simp [h.ne, h.not_gt, show ¬ i < n + 1 by omega]

/-! ### Data parities and the syndrome -/

/-- The parity of the data bits whose entry in a list of code values has bit `j` set (`dataParity_eq`). -/
def codedParity (l : List Nat) (f : NoticeField) (j : Nat) : Bool :=
  l.zipIdx.foldl (fun acc e => if e.1.testBit j then acc ^^ f.getLsbD e.2 else acc) false

theorem dataParity_eq (f : NoticeField) (j : Nat) : dataParity f j = codedParity codeValues f j := rfl

theorem codedParity_concat (l : List Nat) (v : Nat) (f : NoticeField) (j : Nat) :
    codedParity (l ++ [v]) f j = (codedParity l f j ^^ (v.testBit j && f.getLsbD l.length)) := by
  unfold codedParity
  rw [List.zipIdx_append, List.foldl_append]
  cases h : v.testBit j <;> simp [h]

/-- An inverted bit moves the parities that its own entry names; a bit past the list moves none. -/
theorem codedParity_flipBit (l : List Nat) (f : NoticeField) {i : Nat} (hi : i < 128) (j : Nat) :
    codedParity l (flipBit f i) j = (codedParity l f j ^^ (l.getD i 0).testBit j) := by
  induction l using List.reverseRecOn with
  | nil => simp [codedParity]
  | append_singleton l v ih =>
    rw [codedParity_concat, codedParity_concat, ih, getLsbD_flipBit f hi]
    rcases lt_trichotomy i l.length with h | rfl | h
    · rw [decide_eq_false h.ne', Bool.xor_false, List.getD_append _ _ _ _ h, Bool.xor_right_comm]
    · rw [decide_eq_true rfl, Bool.and_xor_distrib_left, Bool.and_true, List.getD_append_right _ _ _ _ le_rfl,
        List.getD_eq_default _ _ le_rfl, Nat.sub_self, List.getD_cons_zero, Nat.zero_testBit, Bool.xor_false, Bool.xor_assoc]
    · rw [decide_eq_false h.ne, Bool.xor_false, List.getD_eq_default _ _ h.le, List.getD_eq_default _ _ (by simpa using h),
        Nat.zero_testBit, Bool.xor_false, Bool.xor_false]

/-- The number whose bits below `n` are given. -/
def bitsBelow (b : Nat → Bool) (n : Nat) : Nat := (List.range n).foldl (fun acc j => acc + if b j then 2 ^ j else 0) 0

theorem bitsBelow_succ (b : Nat → Bool) (n : Nat) : bitsBelow b (n + 1) = bitsBelow b n + if b n then 2 ^ n else 0 := by
  unfold bitsBelow
  rw [List.range_succ, List.foldl_append]
  rfl

theorem bitsBelow_lt (b : Nat → Bool) (n : Nat) : bitsBelow b n < 2 ^ n := by
  induction n with
  | zero => exact Nat.one_pos
  | succ n ih =>
    rw [bitsBelow_succ, pow_succ]
    split <;> omega

theorem testBit_bitsBelow (b : Nat → Bool) {n j : Nat} (hj : j < n) : (bitsBelow b n).testBit j = b j := by
  induction n with
  | zero => omega
  | succ n ih =>
    have hclear : (bitsBelow b n).testBit n = false := Nat.testBit_lt_two_pow (bitsBelow_lt b n)
    rw [bitsBelow_succ]
    rcases Nat.lt_succ_iff_lt_or_eq.mp hj with h | rfl
    · rw [← ih h]
      split
      · rw [Nat.add_comm, Nat.testBit_two_pow_add_gt h]
      · rfl
    · cases hb : b j with
      | true => rw [if_pos rfl, Nat.add_comm, Nat.testBit_two_pow_add_eq, hclear]; rfl
      | false => exact hclear

theorem syndrome_eq (f : NoticeField) : syndrome f = bitsBelow (fun j => f.getLsbD (120 + j) ^^ dataParity f j) 7 := rfl

theorem syndrome_lt (f : NoticeField) : syndrome f < 2 ^ 7 := syndrome_eq f ▸ bitsBelow_lt _ 7

theorem testBit_syndrome (f : NoticeField) {j : Nat} (hj : j < 7) :
    (syndrome f).testBit j = (f.getLsbD (120 + j) ^^ dataParity f j) :=
  syndrome_eq f ▸ testBit_bitsBelow _ hj

/-! ### The code of a bit -/

/-- What an inverted bit moves of the syndrome: a data bit its code value, check bit cj the bit j, c7 nothing
(`syndrome_flipBit`). -/
def bitCode (i : Nat) : Nat := if i < 120 then codeValues.getD i 0 else if i < 127 then 2 ^ (i - 120) else 0

theorem bitCode_data {i : Nat} (hi : i < 120) : bitCode i = codeValues.getD i 0 := if_pos hi

theorem bitCode_check {k : Nat} (hk : k < 7) : bitCode (120 + k) = 2 ^ k := by
  unfold bitCode
  rw [if_neg (by omega), if_pos (by omega), Nat.add_sub_cancel_left]

theorem bitCode_last : bitCode 127 = 0 := rfl

/-- The bits of a field, as R185 tells them apart: data bits, check bits c0 to c6, and c7. -/
theorem bit_cases {i : Nat} (hi : i < 128) : i < 120 ∨ (∃ k, k < 7 ∧ i = 120 + k) ∨ i = 127 := by
  rcases lt_or_ge i 120 with h | h
  · exact .inl h
  · rcases eq_or_ne i 127 with h7 | h7
    · exact .inr (.inr h7)
    · exact .inr (.inl ⟨i - 120, by omega, by omega⟩)

theorem codeValues_getD_of_le {i : Nat} (hi : 120 ≤ i) : codeValues.getD i 0 = 0 :=
  List.getD_eq_default _ _ (codeValues_length.trans_le hi)

/-- A code value is a number of 3 to 127, and no power of two (R185). -/
theorem codeValues_mem {v : Nat} (hv : v ∈ codeValues) : v < 2 ^ 7 ∧ 3 ≤ v ∧ ∀ j, j < 7 → 2 ^ j ≠ v := by
  simp only [codeValues, List.mem_filter, List.mem_range, Bool.and_eq_true, decide_eq_true_eq, Bool.not_eq_true',
    List.contains_eq_mem, decide_eq_false_iff_not] at hv
  obtain ⟨hlt, hge, hpow⟩ := hv
  refine ⟨hlt, hge, fun j hj heq => ?_⟩
  subst heq
  interval_cases j <;> simp at hge hpow

theorem codeValues_nodup : codeValues.Nodup := List.nodup_range.filter _

theorem codeValues_getD_mem {i : Nat} (hi : i < 120) : codeValues.getD i 0 ∈ codeValues := by
  have hlen : i < codeValues.length := codeValues_length.symm ▸ hi
  rw [List.getD_eq_getElem _ _ hlen]
  exact List.getElem_mem hlen

theorem bitCode_lt {i : Nat} (hi : i < 128) : bitCode i < 2 ^ 7 := by
  rcases bit_cases hi with h | ⟨k, hk, rfl⟩ | rfl
  · exact bitCode_data h ▸ (codeValues_mem (codeValues_getD_mem h)).1
  · exact bitCode_check hk ▸ Nat.pow_lt_pow_right (by omega) hk
  · exact bitCode_last ▸ Nat.two_pow_pos 7

/-- Bit j of a bit's code says whether the bit is check bit cj or a data bit that cj covers (R185). -/
theorem testBit_bitCode {i : Nat} (hi : i < 128) {j : Nat} (hj : j < 7) :
    (bitCode i).testBit j = (decide (120 + j = i) ^^ (codeValues.getD i 0).testBit j) := by
  rcases bit_cases hi with h | ⟨k, hk, rfl⟩ | rfl
  · rw [bitCode_data h, decide_eq_false (by omega), Bool.false_xor]
  · rw [bitCode_check hk, Nat.testBit_two_pow, codeValues_getD_of_le (by omega), Nat.zero_testBit, Bool.xor_false]
    exact decide_eq_decide.mpr (by omega)
  · rw [bitCode_last, codeValues_getD_of_le (by omega), decide_eq_false (by omega), Nat.zero_testBit]
    rfl

/-- An inverted bit moves the syndrome by its code. -/
theorem syndrome_flipBit (f : NoticeField) {i : Nat} (hi : i < 128) : syndrome (flipBit f i) = syndrome f ^^^ bitCode i := by
  refine Nat.eq_of_testBit_eq (fun j => ?_)
  rcases lt_or_ge j 7 with hj | hj
  · rw [Nat.testBit_xor, testBit_syndrome _ hj, testBit_syndrome _ hj, testBit_bitCode hi hj, getLsbD_flipBit f hi,
      dataParity_eq, dataParity_eq, codedParity_flipBit _ f hi, Bool.xor_assoc, Bool.xor_assoc, Bool.xor_left_comm (decide _)]
  · have hhigh : ∀ {n : Nat}, n < 2 ^ 7 → n.testBit j = false := fun hn =>
      Nat.testBit_lt_two_pow (hn.trans_le (Nat.pow_le_pow_right (by omega) hj))
    rw [hhigh (syndrome_lt _), hhigh (Nat.xor_lt_two_pow (syndrome_lt f) (bitCode_lt hi))]

/-! ### The table of R185 -/

/-- The bit that a syndrome names in a field of odd parity (R185's table). -/
def wrongBit (n : Nat) : Option Nat :=
  if n = 0 then some 127
  else
    match (List.range 7).find? (fun j => 2 ^ j == n) with
    | some j => some (120 + j)
    | none => codeValues.idxOf? n

/-- In a field of odd parity the bit that the syndrome names, if any, is corrected. -/
theorem checkField_odd {f : NoticeField} (hparity : parityBelow f 128 = true) :
    checkField f = (wrongBit (syndrome f)).elim (.uncorrectable, f) (fun i => (.corrected, flipBit f i)) := by
  unfold checkField wrongBit
  dsimp only
  rw [if_pos hparity]
  split
  · rfl
  · cases (List.range 7).find? (fun j => 2 ^ j == syndrome f) with
    | some j => rfl
    | none => cases codeValues.idxOf? (syndrome f) <;> rfl

theorem checkField_even {f : NoticeField} (hparity : parityBelow f 128 = false) :
    checkField f = if syndrome f = 0 then (.clean, f) else (.uncorrectable, f) := by
  unfold checkField
  simp only [hparity, Bool.false_eq_true, if_false]

/-- A CLEAN field is of even parity and has syndrome 0. -/
theorem checkField_clean {f : NoticeField} (h : (checkField f).1 = .clean) : parityBelow f 128 = false ∧ syndrome f = 0 := by
  cases hparity : parityBelow f 128 with
  | true =>
    rw [checkField_odd hparity] at h
    cases hbit : wrongBit (syndrome f) <;> rw [hbit] at h <;> cases h
  | false =>
    rw [checkField_even hparity] at h
    split at h
    · next hzero => exact ⟨rfl, hzero⟩
    · cases h

/-- The table names a bit by its code. -/
theorem wrongBit_bitCode {i : Nat} (hi : i < 128) : wrongBit (bitCode i) = some i := by
  unfold wrongBit
  rcases bit_cases hi with h | ⟨k, hk, rfl⟩ | rfl
  · obtain ⟨-, hge, hpow⟩ := codeValues_mem (codeValues_getD_mem h)
    have hnone : (List.range 7).find? (fun j => 2 ^ j == codeValues.getD i 0) = none :=
      List.find?_range_eq_none.mpr (fun j hj => by simpa using hpow j hj)
    rw [bitCode_data h, if_neg (by omega), hnone]
    have hlen : i < codeValues.length := codeValues_length.symm ▸ h
    rw [List.getD_eq_getElem _ _ hlen]
    refine List.idxOf?_eq_some_iff.mpr ⟨hlen, rfl, fun j hj heq => ?_⟩
    exact hj.ne (codeValues_nodup.getElem_inj_iff.mp heq)
  · have hsome : (List.range 7).find? (fun j => 2 ^ j == 2 ^ k) = some k := by
      refine List.find?_range_eq_some.mpr ⟨by simp, List.mem_range.mpr hk, fun j hj => ?_⟩
      simpa using hj.ne
    rw [bitCode_check hk, if_neg (Nat.two_pow_pos k).ne', hsome]
  · rfl

theorem bitCode_injective {i j : Nat} (hi : i < 128) (hj : j < 128) (h : bitCode i = bitCode j) : i = j :=
  Option.some_inj.mp ((wrongBit_bitCode hi).symm.trans (h ▸ wrongBit_bitCode hj))

/-- Settles O25: one wrong bit makes the parity odd and its code the syndrome (`wrongBit_bitCode`); two leave the parity even
and a syndrome other than 0 (`bitCode_injective`). -/
theorem checkCodeCorrectsOneDetectsTwo : Obligations.CheckCodeCorrectsOneDetectsTwo := by
  intro g hclean i hi
  obtain ⟨heven, hzero⟩ := checkField_clean hclean
  have hodd : parityBelow (flipBit g i) 128 = true := by
    rw [parityBelow_flipBit g hi, heven, decide_eq_true hi]
    rfl
  have hcode : syndrome (flipBit g i) = bitCode i := by rw [syndrome_flipBit g hi, hzero, Nat.zero_xor]
  refine ⟨?_, fun j hj hne => ?_⟩
  · rw [checkField_odd hodd, hcode, wrongBit_bitCode hi, Option.elim_some, flipBit_flipBit]
  · have heven2 : parityBelow (flipBit (flipBit g i) j) 128 = false := by
      rw [parityBelow_flipBit _ hj, hodd, decide_eq_true hj]
      rfl
    have hnonzero : syndrome (flipBit (flipBit g i) j) ≠ 0 := by
      rw [syndrome_flipBit _ hj, hcode]
      exact fun h => hne (bitCode_injective hi hj (Nat.xor_eq_zero_iff.mp h)).symm
    rw [checkField_even heven2, if_neg hnonzero]

end Sys2Proof.Machine
end

section
/-! PROOF. Every step keeps every sparse table in canonical form (O5; log 22): the tables a derivation builds, what writes each table,
chains of directives, and the statement. -/

namespace Sys2Proof.Machine

/-! ### Tables written entry by entry -/

/-- A table written by steps that each keep the canonical form is in canonical form. -/
theorem tableWf_foldl {α β : Type} [DecidableEq α] {d : α} {f : Table α → β → Table α}
    (hf : ∀ t b, tableWf d t = true → tableWf d (f t b) = true) (l : List β) {t : Table α} (h : tableWf d t = true) :
    tableWf d (l.foldl f t) = true :=
  List.foldlRecOn l f h (fun t ht b _ => hf t b ht)

/-- A table with one value that is not the default at each of some rising keys is in canonical form. -/
theorem tableWf_map_keys {α : Type} [DecidableEq α] {d v : α} (hv : v ≠ d) {l : List Nat} (hl : l.Pairwise (· < ·)) :
    tableWf d (l.map (fun k => (k, v))) = true := by
  induction hl with
  | nil => rfl
  | cons hk _ ih => exact (tableWf_cons _ _ _).mpr ⟨hv, by simpa using hk, ih⟩

theorem tableWf_fillOccupancy (v : Occupant) (keys : List Nat) {o : Table Occupant} (h : tableWf .none o = true) :
    tableWf .none (fillOccupancy v keys o) = true :=
  tableWf_foldl (fun _ k => tableWf_put k v) keys h

/-- An install replaces restoration states of records, and makes no record ABSENT (R106). -/
theorem tableWf_installRecords (outcomes : List Outcome) {t : Table CircuitRecord} (h : tableWf .absent t = true) :
    tableWf .absent (installRecords outcomes t) = true := by
  refine tableWf_map _ (fun e => ?_) (fun e he => ?_) h
  · split <;> rfl
  · split
    · exact CircuitRecord.noConfusion
    · exact he

/-- Tag checks replaced make no record ABSENT (R136 to R139). -/
theorem tableWf_mapChecks (g : Nat → Attachment → TagCheck → TagCheck) {t : Table CircuitRecord} (h : tableWf .absent t = true) :
    tableWf .absent (mapChecks g t) = true := by
  refine tableWf_map _ (fun e => ?_) (fun e he => ?_) h
  · split <;> rfl
  · split
    · exact CircuitRecord.noConfusion
    · exact he

/-- RESTART makes no record ABSENT (R24). -/
theorem tableWf_restarted {t : Table CircuitRecord} (h : tableWf .absent t = true) :
    tableWf .absent (t.map (fun e => (e.1, e.2.restarted))) = true := by
  refine tableWf_map _ (fun _ => rfl) (fun e he => ?_) h
  unfold CircuitRecord.restarted
  dsimp only
  split
  · exact CircuitRecord.noConfusion
  · exact he

/-- A plan made STALE is still an entry of the table (R113). -/
theorem staled_ne_absent {p : Plan} (h : p ≠ .absent) : p.staled ≠ .absent := by
  rcases staled_eq p with e | e <;> rw [e]
  · exact h
  · exact Plan.noConfusion

/-! ### The target (R129 to R132) -/

theorem tableWf_transparentMap : tableWf .fill transparentMap = true := by decide +kernel

theorem tableWf_connectCircuit (n p : Nat) (o : Orientation) (active : Bool) (m : Table Connection) (e : Nat × CircuitRecord)
    (h : tableWf .fill m = true) : tableWf .fill (connectCircuit n p o active m e) = true := by
  have hend : ∀ q r a l, tableWf .fill (List.foldl (connectEnd e.1 q r a) m l) = true := fun _ _ _ l =>
    tableWf_foldl (fun _ _ hm => tableWf_put _ _ (tableWf_put _ _ hm)) l h
  have hthrough : ∀ l, tableWf .fill (List.foldl (connectThrough e.1 o) m l) = true := fun l =>
    tableWf_foldl (fun _ _ hm => tableWf_put _ _ (tableWf_put _ _ hm)) l h
  unfold connectCircuit
  split
  · split
    · exact h
    · split
      · exact hend _ _ _ _
      · exact hend _ _ _ _
      · exact hthrough _
      · exact h
  · exact h

theorem tableWf_targetOf (s : State) : tableWf .fill (targetOf s) = true := by
  unfold targetOf
  split
  · exact tableWf_foldl (tableWf_connectCircuit _ _ _ _) _ rfl
  · exact tableWf_transparentMap

/-! ### The tables of a state -/

/-- The tables of the Circuit Table block are in canonical form. -/
structure CircuitTable.Canonical (t : CircuitTable) : Prop where
  ring : tableWf 0 t.ring = true
  circuits : tableWf .absent t.circuits = true
  occupancy : tableWf .none t.occupancy = true

/-- The Connection Map and a pending target are in canonical form. -/
structure SlotSwitch.Canonical (w : SlotSwitch) : Prop where
  connections : tableWf .fill w.connections = true
  target : tableWf .fill (w.target.getD []) = true

/-- The tables of the part are in canonical form, block by block. -/
structure State.Canonical (s : State) : Prop where
  table : s.table.Canonical
  records : tableWf .never s.notices.records = true
  plans : tableWf .absent s.plans = true
  switch : s.switch.Canonical
  counters : tableWf 0 s.counters = true
  snapshot : tableWf 0 s.reports.snapshot = true

theorem tablesWf_iff (s : State) : s.tablesWf = true ↔ s.Canonical := by
  unfold State.tablesWf
  simp only [Bool.and_eq_true]
  constructor
  · rintro ⟨⟨⟨⟨⟨⟨⟨⟨hring, hcircuits⟩, hoccupancy⟩, hrecords⟩, hplans⟩, hconnections⟩, htarget⟩, hcounters⟩, hsnapshot⟩
    exact ⟨⟨hring, hcircuits, hoccupancy⟩, hrecords, hplans, ⟨hconnections, htarget⟩, hcounters, hsnapshot⟩
  · rintro ⟨⟨hring, hcircuits, hoccupancy⟩, hrecords, hplans, ⟨hconnections, htarget⟩, hcounters, hsnapshot⟩
    exact ⟨⟨⟨⟨⟨⟨⟨⟨hring, hcircuits⟩, hoccupancy⟩, hrecords⟩, hplans⟩, hconnections⟩, htarget⟩, hcounters⟩, hsnapshot⟩

/-! ### Counters, reports, the Notice Unit, the Slot Switch -/

theorem canonical_bump {n : Nat} {s : State} (h : s.Canonical) : (bump n s).Canonical :=
  { h with counters := tableWf_put _ _ h.counters }

theorem canonical_raise {x : Subject} {s : State} (h : s.Canonical) : (raise x s).Canonical := by
  unfold raise
  split
  · exact { h with }
  · exact h

theorem canonical_raiseAll {xs : List Subject} {s : State} (h : s.Canonical) : (raiseAll xs s).Canonical := by
  induction xs generalizing s with
  | nil => exact h
  | cons x xs ih => exact ih (canonical_raise h)

theorem canonical_originate {s : State} (h : s.Canonical) : (originate s).Canonical := by
  unfold originate
  split
  · exact { h with }
  · exact h

theorem canonical_evaluateConvergence {s : State} (h : s.Canonical) : (evaluateConvergence s).Canonical := by
  unfold evaluateConvergence
  dsimp only
  split
  · exact h
  · exact canonical_raise { h with }

theorem canonical_refreshDigest {s : State} (h : s.Canonical) : (refreshDigest s).Canonical := by
  unfold refreshDigest
  dsimp only
  split
  · exact h
  · exact canonical_evaluateConvergence (canonical_originate { h with table := { h.table with } })

/-- A target derived is in canonical form, whatever the tables it is derived from (R128). -/
theorem canonical_deriveTarget {s : State} (h : s.Canonical) : (deriveTarget s).Canonical :=
  { h with switch := { h.switch with target := tableWf_targetOf s } }

/-! ### The Restoration Engine and the Plan Store -/

theorem canonical_install {r : PassResult} {s : State} (h : s.Canonical) : (install r s).Canonical :=
  canonical_raise (canonical_raiseAll (canonical_deriveTarget
    { h with table := { h.table with circuits := tableWf_installRecords _ h.table.circuits } }))

theorem canonical_setEngine {e : EngineState} {s : State} (h : s.Canonical) : (setEngine e s).Canonical := { h with }

theorem canonical_setPlan {k : Nat} {v : Plan} {s : State} (h : s.Canonical) : (s.setPlan k v).Canonical :=
  { h with plans := tableWf_put k v h.plans }

theorem canonical_reach {expiry : Nat} {s : State} (h : s.Canonical) : (s.reach expiry).Canonical := { h with }

theorem canonical_abandonBuild {s : State} (h : s.Canonical) : (abandonBuild s).Canonical := by
  unfold abandonBuild
  split
  · exact canonical_setEngine (canonical_setPlan h)
  · exact h

theorem canonical_restartPass {s : State} (h : s.Canonical) : (restartPass s).Canonical :=
  canonical_setEngine (canonical_bump h)

theorem canonical_answerMapChange {s : State} (h : s.Canonical) : (answerMapChange s).Canonical := by
  rcases answerMapChange_cases s with ⟨r, _, e⟩ | ⟨_, e⟩ <;> rw [e]
  · exact canonical_bump (canonical_install h)
  · exact canonical_setEngine h

theorem canonical_mapChange {s : State} (h : s.Canonical) : (mapChange s).Canonical := by
  unfold mapChange
  split
  · split
    · exact canonical_answerMapChange h
    · exact canonical_answerMapChange (canonical_abandonBuild h)
    · exact h
    · exact canonical_restartPass h
  · exact canonical_abandonBuild h
  · exact h

theorem canonical_generationChange {s : State} (h : s.Canonical) : (generationChange s).Canonical := by
  unfold generationChange
  split
  · split
    · split
      · exact h
      · exact canonical_setEngine h
    · split
      · exact h
      · exact canonical_setEngine (canonical_abandonBuild h)
    · exact h
    · exact canonical_restartPass h
  · exact h

theorem canonical_endWork {s : State} (h : s.Canonical) : (endWork s).Canonical := by
  unfold endWork
  split
  · exact h
  · exact canonical_setEngine h
  · exact canonical_setEngine (canonical_bump h)
  · exact canonical_abandonBuild h

theorem canonical_stalePlans {s : State} (h : s.Canonical) : (stalePlans s).Canonical := by
  refine { h with plans := tableWf_map _ (fun e => ?_) (fun e he => ?_) h.plans }
  · split <;> rfl
  · split
    · exact staled_ne_absent he
    · exact he

theorem canonical_plansOfRing {s : State} (h : s.Canonical) : (plansOfRing s).Canonical :=
  { h with plans := tableWf_map_keys Plan.noConfusion List.pairwise_lt_range }

theorem canonical_gatherExpiry {s : State} (h : s.Canonical) : (gatherExpiry s).Canonical := by
  unfold gatherExpiry
  split
  · exact canonical_setEngine (canonical_reach h)
  · exact h

theorem canonical_passCompletion {s : State} (h : s.Canonical) : (passCompletion s).Canonical := by
  unfold passCompletion
  split
  · exact canonical_setEngine (canonical_bump (canonical_install h))
  · exact h

theorem canonical_buildStart {s : State} (h : s.Canonical) : (buildStart s).Canonical := by
  unfold buildStart
  split
  · exact canonical_setEngine (canonical_setPlan h)
  · exact h

theorem canonical_buildEnd {s : State} (h : s.Canonical) : (buildEnd s).Canonical := by
  unfold buildEnd
  split
  · dsimp only
    split
    · exact canonical_raise (canonical_setEngine (canonical_setPlan h))
    · exact canonical_setEngine (canonical_setPlan h)
  · exact h

/-! ### The Failure Map and the notices -/

theorem canonical_writeMap {m : FailureMap} {s : State} (h : s.Canonical) : (writeMap m s).Canonical :=
  canonical_raiseAll { h with }

theorem canonical_deliverMapChange {m : FailureMap} {s : State} (h : s.Canonical) : (deliverMapChange m s).Canonical := by
  unfold deliverMapChange
  split
  · exact h
  · exact canonical_mapChange h

theorem canonical_viewsDelivered {side : Side} {views : Quad View} {s : State} (h : s.Canonical) :
    (viewsDelivered side views s).Canonical := by
  unfold viewsDelivered
  dsimp only
  split
  · exact { h with }
  · exact canonical_deliverMapChange (canonical_originate (canonical_writeMap h))

theorem canonical_setRequest {p : Nat} {side : Side} {r : OperatorRequest} {s : State} (h : s.Canonical) :
    (setRequest p side r s).Canonical := by
  unfold setRequest
  dsimp only
  refine canonical_deliverMapChange ?_
  split
  · exact canonical_writeMap h
  · exact canonical_originate (canonical_writeMap h)

theorem canonical_orientationChanged {s : State} (h : s.Canonical) : (orientationChanged s).Canonical := by
  unfold orientationChanged
  dsimp only
  split
  · exact canonical_deliverMapChange (canonical_writeMap h)
  · refine canonical_deliverMapChange ?_
    split
    · exact canonical_writeMap h
    · exact canonical_originate (canonical_writeMap h)

theorem canonical_setRecord {q : Nat} {r : NoticeRecord} {s : State} (h : s.Canonical) : (s.setRecord q r).Canonical :=
  { h with records := tableWf_put q r h.records }

theorem canonical_clearNotices {s : State} (h : s.Canonical) : (clearNotices s).Canonical :=
  { h with records := rfl }

theorem canonical_applyNotice {p : Side} {v : Notice} {s : State} (h : s.Canonical) : (applyNotice p v s).Canonical :=
  canonical_evaluateConvergence (canonical_writeMap (canonical_setRecord h))

theorem canonical_forward {p : Side} {v : Notice} {s : State} (h : s.Canonical) : (forward p v s).Canonical := by
  unfold forward
  split
  · exact { h with }
  · exact h

theorem canonical_handleNotice {p : Side} {v : Notice} {s : State} (h : s.Canonical) : (handleNotice p v s).Canonical := by
  unfold handleNotice
  repeat' split
  · exact h
  · exact canonical_forward h
  · exact canonical_forward (canonical_raise (canonical_bump h))
  · exact canonical_deliverMapChange (canonical_forward (canonical_applyNotice h))
  · exact canonical_forward h

theorem canonical_takeNotice {s : State} (h : s.Canonical) : (takeNotice s).Canonical := by
  unfold takeNotice
  split
  · exact h
  · rename_i p chosen _
    have htaken : (takeLatch p chosen s).Canonical := { h with }
    split
    · exact h
    · rename_i cls _ _
      cases cls with
      | clean => exact canonical_handleNotice htaken
      | corrected => exact canonical_handleNotice htaken
      | uncorrectable => exact htaken
      | unknownKind => exact htaken

theorem canonical_stalenessExpiry {q : Nat} {s : State} (h : s.Canonical) : (stalenessExpiry q s).Canonical := by
  unfold stalenessExpiry
  split
  · exact canonical_deliverMapChange (canonical_evaluateConvergence (canonical_writeMap (canonical_setRecord (canonical_reach h))))
  · exact h

theorem canonical_refreshExpiry {s : State} (h : s.Canonical) : (refreshExpiry s).Canonical := by
  unfold refreshExpiry
  split
  · exact canonical_originate { h with }
  · exact h

/-! ### Management frames: the counters of R174 and R181 are all they write of the tables -/

theorem canonical_offerFrame {q : MgmtPort} {f : Frame} {s : State} (h : s.Canonical) : (offerFrame q f s).Canonical := by
  rcases offerFrame_cases q f s with ⟨_, e⟩ | ⟨_, e⟩ <;> rw [e]
  · exact { h with }
  · exact canonical_bump h

theorem canonical_sendFrame {f : Frame} {s : State} (h : s.Canonical) : (sendFrame f s).Canonical := by
  unfold sendFrame
  split
  · exact canonical_offerFrame h
  · exact h

theorem canonical_offerRequest {f : Frame} {s : State} (h : s.Canonical) : (offerRequest f s).Canonical := by
  unfold offerRequest
  split
  · exact { h with }
  · exact canonical_bump (canonical_sendFrame h)

theorem canonical_receiveFrame {q : MgmtPort} {f : Frame} {s : State} (h : s.Canonical) : (receiveFrame q f s).Canonical := by
  cases q with
  | line p =>
    show (receiveFromLine p f s).Canonical
    unfold receiveFromLine forwardFrame
    repeat' split
    · exact canonical_offerFrame h
    · exact canonical_bump h
    · exact canonical_offerRequest h
    · exact canonical_offerFrame h
    · exact canonical_bump h
  | tributary =>
    show (receiveFromTributary f s).Canonical
    unfold receiveFromTributary injectRequest
    repeat' split
    · exact h
    · exact canonical_offerRequest h
    · exact canonical_offerFrame h
    · exact canonical_sendFrame h

theorem canonical_frameTaken {q : MgmtPort} {bytes : List Byte} {s : State} (h : s.Canonical) :
    (frameTaken q bytes s).Canonical := by
  unfold frameTaken
  split
  · exact canonical_receiveFrame h
  · exact canonical_bump h

theorem canonical_setAssembler {q : MgmtPort} {v : Assembler} {s : State} (h : s.Canonical) : (setAssembler q v s).Canonical :=
  { h with }

theorem canonical_assembleByte {q : MgmtPort} {b : Byte} {s : State} (h : s.Canonical) : (assembleByte q s b).Canonical := by
  unfold assembleByte
  dsimp only
  repeat' split
  · exact h
  · exact canonical_setAssembler h
  · exact canonical_setAssembler h
  · exact canonical_setAssembler h
  · exact canonical_bump (canonical_setAssembler h)
  · exact canonical_setAssembler h
  · exact canonical_frameTaken (canonical_setAssembler h)

theorem canonical_assembleField {q : MgmtPort} {bytes : List Byte} {s : State} (h : s.Canonical) :
    (assembleField q bytes s).Canonical := by
  induction bytes generalizing s with
  | nil => exact h
  | cons b bytes ih => exact ih (canonical_assembleByte h)

theorem canonical_breakStream {q : MgmtPort} {s : State} (h : s.Canonical) : (breakStream q s).Canonical := by
  rw [breakStream_eq]
  split
  · exact h
  · exact canonical_bump (canonical_setAssembler h)

/-! ### Line ports and tributary ports -/

theorem canonical_setSupervisor {p : Side} {b : Nat} {v : Supervisor} {s : State} (h : s.Canonical) :
    (setSupervisor p b v s).Canonical := by
  unfold setSupervisor
  dsimp only
  split
  · exact { h with }
  · exact canonical_viewsDelivered (canonical_raise { h with })

theorem canonical_alignmentChanged {p : Side} {b : Nat} {before : Alignment} {s : State} (h : s.Canonical) :
    (alignmentChanged p b before s).Canonical := by
  unfold alignmentChanged enterLost
  dsimp only
  repeat' split
  · exact canonical_setSupervisor h
  · exact canonical_setSupervisor h
  · exact canonical_setSupervisor h
  · exact h

theorem canonical_intervalFrame {p : Side} {b : Nat} {errored : Bool} {s : State} (h : s.Canonical) :
    (intervalFrame p b errored s).Canonical := by
  unfold intervalFrame
  dsimp only
  repeat' split
  · exact canonical_setSupervisor h
  · exact canonical_setSupervisor h
  · exact canonical_setSupervisor h

theorem canonical_setStreaming {p : Side} {on : Bool} {s : State} (h : s.Canonical) : (setStreaming p on s).Canonical := by
  unfold setStreaming
  split
  · exact h
  · exact canonical_breakStream { h with }

theorem canonical_readNotice {p : Side} {f : NoticeField} {s : State} (h : s.Canonical) : (readNotice p f s).Canonical := by
  unfold readNotice
  split
  · exact h
  · exact canonical_bump { h with }

theorem canonical_portOverhead {p : Side} {b : Nat} {f : BandFrame} {s : State} (h : s.Canonical) :
    (portOverhead p b f s).Canonical := by
  unfold portOverhead
  repeat' split
  · exact canonical_assembleField (canonical_setStreaming (canonical_readNotice h))
  · exact h
  · exact canonical_setStreaming h
  · exact h

/-- A receiver counts its alignment losses and errored frames (R25, R26). -/
theorem canonical_receiveBand {p : Side} {b : Nat} {f : BandFrame} {s : State} (h : s.Canonical) :
    (receiveBand p b f s).Canonical := by
  unfold receiveBand
  dsimp only
  have hband : ∀ v, (s.setBand p b v).Canonical := fun _ => { h with }
  repeat' split
  · exact canonical_bump (canonical_bump (hband _))
  · exact canonical_bump (hband _)
  · exact canonical_bump (hband _)
  · exact hband _

theorem canonical_bandFrame {p : Side} {b : Nat} {f : BandFrame} {s : State} (h : s.Canonical) :
    (bandFrame p b f s).Canonical :=
  canonical_intervalFrame (canonical_portOverhead (canonical_alignmentChanged (canonical_receiveBand h)))

theorem canonical_holdOffExpiry {p : Side} {b : Nat} {s : State} (h : s.Canonical) : (holdOffExpiry p b s).Canonical := by
  unfold holdOffExpiry
  dsimp only
  split
  · exact h
  · exact canonical_setSupervisor (canonical_reach h)

theorem canonical_returnTimerExpiry {p : Side} {b : Nat} {s : State} (h : s.Canonical) :
    (returnTimerExpiry p b s).Canonical := by
  unfold returnTimerExpiry
  dsimp only
  split
  · exact h
  · exact canonical_setSupervisor (canonical_reach h)

theorem canonical_clearAllDegrade {s : State} (h : s.Canonical) : (clearAllDegrade s).Canonical := by
  unfold clearAllDegrade
  generalize allBandsOfPorts = l
  induction l generalizing s with
  | nil => exact h
  | cons e l ih =>
    refine ih ?_
    unfold clearDegrade
    dsimp only
    split
    · exact canonical_setSupervisor h
    · exact h

theorem canonical_tributaryFrame {n : Nat} {f : TributaryFrame} {s : State} (h : s.Canonical) :
    (tributaryFrame n f s).Canonical := by
  have hreceived : (receiveTributary n f s).Canonical := { h with }
  unfold tributaryFrame tributaryOverhead
  dsimp only
  repeat' split
  · exact canonical_assembleField hreceived
  · exact canonical_assembleField (canonical_breakStream hreceived)
  · exact hreceived
  · exact canonical_breakStream hreceived
  · exact hreceived

/-! ### The tag checks and the swing -/

/-- The swing makes the pending target the Connection Map, whole (R134). -/
theorem canonical_swing {s : State} (h : s.Canonical) : (swing s).Canonical := by
  unfold swing
  split
  · exact h
  · rename_i m hm
    have htarget := h.switch.target
    rw [hm] at htarget
    exact canonical_bump { h with
      table := { h.table with circuits := tableWf_mapChecks _ h.table.circuits }
      switch := ⟨htarget, rfl⟩ }

theorem canonical_frameBoundary {s : State} (h : s.Canonical) : (frameBoundary s).Canonical := by
  have hcounted : (countFrames s).Canonical :=
    canonical_raiseAll { h with table := { h.table with circuits := tableWf_mapChecks _ h.table.circuits } }
  have hswung := canonical_swing hcounted
  exact { hswung with table := { hswung.table with circuits := tableWf_mapChecks _ hswung.table.circuits } }

theorem canonical_setCircuit {c : Nat} {r : CircuitRecord} {s : State} (h : s.Canonical) : (s.setCircuit c r).Canonical :=
  { h with table := { h.table with circuits := tableWf_put c r h.table.circuits } }

theorem canonical_tagStateChange {c : Nat} {s : State} (h : s.Canonical) : (tagStateChange c s).Canonical := by
  unfold tagStateChange
  dsimp only
  repeat' split
  · exact h
  · exact canonical_raise (canonical_setCircuit h)
  · exact h

/-! ### The node state and RESTART -/

theorem canonical_enterStarting {s : State} (h : s.Canonical) : (enterStarting s).Canonical :=
  canonical_raise (canonical_deriveTarget (canonical_evaluateConvergence (canonical_originate { h with })))

theorem canonical_enterUnplaced {s : State} (h : s.Canonical) : (enterUnplaced s).Canonical :=
  canonical_raise (canonical_deriveTarget (canonical_evaluateConvergence { h with }))

theorem canonical_listenExpiry {s : State} (h : s.Canonical) : (listenExpiry s).Canonical := by
  unfold listenExpiry engineEntersActive
  split
  · rename_i expiry _
    have hentered : (evaluateConvergence (originate (setNodeState .active (s.reach expiry)))).Canonical :=
      canonical_evaluateConvergence (canonical_originate { h with })
    refine canonical_raise (canonical_deriveTarget ?_)
    split
    · exact hentered
    · exact canonical_mapChange hentered
  · exact h

theorem canonical_nodeAfterRing {s : State} (h : s.Canonical) : (nodeAfterRing s).Canonical := by
  unfold nodeAfterRing
  repeat' split
  · exact canonical_enterStarting h
  · exact canonical_enterUnplaced h
  · exact h

theorem canonical_evaluateRing {before : Table Byte} {s : State} (h : s.Canonical) : (evaluateRing before s).Canonical := by
  have hended := canonical_endWork h
  have hcounted : (countRingChange (endWork s)).Canonical := { hended with table := { hended.table with } }
  have hrebuilt : (rebuildMap (clearNotices (plansOfRing (countRingChange (endWork s))))).Canonical :=
    canonical_writeMap (canonical_clearNotices (canonical_plansOfRing hcounted))
  unfold evaluateRing
  split
  · exact h
  · refine canonical_nodeAfterRing ?_
    split
    · exact hrebuilt
    · exact canonical_originate hrebuilt

theorem canonical_restart {s : State} (h : s.Canonical) : (restart s).Canonical := by
  have hended := canonical_endWork h
  have hengine : (restartEngine s).Canonical := { hended with }
  have hcircuits : (restartCircuits (restartEngine s)).Canonical :=
    canonical_raiseAll { hengine with table := { hengine.table with circuits := tableWf_restarted hengine.table.circuits } }
  have hcleared := canonical_clearNotices (canonical_stalePlans hcircuits)
  have hnotices : (restartNotices (stalePlans (restartCircuits (restartEngine s)))).Canonical := { hcleared with }
  have hmap : (restartMap (restartNotices (stalePlans (restartCircuits (restartEngine s))))).Canonical :=
    canonical_writeMap hnotices
  have hnode : (restartNode (restartMap (restartNotices (stalePlans (restartCircuits (restartEngine s)))))).Canonical := by
    unfold restartNode
    split
    · exact canonical_enterStarting hmap
    · exact canonical_deriveTarget (canonical_evaluateConvergence hmap)
  refine canonical_raise ?_
  split
  · exact canonical_originate hnode
  · exact hnode

/-! ### SERVICE and LOAD -/

theorem canonical_deliverService {c : Nat} {s : State} (h : s.Canonical) : (deliverService c s).Canonical :=
  canonical_refreshDigest (canonical_raise (canonical_generationChange (canonical_deriveTarget (canonical_stalePlans h))))

/-- SERVICE writes one record and the occupancy of its working range (R18 to R20). -/
theorem canonical_service {a : ServiceAction} {c : Nat} {s : State} (h : s.Canonical) : (service a c s).1.Canonical := by
  have htable : ∀ r v keys g, ({ s.table with
      circuits := put .absent s.table.circuits c r
      occupancy := fillOccupancy v keys s.table.occupancy
      generation := g } : CircuitTable).Canonical := fun _ _ _ _ =>
    ⟨h.table.ring, tableWf_put _ _ h.table.circuits, tableWf_fillOccupancy _ _ h.table.occupancy⟩
  cases a with
  | in_ =>
    rcases serviceIn_cases c s with e | ⟨f, att, _, e⟩
    · rw [show (service .in_ c s).1 = s from e]
      exact h
    · rw [show (service .in_ c s).1 = bringIn c f att s from e]
      exact canonical_deliverService { h with table := htable _ _ _ _ }
  | out =>
    rcases serviceOut_cases c s with e | ⟨f, att, _, _, _, e⟩
    · rw [show (service .out c s).1 = s from e]
      exact h
    · rw [show (service .out c s).1 = takeOut c f att s from e]
      exact canonical_deliverService { h with table := htable _ _ _ _ }

theorem canonical_storeSettings {g : Settings} {s : State} (h : s.Canonical) : (storeSettings g s).Canonical := by
  have hstored : (s.withSettings g).Canonical :=
    { h with table := { h.table with } }
  have horientation : (deliverOrientation s.settings (s.withSettings g)).Canonical := by
    unfold deliverOrientation
    split
    · exact hstored
    · exact canonical_deriveTarget (canonical_orientationChanged hstored)
  have hdegrade : (deliverActOnDegrade s.settings (deliverOrientation s.settings (s.withSettings g))).Canonical := by
    unfold deliverActOnDegrade
    split
    · exact horientation
    · exact canonical_deliverMapChange (canonical_writeMap (canonical_refreshDigest horientation))
  rw [storeSettings_eq]
  unfold deliverThreshold
  split
  · exact canonical_clearAllDegrade hdegrade
  · exact hdegrade

theorem canonical_advanceCursor {s : State} (h : s.Canonical) : (advanceCursor s).Canonical := { h with }

/-- The images of a load on the RING or CIRCUIT table are written entry by entry (R165). -/
theorem canonical_doLoad {bulk : List Byte} {s : State} (h : s.Canonical) : (doLoad bulk s).state.Canonical := by
  rcases doLoad_cases bulk s with e | e | e | e <;> rw [e]
  · exact h
  · rcases loadSettings_cases bulk s with e | ⟨image, e, _⟩ <;> rw [e]
    · exact h
    · exact canonical_storeSettings (canonical_advanceCursor h)
  · unfold loadRing
    split
    · exact h
    · refine canonical_evaluateRing (loadImages_keeps (fun image t u ht hu => ?_) _ 0 h)
      unfold writeRing at hu
      dsimp only at hu
      split at hu <;> cases hu
      exact canonical_advanceCursor { ht with table := { ht.table with ring := tableWf_put _ _ ht.table.ring } }
  · refine loadImages_keeps (fun image t u ht hu => ?_) _ 0 h
    obtain ⟨r, _, rfl, _⟩ := writeCircuit_ok hu
    exact canonical_advanceCursor (canonical_setCircuit ht)

/-! ### Chains -/

theorem canonical_setExecution {e : Execution} {s : State} (h : s.Canonical) : (setExecution e s).Canonical := { h with }

theorem canonical_sendReply {c : Chain} {s : State} (h : s.Canonical) : (sendReply c s).Canonical := by
  unfold sendReply
  split
  · exact h
  · rename_i origin tag _
    have hsent : (sendFrame (replyFrame s origin tag c.body) s).Canonical := canonical_sendFrame h
    exact { hsent with }

theorem canonical_endChain {c : Chain} {s : State} (h : s.Canonical) : (endChain c s).Canonical := by
  have hsent : (sendReply c s).Canonical := canonical_sendReply h
  unfold endChain
  dsimp only
  split
  · exact canonical_restart { hsent with }
  · exact { hsent with }

theorem canonical_answer {c : Chain} {more : Bool} {code : ResultCode} {count : Nat} {s : State} (h : s.Canonical) :
    (answer c more code count s).Canonical := by
  unfold answer
  split
  · exact canonical_endChain h
  · exact canonical_setExecution h

theorem canonical_takeService {c : Chain} {more : Bool} {a : ServiceAction} {n : Nat} {s : State} (h : s.Canonical) :
    (takeService c more a n s).Canonical := by
  unfold takeService
  split
  · exact canonical_setExecution h
  · exact canonical_answer (canonical_service h)

theorem canonical_takeDirective {c : Chain} {more : Bool} {d : Directive} {s : State} (h : s.Canonical) :
    (takeDirective c more d s).Canonical := by
  cases d with
  | select table index =>
    refine canonical_answer ?_
    unfold doSelect
    repeat' split
    · exact h
    · exact { h with }
    · exact h
  | load bulk => exact canonical_answer (canonical_doLoad h)
  | read count =>
    unfold takeDirective
    dsimp only
    split
    · exact canonical_answer h
    · exact canonical_setExecution h
  | service circuit action =>
    unfold takeDirective
    dsimp only
    repeat' split
    · exact canonical_answer h
    · exact canonical_answer h
    · exact canonical_takeService h
  | operator side value =>
    refine canonical_answer ?_
    unfold doOperator
    repeat' split
    · exact h
    · exact h
    · exact canonical_setRequest h
  | capture flag =>
    refine canonical_answer ?_
    unfold doCapture
    split
    · exact h
    · refine { h with counters := ?_, snapshot := h.counters }
      dsimp only
      split
      · rfl
      · exact h.counters
  | restart => exact canonical_answer h

theorem canonical_chainStep {c : Chain} {s : State} (h : s.Canonical) : (chainStep c s).Canonical := by
  unfold chainStep readRecord
  dsimp only
  repeat' split
  · exact canonical_answer h
  · exact canonical_answer h
  · exact canonical_setExecution (canonical_advanceCursor h)
  · exact canonical_answer h
  · exact canonical_answer h
  · exact canonical_takeDirective h
  · exact canonical_endChain h

theorem canonical_runChain {n : Nat} {s : State} (h : s.Canonical) : (runChain n s).Canonical := by
  induction n generalizing s with
  | zero => exact h
  | succ n ih =>
    unfold runChain
    split
    · exact ih (canonical_chainStep h)
    · exact h

theorem canonical_runPaused {pause : Option Nat} {s : State} (h : s.Canonical) : (runPaused pause s).Canonical := by
  unfold runPaused
  split
  · exact canonical_runChain h
  · exact h

theorem canonical_executeRequest {pause : Option Nat} {s : State} (h : s.Canonical) : (executeRequest pause s).Canonical := by
  have hstarted : (startRequest s).Canonical := by
    unfold startRequest
    split
    · exact h
    · exact canonical_setExecution h
  unfold executeRequest
  repeat' split
  · exact h
  · exact canonical_runPaused hstarted
  · exact canonical_runPaused h
  · exact h

theorem canonical_directive {d : Directive} {s : State} (h : s.Canonical) : (directive d s).Canonical := by
  unfold directive
  dsimp only
  repeat' split
  · exact h
  · exact canonical_runPaused (canonical_takeDirective h)
  · exact canonical_runPaused (canonical_takeDirective h)
  · exact canonical_takeDirective h
  · exact h
  · exact h
  · exact h

theorem canonical_holdTimerExpiry {s : State} (h : s.Canonical) : (holdTimerExpiry s).Canonical := by
  unfold holdTimerExpiry
  split
  · exact canonical_answer (canonical_reach h)
  · exact h

theorem canonical_heldServiceRelease {s : State} (h : s.Canonical) : (heldServiceRelease s).Canonical := by
  unfold heldServiceRelease
  repeat' split
  · exact h
  · exact canonical_takeService h
  · exact h

theorem canonical_reportEmission {s : State} (h : s.Canonical) : (reportEmission s).Canonical := by
  unfold reportEmission
  repeat' split
  · exact h
  · exact h
  · exact h
  · exact { h with }
  · exact canonical_offerFrame { h with }

/-! ### The statement -/

/-- What a command does to the tables. -/
theorem canonical_exec {c : Instr} {s t : State} (hs : s.Canonical) (h : exec c s = .next t) : t.Canonical := by
  have kept : ∀ {u : State}, u.Canonical → exec c s = .next u → t.Canonical := fun hu e => by
    rw [e] at h; cases h; exact hu
  have directed : ∀ d, exec c s = .next (directive d s) → t.Canonical := fun d => kept (canonical_directive hs)
  have frameWhen : ∀ (q : Prop) [Decidable q] p b f, (if q then bandFrame p b f s else s).Canonical := by
    intro q _ p b f
    split
    · exact canonical_bandFrame hs
    · exact hs
  cases c with
  | powerReset strap =>
    have hreset := (tablesWf_iff _).mp (powerResetMeetsTheInvariants.2 strap).1
    exact kept (u := { State.powerOn strap with pending := s.pending }) { hreset with } rfl
  | bandFrame p b f => exact kept (canonical_bandFrame hs) rfl
  | bandEntryIntoLost p b => exact kept (frameWhen _ p b noSignal) rfl
  | bandEntryIntoAligned p b f => exact kept (frameWhen _ p b f) rfl
  | degradeIntervalEnd p b f => exact kept (frameWhen _ p b f) rfl
  | holdOffExpiry p b => exact kept (canonical_holdOffExpiry hs) rfl
  | returnTimerExpiry p b => exact kept (canonical_returnTimerExpiry hs) rfl
  | bandFrameTransmit p => exact kept (u := bandFrameTransmit p s) { hs with } rfl
  | tributaryFrame n f => exact kept (canonical_tributaryFrame hs) rfl
  | tributaryAlignmentChange n f =>
    refine kept ?_ rfl
    unfold tributaryAlignmentChange
    dsimp only
    split
    · exact hs
    · exact canonical_tributaryFrame hs
  | tributaryFrameTransmit n =>
    refine kept ?_ rfl
    unfold tributaryFrameTransmit
    dsimp only
    split
    · exact { hs with }
    · exact { hs with }
  | switchFrameBoundary => exact kept (canonical_frameBoundary hs) rfl
  | tagCheckStateChange n => exact kept (canonical_tagStateChange hs) rfl
  | noticeTaken => exact kept (canonical_takeNotice hs) rfl
  | stalenessExpiry q => exact kept (canonical_stalenessExpiry hs) rfl
  | refreshTimerExpiry => exact kept (canonical_refreshExpiry hs) rfl
  | gatherExpiry => exact kept (canonical_gatherExpiry hs) rfl
  | passCompletion => exact kept (canonical_passCompletion hs) rfl
  | buildStart => exact kept (canonical_buildStart hs) rfl
  | buildEnd => exact kept (canonical_buildEnd hs) rfl
  | listenExpiry => exact kept (canonical_listenExpiry hs) rfl
  | managementFrameFromLine p bytes => exact kept (canonical_frameTaken hs) rfl
  | managementFrameFromTributary bytes => exact kept (canonical_frameTaken hs) rfl
  | executeRequest pause => exact kept (canonical_executeRequest hs) rfl
  | select table index => exact directed _ rfl
  | load bulk => exact directed _ rfl
  | read count => exact directed _ rfl
  | serviceIn n => exact directed _ rfl
  | serviceOut n => exact directed _ rfl
  | holdTimerExpiry => exact kept (canonical_holdTimerExpiry hs) rfl
  | heldServiceRelease => exact kept (canonical_heldServiceRelease hs) rfl
  | operator side value => exact directed _ rfl
  | capture flag => exact directed _ rfl
  | restart => exact directed _ rfl
  | reportEmission => exact kept (canonical_reportEmission hs) rfl

/-- Settles O5: every write of a table goes through `put`, or replaces values by values that are no default, key by key; the tables
built afresh are a target, the plans of a ring, and empty ones. -/
theorem stepsKeepTablesCanonical : Obligations.StepsKeepTablesCanonical := by
  intro s t hs h
  rw [tablesWf_iff] at hs ⊢
  unfold step at h
  split at h
  · cases h
    exact hs
  · rename_i c rest _
    have hrest : ({ s with pending := rest } : State).Canonical := { hs with }
    exact canonical_exec hrest h

end Sys2Proof.Machine
end

section
/-! PROOF. The queue of commands that wait: what a step takes from it (O1), and that no command writes it (O2) (log 1, log 3). -/

namespace Sys2Proof.Machine

/-- Settles O1: a step looks at the queue alone to choose between a command and idling. -/
theorem stepExecutesTheFrontCommand : Obligations.StepExecutesTheFrontCommand := by
  refine ⟨fun c rest s h => ?_, fun s h => ?_⟩
  · unfold step
    rw [h]
  · unfold step
    rw [h]

/-- Settles O2: each command's operation has a frame that holds the queue. -/
theorem everyCommandKeepsTheQueue : Obligations.EveryCommandKeepsTheQueue := by
  intro c s
  have directed : ∀ d, exec c s = .next (directive d s) → ∃ t, exec c s = .next t ∧ t.pending = s.pending :=
    fun d e => ⟨_, e, by simp⟩
  cases c with
  | powerReset strap => exact ⟨_, rfl, rfl⟩
  | bandFrame | bandEntryIntoLost | bandEntryIntoAligned | degradeIntervalEnd | holdOffExpiry | returnTimerExpiry =>
    exact ⟨_, rfl, by simp⟩
  | bandFrameTransmit | tributaryFrame | tributaryAlignmentChange | tributaryFrameTransmit => exact ⟨_, rfl, by simp⟩
  | switchFrameBoundary | tagCheckStateChange => exact ⟨_, rfl, by simp⟩
  | noticeTaken | stalenessExpiry | refreshTimerExpiry | listenExpiry => exact ⟨_, rfl, by simp⟩
  | gatherExpiry | passCompletion | buildStart | buildEnd => exact ⟨_, rfl, by simp⟩
  | managementFrameFromLine | managementFrameFromTributary | reportEmission => exact ⟨_, rfl, by simp⟩
  | executeRequest | holdTimerExpiry | heldServiceRelease => exact ⟨_, rfl, by simp⟩
  | select | load | read | serviceIn | serviceOut | operator | capture | restart => exact directed _ rfl

end Sys2Proof.Machine
end
